-- ==== Sys2Proof/Word.lean ====
section
/-! DEFINITION. The word types of the machine (R5, R7, R35): bit vectors of the widths the spec names. -/

namespace Sys2Proof

/-- An instruction word (R35). -/
abbrev Word := BitVec 32

/-- A byte of memory. -/
abbrev Byte := BitVec 8

/-- A scalar register, a control register, an address in a register (R139). -/
abbrev Dword := BitVec 64

/-- A cache line's 64 bytes, byte 0 in bits [7:0] (R5, R380). -/
abbrev Line := BitVec 512

/-- A vector register's 16 KiB, byte 0 in bits [7:0] (R193). -/
abbrev VReg := BitVec 131072

/-- A mask register: one bit per element, 16,384 bits (R196). -/
abbrev MReg := BitVec 16384

/-! ### What the steps of the opcode table carry that are no instruction words -/

/-- Work on entry `k` of a vector queue: `n` elements, of which an unordered access leaves `skip` that have begun for later (R201 to R203, R262). -/
structure GroupWork where
  k : BitVec 5
  n : BitVec 16
  skip : BitVec 5
deriving DecidableEq, Repr

/-- Work on entry `k` of the bank queue of context `ctx`, or, from 256 on, of the strand off its context whose trap record has the number above
256 (R20): up to `n` rows at one stack (R312 to R314). -/
structure PassWork where
  ctx : BitVec 13
  k : BitVec 4
  stack : BitVec 3
  n : BitVec 16
deriving DecidableEq, Repr

/-- The partner of a port: its package number, and whether it offers a supported flit format (R450, R451). -/
structure Partner where
  pkg : BitVec 7
  offers : BitVec 1
deriving DecidableEq, Repr

/-- What a flit brings besides its number: a good check or not, the partner's acknowledgement, its request for replay, and the number of messages
that its payload completes (R450). -/
structure FlitTail where
  crcOk : BitVec 1
  ack : BitVec 8
  nak : BitVec 1
  msgs : BitVec 4
deriving DecidableEq, Repr

/-- A request's package and port of arrival, and its source (R452, R453). -/
structure Sender where
  dst : BitVec 7
  port : BitVec 7
  src : BitVec 7
deriving DecidableEq, Repr

/-- The package that an answer is for, its port of arrival, and the home that sends it (R452, R456). -/
structure Answerer where
  dst : BitVec 7
  port : BitVec 7
  home : BitVec 7
deriving DecidableEq, Repr

/-- The connection of a packet from the host, and its congestion mark (R463). -/
structure Packet where
  conn : BitVec 8
  ecn : BitVec 1
deriving DecidableEq, Repr

end Sys2Proof
end

