-- ==== Sys2Proof/Machine/Tab.lean ====
section
/-! DEFINITION. Finite tables with numeric keys, as plain lists of (key, entry) pairs in rising key order:
register files, caches, queues of numbered things. A key that is not listed has no entry. Also the byte store that
memory is made of (a table of bytes in which no entry is zero). -/

namespace Sys2Proof.Machine

/-- A table: (key, entry) pairs in strictly rising key order. -/
abbrev Tab (α : Type) := List (Nat × α)

/-- The entry of key `k`, if any. -/
def Tab.find {α : Type} : Tab α → Nat → Option α
  | [], _ => none
  | (j, a) :: r, k => if j = k then some a else Tab.find r k

/-- The entry of key `k`, or `d` when none is listed. -/
def Tab.getD {α : Type} (t : Tab α) (k : Nat) (d : α) : α := (Tab.find t k).getD d

/-- The entry of key `k`, or the type's default (zero for bit vectors) when none is listed. -/
def Tab.get {α : Type} [Inhabited α] (t : Tab α) (k : Nat) : α := Tab.getD t k default

/-- Sets the entry of key `k`, keeping rising order. -/
def Tab.set {α : Type} : Tab α → Nat → α → Tab α
  | [], k, a => [(k, a)]
  | (j, b) :: r, k, a =>
    if k < j then (k, a) :: (j, b) :: r
    else if k = j then (k, a) :: r
    else (j, b) :: Tab.set r k a

/-- Removes key `k`. -/
def Tab.erase {α : Type} (t : Tab α) (k : Nat) : Tab α := t.filter (fun p => p.1 != k)

/-- Replaces the entry of key `k` by its image under `f` (`d` stands for an absent entry). -/
def Tab.modify {α : Type} (t : Tab α) (k : Nat) (d : α) (f : α → α) : Tab α := Tab.set t k (f (Tab.getD t k d))

/-- The keys of a table are strictly rising. -/
def Tab.wf {α : Type} (t : Tab α) : Bool :=
  match t with
  | [] => true
  | (j, _) :: r => r.all (fun p => decide (j < p.1)) && Tab.wf r

/-- A byte store: the memory of the machine. An address that is not listed reads as zero. -/
abbrev Mem := List Host.Cell

/-- The byte at address `a`. -/
def Mem.read (m : Mem) (a : Nat) : Byte := Tab.getD m a 0

/-- Writes byte `b` at address `a`: writing zero removes the entry. -/
def Mem.write (m : Mem) (a : Nat) (b : Byte) : Mem :=
  if b = 0 then Tab.erase m a else Tab.set m a b

/-- The canonical form: addresses strictly rising, no entry equal to what an unlisted address reads as. -/
def Mem.wf (m : Mem) : Bool := Tab.wf m && m.all (fun p => p.2 != 0)

/-- Reads `n` bytes from address `a` as one little-endian number (R5). -/
def Mem.readLE (m : Mem) (a : Nat) : Nat → Nat
  | 0 => 0
  | n + 1 => (Mem.read m a).toNat + 256 * Mem.readLE m (a + 1) n

/-- Writes the low `n` bytes of `v` from address `a`, least significant first (R5). -/
def Mem.writeLE (m : Mem) (a : Nat) : Nat → Nat → Mem
  | 0, _ => m
  | n + 1, v => Mem.writeLE (Mem.write m a (BitVec.ofNat 8 v)) (a + 1) n (v / 256)

end Sys2Proof.Machine
end

