-- ==== Sys2Proof/Machine/Bits.lean ====
section
/-! DEFINITION. Bit-field, byte-order and loop helpers used by every other file of the machine (R5, R11). -/

namespace Sys2Proof.Machine

/-- Bits `lo + len - 1` down to `lo` of a number (R11). -/
def fld (v lo len : Nat) : Nat := v / 2 ^ lo % 2 ^ len

/-- Bit `i` of a number. -/
def bitOf (v i : Nat) : Bool := v / 2 ^ i % 2 == 1

/-- `v` with bits `lo + len - 1` down to `lo` replaced by the low `len` bits of `f`. -/
def setFld (v lo len f : Nat) : Nat :=
  v / 2 ^ (lo + len) * 2 ^ (lo + len) + f % 2 ^ len * 2 ^ lo + v % 2 ^ lo

/-- A number of `w` bits read as two's complement. -/
def toSigned (w v : Nat) : Int :=
  let u := v % 2 ^ w
  if u < 2 ^ (w - 1) then (u : Int) else (u : Int) - 2 ^ w

/-- The low `w` bits of an integer. -/
def ofInt (w : Nat) (i : Int) : Nat := (i % (2 ^ w : Nat)).toNat

/-- A double word from an integer, modulo 2^64. -/
def dwordOfInt (i : Int) : Dword := BitVec.ofInt 64 i

/-- Sign extension of the low `w` bits of a number to 64 bits. -/
def sext64 (w v : Nat) : Dword := BitVec.ofInt 64 (toSigned w v)

/-- Number of one bits among the low `n` bits. -/
def popCount (v : Nat) : Nat → Nat
  | 0 => 0
  | n + 1 => popCount v n + (if bitOf v n then 1 else 0)

/-- The lowest index below `n` at which `p` holds, counting from `k`. -/
def lowestFrom (p : Nat → Bool) (k : Nat) : Nat → Option Nat
  | 0 => none
  | n + 1 => if p k then some k else lowestFrom p (k + 1) n

/-- The lowest index below `n` at which `p` holds. -/
def lowest (p : Nat → Bool) (n : Nat) : Option Nat := lowestFrom p 0 n

/-- `f (k) (… (f 0 a))`: runs `f` for e = 0 to n − 1, upward (R11). -/
def forUp {α : Type} (n : Nat) (a : α) (f : Nat → α → α) : α :=
  match n with
  | 0 => a
  | k + 1 => f k (forUp k a f)

/-- The numbers `lo`, `lo + 1`, …, of which there are `n`. -/
def range' (lo : Nat) : Nat → List Nat
  | 0 => []
  | n + 1 => lo :: range' (lo + 1) n

/-- Ceiling of `a / b`. -/
def ceilDiv (a b : Nat) : Nat := (a + b - 1) / b

/-- `a` rounded up to a multiple of `b`. -/
def roundUp (a b : Nat) : Nat := ceilDiv a b * b

/-- The bytes of a number, least significant first. -/
def bytesLE : Nat → Nat → List Byte
  | 0, _ => []
  | n + 1, v => BitVec.ofNat 8 v :: bytesLE n (v / 256)

/-- A number from bytes, least significant first. -/
def ofBytesLE : List Byte → Nat
  | [] => 0
  | b :: r => b.toNat + 256 * ofBytesLE r

/-- A number from bytes, most significant first. -/
def ofBytesBE (l : List Byte) : Nat := l.foldl (fun a b => a * 256 + b.toNat) 0

end Sys2Proof.Machine
end

