-- ==== Sys2Proof/Machine/Fp.lean ====
section
/-! DEFINITION. The number formats and their rounding (R209 to R217, R233): values are exact, every rounding is one call of
`roundTo`, and the flags are bits in the order of `FFLAGS` (R198). -/

namespace Sys2Proof.Machine

/-- Flags, in the bit order of `FFLAGS`. -/
abbrev fPZ : Nat := 1
abbrev fNV : Nat := 2
abbrev fDZ : Nat := 4
abbrev fOF : Nat := 8
abbrev fUF : Nat := 16
abbrev fNX : Nat := 32

/-- A floating-point format (R209). -/
structure Fmt where
  width : Nat
  ebits : Nat
  mbits : Nat
  bias : Int
  /-- e4m3: no infinity, and one NaN code per sign. -/
  e4m3 : Bool
deriving DecidableEq, Repr

def fmtF16 : Fmt := { width := 16, ebits := 5, mbits := 10, bias := 15, e4m3 := false }
def fmtB16 : Fmt := { width := 16, ebits := 8, mbits := 7, bias := 127, e4m3 := false }
def fmtF32 : Fmt := { width := 32, ebits := 8, mbits := 23, bias := 127, e4m3 := false }
def fmtF64 : Fmt := { width := 64, ebits := 11, mbits := 52, bias := 1023, e4m3 := false }
def fmtE4m3 : Fmt := { width := 8, ebits := 4, mbits := 3, bias := 7, e4m3 := true }
def fmtE5m2 : Fmt := { width := 8, ebits := 5, mbits := 2, bias := 15, e4m3 := false }

/-- The format of a floating type code (R41); f32 stands for codes that name no floating type. -/
def fmtOf (t : Nat) : Fmt :=
  if t = 8 then fmtF16 else if t = 9 then fmtB16 else if t = 11 then fmtE4m3 else if t = 12 then fmtE5m2
  else if t = 14 then fmtF64 else fmtF32

/-- The type code names a floating type, an integer type, a signed integer type (R41). -/
def isFloat (t : Nat) : Bool := decide (8 ≤ t) && t != 13 && t != 15
def isInt (t : Nat) : Bool := decide (t < 8)
def isSigned (t : Nat) : Bool := decide (t < 4)

/-- An exact value: (−1)^neg × m × 2^e, an infinity, or a NaN. -/
inductive FVal where
  | nan (signalling poison : Bool)
  | inf (neg : Bool)
  | fin (neg : Bool) (m : Nat) (e : Int)
deriving DecidableEq, Repr

def FVal.poison : FVal := .nan false true
def FVal.qnan : FVal := .nan false false

def FVal.isNan : FVal → Bool
  | .nan _ _ => true
  | _ => false

def FVal.isPoison : FVal → Bool
  | .nan _ p => p
  | _ => false

def FVal.isSig : FVal → Bool
  | .nan s _ => s
  | _ => false

/-- An integer as an exact value. -/
def FVal.ofInt (i : Int) : FVal := .fin (decide (i < 0)) i.natAbs 0

/-- The mantissa field of all ones, the exponent field of all ones. -/
def Fmt.maxM (f : Fmt) : Nat := 2 ^ f.mbits - 1
def Fmt.maxE (f : Fmt) : Nat := 2 ^ f.ebits - 1

/-- The poison and canonical encodings (R210). -/
def Fmt.poisonBits (f : Fmt) : Nat := if f.e4m3 then 0xFF else f.maxE * 2 ^ f.mbits + 2 ^ (f.mbits - 1) + 1
def Fmt.canonBits (f : Fmt) : Nat := if f.e4m3 then 0x7F else f.maxE * 2 ^ f.mbits + 2 ^ (f.mbits - 1)

/-- The value that an encoding stands for (R209, R210). -/
def decodeF (f : Fmt) (b : Nat) : FVal :=
  let neg := bitOf b (f.width - 1)
  let e := fld b f.mbits f.ebits
  let m := fld b 0 f.mbits
  if f.e4m3 then
    if e = f.maxE ∧ m = f.maxM then .nan false neg
    else if e = 0 then .fin neg m (1 - f.bias - f.mbits)
    else .fin neg (m + 2 ^ f.mbits) ((e : Int) - f.bias - f.mbits)
  else if e = f.maxE then
    if m = 0 then .inf neg
    else .nan (!bitOf m (f.mbits - 1)) (m == 2 ^ (f.mbits - 1) + 1)
  else if e = 0 then .fin neg m (1 - f.bias - f.mbits)
  else .fin neg (m + 2 ^ f.mbits) ((e : Int) - f.bias - f.mbits)

/-- How a value is rounded: a mode as `RM.MODE` codes it, or stochastically with the 32-bit number of R216. -/
structure Rnd where
  mode : Nat
  sto : Option Nat := none
deriving DecidableEq, Repr

def rne : Rnd := { mode := 0 }
def rtz : Rnd := { mode := 1 }

/-- Number of bits of a number. -/
def bitLen (m : Nat) : Nat := if m = 0 then 0 else Nat.log2 m + 1

/-- Whether a magnitude lo + rem / 2^sh (units of the last place; lo odd or even) rounds up (R215, R216). -/
def roundsUp (r : Rnd) (neg odd : Bool) (rem sh : Nat) : Bool :=
  if rem = 0 then false
  else match r.sto with
    | some n => decide (n < rem * 2 ^ 32 / 2 ^ sh)
    | none =>
      let twice := 2 * rem
      let one := 2 ^ sh
      if r.mode = 0 then decide (one < twice) || (twice == one && odd)
      else if r.mode = 1 then false
      else if r.mode = 2 then neg
      else if r.mode = 3 then !neg
      else decide (one ≤ twice)

/-- m × 2^e in units of 2^u, rounded to an integer: the integer, and whether it is inexact. -/
def roundUnits (r : Rnd) (neg : Bool) (m : Nat) (e u : Int) : Nat × Bool :=
  if u ≤ e then (m * 2 ^ (e - u).toNat, false)
  else
    let sh := (u - e).toNat
    let k := m / 2 ^ sh
    let rem := m % 2 ^ sh
    (if roundsUp r neg (k % 2 == 1) rem sh then k + 1 else k, rem != 0)

/-- The largest finite value of a format as (mantissa, exponent of its unit). -/
def Fmt.largest (f : Fmt) : Nat × Int :=
  if f.e4m3 then (14, 5) else (2 ^ (f.mbits + 1) - 1, (f.maxE : Int) - 1 - f.bias - f.mbits)

/-- The encoding of k × 2^u, which fits the format exactly. -/
def Fmt.pack (f : Fmt) (neg : Bool) (k : Nat) (u : Int) : Nat :=
  let s := if neg then 2 ^ (f.width - 1) else 0
  if k = 0 then s
  else
    let l := bitLen k
    -- the leading one at bit `mbits`
    let (k, u) := if f.mbits + 1 < l then (k / 2 ^ (l - f.mbits - 1), u + (l - f.mbits - 1 : Nat)) else (k, u)
    if k < 2 ^ f.mbits then s + k
    else s + (u + f.mbits + f.bias).toNat * 2 ^ f.mbits + k % 2 ^ f.mbits

def Fmt.infBits (f : Fmt) (neg : Bool) : Nat := (if neg then 2 ^ (f.width - 1) else 0) + f.maxE * 2 ^ f.mbits

def Fmt.largestBits (f : Fmt) (neg : Bool) : Nat := let (k, u) := f.largest; f.pack neg k u

/-- k × 2^u exceeds the largest finite value. -/
def Fmt.exceeds (f : Fmt) (k : Nat) (u : Int) : Bool :=
  let (k', u') := f.largest
  if u' ≤ u then decide (k' < k * 2 ^ (u - u').toNat) else decide (k' * 2 ^ (u' - u).toNat < k)

/-- A finite value rounded to a floating format: the encoding and the flags (R215, R216). -/
def roundFin (f : Fmt) (r : Rnd) (sat neg : Bool) (m : Nat) (e : Int) : Nat × Nat :=
  if m = 0 then (f.pack neg 0 0, 0)
  else
    let top := e + (bitLen m : Int) - 1
    let minE := 1 - f.bias
    let u := (if top < minE then minE else top) - f.mbits
    let (k, inexact) := roundUnits r neg m e u
    if f.exceeds k u then
      let toInf := r.sto.isSome || r.mode == 0 || r.mode == 4 || (r.mode == 2 && neg) || (r.mode == 3 && !neg)
      if sat then (f.largestBits neg, fOF + fNX)
      else if toInf then
        (if f.e4m3 then (f.canonBits, fOF + fNX + fNV) else (f.infBits neg, fOF + fNX))
      else (f.largestBits neg, fOF + fNX)
    else
      (f.pack neg k u, if inexact then fNX + (if top < minE then fUF else 0) else 0)

/-- `RoundTo` a floating type (R214). -/
def roundTo (f : Fmt) (r : Rnd) (sat : Bool) : FVal → Nat × Nat
  | .nan _ true => (f.poisonBits, fPZ)
  | .nan _ false => (f.canonBits, 0)
  | .inf neg =>
    if f.e4m3 then (if sat then (f.largestBits neg, 0) else (f.canonBits, fNV)) else (f.infBits neg, 0)
  | .fin neg m e => roundFin f r sat neg m e

/-- The range of an integer type of `w` bits. -/
def intMin (signed : Bool) (w : Nat) : Int := if signed then -(2 ^ (w - 1)) else 0
def intMax (signed : Bool) (w : Nat) : Int := if signed then 2 ^ (w - 1) - 1 else 2 ^ w - 1

/-- `Saturate` (R214). -/
def saturate (signed : Bool) (w : Nat) (v : Int) : Int :=
  if v < intMin signed w then intMin signed w else if intMax signed w < v then intMax signed w else v

/-- `RoundTo` an integer type (R214). -/
def roundInt (signed : Bool) (w : Nat) (r : Rnd) : FVal → Int × Nat
  | .nan _ true => (0, fNV + fPZ)
  | .nan _ false => (0, fNV)
  | .inf neg => (if neg then intMin signed w else intMax signed w, fNV)
  | .fin neg m e =>
    let (k, inexact) := roundUnits r neg m e 0
    let v : Int := if neg then -(k : Int) else k
    let c := saturate signed w v
    if c ≠ v then (c, fNV) else (v, if inexact then fNX else 0)

/-- The numbers of `Mix` (R216). -/
def mix (seed idx salt : Nat) : Nat :=
  let w := 2 ^ 64
  let z := (seed ^^^ (idx * 0x9E3779B97F4A7C15 % w) ^^^ (salt * 2 ^ 48 % w)) % w
  let z := (z ^^^ (z / 2 ^ 30)) * 0xBF58476D1CE4E5B9 % w
  let z := (z ^^^ (z / 2 ^ 27)) * 0x94D049BB133111EB % w
  let z := z ^^^ (z / 2 ^ 31)
  z / 2 ^ 32

/-! ### Exact arithmetic on values; NaN operands and invalid operations (R217, R233) -/

/-- The result of an operation with a NaN operand (R217): poison first. -/
def nanResult (l : List FVal) : FVal × Nat :=
  if l.any FVal.isPoison then (.poison, fPZ) else (.qnan, if l.any FVal.isSig then fNV else 0)

/-- The result of an invalid operation (R217). -/
def invalid : FVal × Nat := (.qnan, fNV)

def FVal.negate : FVal → FVal
  | .nan s p => .nan s p
  | .inf n => .inf (!n)
  | .fin n m e => .fin (!n) m e

/-- The sign of a sum that is exactly zero: + , but − when rounding down (R233). -/
def zeroSign (r : Rnd) : Bool := r.mode == 2 && r.sto.isNone

/-- A sum of two values, neither of them a NaN (R233). -/
def addNum (r : Rnd) : FVal → FVal → FVal × Nat
  | .inf a, .inf b => if a = b then (.inf a, 0) else invalid
  | .inf a, _ => (.inf a, 0)
  | _, .inf b => (.inf b, 0)
  | .fin na ma ea, .fin nb mb eb =>
    let e := if ea ≤ eb then ea else eb
    let x : Int := (if na then -1 else 1) * (ma * 2 ^ (ea - e).toNat : Nat)
    let y : Int := (if nb then -1 else 1) * (mb * 2 ^ (eb - e).toNat : Nat)
    let s := x + y
    if s = 0 then (.fin (if ma = 0 ∧ mb = 0 ∧ na = nb then na else zeroSign r) 0 0, 0)
    else (.fin (decide (s < 0)) s.natAbs e, 0)
  | _, _ => invalid

def fAdd (r : Rnd) (a b : FVal) : FVal × Nat :=
  if a.isNan || b.isNan then nanResult [a, b] else addNum r a b

def fSub (r : Rnd) (a b : FVal) : FVal × Nat :=
  if a.isNan || b.isNan then nanResult [a, b] else addNum r a b.negate

/-- 0 × ∞ among the factors. -/
def zeroTimesInf : FVal → FVal → Bool
  | .inf _, .fin _ m _ => m == 0
  | .fin _ m _, .inf _ => m == 0
  | _, _ => false

/-- An exact product of two values, neither of them a NaN. -/
def mulNum : FVal → FVal → FVal × Nat
  | .inf a, .inf b => (.inf (a != b), 0)
  | .inf a, .fin b m _ => if m = 0 then invalid else (.inf (a != b), 0)
  | .fin a m _, .inf b => if m = 0 then invalid else (.inf (a != b), 0)
  | .fin a ma ea, .fin b mb eb => (.fin (a != b) (ma * mb) (ea + eb), 0)
  | _, _ => invalid

def fMul (a b : FVal) : FVal × Nat := if a.isNan || b.isNan then nanResult [a, b] else mulNum a b

/-- d + a × b, rounded once by the caller; `negP` takes the product's negative (R232, R233). -/
def fFma (r : Rnd) (negP : Bool) (d a b : FVal) : FVal × Nat :=
  if d.isPoison || a.isPoison || b.isPoison then (.poison, fPZ)
  else if zeroTimesInf a b then invalid
  else if d.isNan || a.isNan || b.isNan then nanResult [d, a, b]
  else
    let p := (mulNum a b).1
    addNum r d (if negP then p.negate else p)

/-- The square root of a number, rounded down: `k` bits are tried from the highest. -/
def isqrtGo (n r : Nat) : Nat → Nat
  | 0 => r
  | k + 1 =>
    let t := r + 2 ^ k
    isqrtGo n (if t * t ≤ n then t else r) k

def isqrt (n : Nat) : Nat := isqrtGo n 0 (bitLen n / 2 + 1)

/-- How many bits beyond a quotient's or root's leading ones are kept; a last bit records that something was cut off, so every
rounding of R215 and R216 falls as it would for the exact value. -/
abbrev extraBits : Nat := 256

/-- a / b for finite non-zero values, exact but for the last bit (see `extraBits`). -/
def quotient (neg : Bool) (ma : Nat) (ea : Int) (mb : Nat) (eb : Int) : FVal :=
  let n := ma * 2 ^ extraBits
  let q := n / mb
  .fin neg (2 * q + (if n % mb = 0 then 0 else 1)) (ea - eb - extraBits - 1)

def fDiv (a b : FVal) : FVal × Nat :=
  if a.isNan || b.isNan then nanResult [a, b]
  else match a, b with
    | .inf _, .inf _ => invalid
    | .inf x, .fin y _ _ => (.inf (x != y), 0)
    | .fin x _ _, .inf y => (.fin (x != y) 0 0, 0)
    | .fin x ma ea, .fin y mb eb =>
      if mb = 0 then (if ma = 0 then invalid else (.inf (x != y), fDZ))
      else if ma = 0 then (.fin (x != y) 0 0, 0)
      else (quotient (x != y) ma ea mb eb, 0)
    | _, _ => invalid

/-- √a (R232, R233). -/
def fSqrt (a : FVal) : FVal × Nat :=
  match a with
  | .nan _ _ => nanResult [a]
  | .inf neg => if neg then invalid else (.inf false, 0)
  | .fin neg m e =>
    if m = 0 then (.fin neg 0 0, 0)
    else if neg then invalid
    else
      let (m, e) := if e % 2 = 0 then (m, e) else (2 * m, e - 1)
      let n := m * 2 ^ (2 * extraBits)
      let r := isqrt n
      (.fin false (2 * r + (if r * r = n then 0 else 1)) (e / 2 - extraBits - 1), 0)

/-- 1 / a. -/
def fRcp (a : FVal) : FVal × Nat := fDiv (.fin false 1 0) a

/-- 1 / √a (R232, R233). -/
def fRsq (a : FVal) : FVal × Nat :=
  match a with
  | .nan _ _ => nanResult [a]
  | .inf neg => if neg then invalid else (.fin false 0 0, 0)
  | .fin neg m e =>
    if m = 0 then (.inf neg, fDZ)
    else if neg then invalid
    else
      let (m, e) := if e % 2 = 0 then (m, e) else (2 * m, e - 1)
      let n := 2 ^ (2 * extraBits) / m
      let r := isqrt n
      (.fin false (2 * r + (if r * r * m = 2 ^ (2 * extraBits) then 0 else 1)) (-(e / 2) - extraBits - 1), 0)

/-- The order of two values that are no NaNs: a < b; −0 and +0 are equal. -/
def fLt (a b : FVal) : Bool :=
  match a, b with
  | .inf x, .inf y => x && !y
  | .inf x, _ => x
  | _, .inf y => !y
  | .fin na ma ea, .fin nb mb eb =>
    let e := if ea ≤ eb then ea else eb
    let x : Int := (if na then -1 else 1) * (ma * 2 ^ (ea - e).toNat : Nat)
    let y : Int := (if nb then -1 else 1) * (mb * 2 ^ (eb - e).toNat : Nat)
    decide (x < y)
  | _, _ => false

def fEq (a b : FVal) : Bool := !a.isNan && !b.isNan && !fLt a b && !fLt b a

def FVal.neg? : FVal → Bool
  | .nan _ _ => false
  | .inf n => n
  | .fin n _ _ => n

/-- a orders below b for `VMIN` and `VMAX`: −0 below +0 (R233). -/
def fBelow (a b : FVal) : Bool := fLt a b || (fEq a b && a.neg? && !b.neg?)

/-- a × 2^k (R232, R233). Powers beyond every format's range are cut to ±4,096, which changes no result. -/
def fScale (a : FVal) (k : Int) : FVal × Nat :=
  match a with
  | .nan _ _ => nanResult [a]
  | .inf n => (.inf n, 0)
  | .fin n m e =>
    if m = 0 then (.fin n 0 0, 0) else (.fin n m (e + (if k < -4096 then -4096 else if 4096 < k then 4096 else k)), 0)

/-- a − trunc(a), exact (R240). -/
def fFrac (a : FVal) : FVal × Nat :=
  match a with
  | .nan _ _ => nanResult [a]
  | .inf _ => invalid
  | .fin n m e => if 0 ≤ e then (.fin n 0 0, 0) else (.fin n (m % 2 ^ (-e).toNat) e, 0)

/-- The class of an encoding (R240): kind in bits [2:0], sign in bit [3]. -/
def fClass (f : Fmt) (b : Nat) : Nat :=
  let kind := match decodeF f b with
    | .nan sig poison => if poison then 6 else if sig then 5 else 4
    | .inf _ => 3
    | .fin _ m _ => if m = 0 then 0 else if m < 2 ^ f.mbits then 1 else 2
  kind + (if bitOf b (f.width - 1) then 8 else 0)

/-- The value of a CSD24 entry as an exact pair: value × 2^47 (R213). -/
def csdDigit (d : Nat) : Int :=
  if bitOf d 5 then (if bitOf d 4 then -1 else 1) * 2 ^ (15 - d % 16) else 0

/-- The value of a CSD24 entry: i × 2^e (R213). -/
def csd24 (v : Nat) : Int × Int :=
  (csdDigit (fld v 12 6) + csdDigit (fld v 6 6) + csdDigit (fld v 0 6), toSigned 6 (fld v 18 6) - 15)

end Sys2Proof.Machine
end

