-- ==== Sys2Proof/Syntax.lean ====
section
/-! DEFINITION. The instruction set: one constructor for each row of the opcode table, first the 232 instructions that have
words (their fields as the table gives them, in the order of the word, R37), then the 81 steps and events without a word,
whose arguments name the subject and carry the data that comes from outside. -/

namespace Sys2Proof

/-- One row of the opcode table (R42 and the chapters it names). -/
inductive Instr where
  /-- PFX (R48): Checks the prefix word and sets the strand's prefix latch, which lends a predicate and/or a destination copy to the next instruction. -/
  | pfx (i : BitVec 1) (m : BitVec 3) (u : BitVec 1) (c : BitVec 5)
  /-- ADD (R149): Writes a + b to x[d]. -/
  | add (d : BitVec 5) (a : BitVec 5) (b : BitVec 5)
  /-- SUB (R149): Writes a - b to x[d]. -/
  | sub (d : BitVec 5) (a : BitVec 5) (b : BitVec 5)
  /-- AND (R149): Writes the bitwise AND of a and b. -/
  | and (d : BitVec 5) (a : BitVec 5) (b : BitVec 5)
  /-- OR (R149): Writes the bitwise OR of a and b. -/
  | or (d : BitVec 5) (a : BitVec 5) (b : BitVec 5)
  /-- XOR (R149): Writes the bitwise XOR of a and b. -/
  | xor (d : BitVec 5) (a : BitVec 5) (b : BitVec 5)
  /-- ANDN (R149): Writes a AND NOT b. -/
  | andn (d : BitVec 5) (a : BitVec 5) (b : BitVec 5)
  /-- SLL (R149): Shifts a left by b[5:0]. -/
  | sll (d : BitVec 5) (a : BitVec 5) (b : BitVec 5)
  /-- SRL (R149): Shifts a right logically by b[5:0]. -/
  | srl (d : BitVec 5) (a : BitVec 5) (b : BitVec 5)
  /-- SRA (R149): Shifts a right arithmetically by b[5:0]. -/
  | sra (d : BitVec 5) (a : BitVec 5) (b : BitVec 5)
  /-- MIN (R149): Writes the signed minimum of a and b. -/
  | min (d : BitVec 5) (a : BitVec 5) (b : BitVec 5)
  /-- MAX (R149): Writes the signed maximum of a and b. -/
  | max (d : BitVec 5) (a : BitVec 5) (b : BitVec 5)
  /-- MINN (R149): Writes the unsigned minimum of a and b. -/
  | minn (d : BitVec 5) (a : BitVec 5) (b : BitVec 5)
  /-- MAXN (R149): Writes the unsigned maximum of a and b. -/
  | maxn (d : BitVec 5) (a : BitVec 5) (b : BitVec 5)
  /-- SLT (R149): Writes 1 when a is less than b signed, else 0. -/
  | slt (d : BitVec 5) (a : BitVec 5) (b : BitVec 5)
  /-- SLTN (R149): Writes 1 when a is less than b unsigned, else 0. -/
  | sltn (d : BitVec 5) (a : BitVec 5) (b : BitVec 5)
  /-- MUL (R149): Writes the low 64 bits of a times b. -/
  | mul (d : BitVec 5) (a : BitVec 5) (b : BitVec 5)
  /-- MULH (R149): Writes the high 64 bits of the signed product. -/
  | mulh (d : BitVec 5) (a : BitVec 5) (b : BitVec 5)
  /-- MULHN (R149): Writes the high 64 bits of the unsigned product. -/
  | mulhn (d : BitVec 5) (a : BitVec 5) (b : BitVec 5)
  /-- DIV (R150): Signed division rounded towards zero, with defined results at the limits. -/
  | div (d : BitVec 5) (a : BitVec 5) (b : BitVec 5)
  /-- DIVN (R150): Unsigned division, with defined results at the limits. -/
  | divn (d : BitVec 5) (a : BitVec 5) (b : BitVec 5)
  /-- REM (R150): Signed remainder, with defined results at the limits. -/
  | rem (d : BitVec 5) (a : BitVec 5) (b : BitVec 5)
  /-- REMN (R150): Unsigned remainder, with defined results at the limits. -/
  | remn (d : BitVec 5) (a : BitVec 5) (b : BitVec 5)
  /-- CLZ (R149): Counts the leading zero bits of a. -/
  | clz (d : BitVec 5) (a : BitVec 5)
  /-- CTZ (R149): Counts the trailing zero bits of a. -/
  | ctz (d : BitVec 5) (a : BitVec 5)
  /-- POPC (R149): Counts the one bits of a. -/
  | popc (d : BitVec 5) (a : BitVec 5)
  /-- SEXT_B (R149): Sign-extends a[7:0]. -/
  | sextB (d : BitVec 5) (a : BitVec 5)
  /-- SEXT_H (R149): Sign-extends a[15:0]. -/
  | sextH (d : BitVec 5) (a : BitVec 5)
  /-- SEXT_W (R149): Sign-extends a[31:0]. -/
  | sextW (d : BitVec 5) (a : BitVec 5)
  /-- ZEXT_B (R149): Zero-extends a[7:0]. -/
  | zextB (d : BitVec 5) (a : BitVec 5)
  /-- ZEXT_H (R149): Zero-extends a[15:0]. -/
  | zextH (d : BitVec 5) (a : BitVec 5)
  /-- ZEXT_W (R149): Zero-extends a[31:0]. -/
  | zextW (d : BitVec 5) (a : BitVec 5)
  /-- SEL (R149): Writes a when x[c] is non-zero, else b. -/
  | sel (d : BitVec 5) (a : BitVec 5) (b : BitVec 5) (c : BitVec 5)
  /-- ADDI (R151): Adds the sign-extended immediate to a. -/
  | addi (d : BitVec 5) (a : BitVec 5) (i : BitVec 16)
  /-- ANDI (R151): ANDs a with the zero-extended immediate. -/
  | andi (d : BitVec 5) (a : BitVec 5) (i : BitVec 16)
  /-- ORI (R151): ORs a with the zero-extended immediate. -/
  | ori (d : BitVec 5) (a : BitVec 5) (i : BitVec 16)
  /-- XORI (R151): XORs a with the zero-extended immediate. -/
  | xori (d : BitVec 5) (a : BitVec 5) (i : BitVec 16)
  /-- SLTI (R151): Signed compare of a with the sign-extended immediate. -/
  | slti (d : BitVec 5) (a : BitVec 5) (i : BitVec 16)
  /-- SLTIN (R151): Unsigned compare of a with the sign-extended immediate. -/
  | sltin (d : BitVec 5) (a : BitVec 5) (i : BitVec 16)
  /-- SLLI (R151): Shifts a left by an immediate amount. -/
  | slli (d : BitVec 5) (a : BitVec 5) (s : BitVec 6)
  /-- SRLI (R151): Shifts a right logically by an immediate amount. -/
  | srli (d : BitVec 5) (a : BitVec 5) (s : BitVec 6)
  /-- SRAI (R151): Shifts a right arithmetically by an immediate amount. -/
  | srai (d : BitVec 5) (a : BitVec 5) (s : BitVec 6)
  /-- LHI (R151): Writes the sign-extended immediate times 65,536. -/
  | lhi (d : BitVec 5) (i : BitVec 16)
  /-- ADDPC (R151): Writes its own address plus the immediate times 65,536. -/
  | addpc (d : BitVec 5) (i : BitVec 16)
  /-- LD (R154): Scalar load of 1 to 8 bytes, with an alignment check, translation and optional acquire. -/
  | ld (d : BitVec 5) (b : BitVec 5) (s : BitVec 2) (n : BitVec 1) (q : BitVec 1) (f : BitVec 11)
  /-- ST (R154): Scalar store of 1 to 8 bytes into the store buffer, with optional release. -/
  | st (s : BitVec 5) (b : BitVec 5) (z : BitVec 2) (q : BitVec 1) (f : BitVec 11)
  /-- AMOADD (R173): Atomic add at the point of performance, returning the old value. -/
  | amoadd (d : BitVec 5) (a : BitVec 5) (b : BitVec 5) (z : BitVec 1) (o : BitVec 2)
  /-- AMOAND (R173): Atomic AND, returning the old value. -/
  | amoand (d : BitVec 5) (a : BitVec 5) (b : BitVec 5) (z : BitVec 1) (o : BitVec 2)
  /-- AMOOR (R173): Atomic OR, returning the old value. -/
  | amoor (d : BitVec 5) (a : BitVec 5) (b : BitVec 5) (z : BitVec 1) (o : BitVec 2)
  /-- AMOXOR (R173): Atomic XOR, returning the old value. -/
  | amoxor (d : BitVec 5) (a : BitVec 5) (b : BitVec 5) (z : BitVec 1) (o : BitVec 2)
  /-- AMOMIN (R173): Atomic signed minimum, returning the old value. -/
  | amomin (d : BitVec 5) (a : BitVec 5) (b : BitVec 5) (z : BitVec 1) (o : BitVec 2)
  /-- AMOMAX (R173): Atomic signed maximum, returning the old value. -/
  | amomax (d : BitVec 5) (a : BitVec 5) (b : BitVec 5) (z : BitVec 1) (o : BitVec 2)
  /-- AMOMINN (R173): Atomic unsigned minimum, returning the old value. -/
  | amominn (d : BitVec 5) (a : BitVec 5) (b : BitVec 5) (z : BitVec 1) (o : BitVec 2)
  /-- AMOMAXN (R173): Atomic unsigned maximum, returning the old value. -/
  | amomaxn (d : BitVec 5) (a : BitVec 5) (b : BitVec 5) (z : BitVec 1) (o : BitVec 2)
  /-- AMOSWAP (R173): Atomic swap, returning the old value. -/
  | amoswap (d : BitVec 5) (a : BitVec 5) (b : BitVec 5) (z : BitVec 1) (o : BitVec 2)
  /-- CAS (R173): Atomic compare-and-swap against x[d], returning the old value; it always counts as a write. -/
  | cas (d : BitVec 5) (a : BitVec 5) (b : BitVec 5) (z : BitVec 1) (o : BitVec 2)
  /-- FENCE (R180): Holds the strand until the ordering that its scope and kinds require is in place. -/
  | fence (k : BitVec 6) (s : BitVec 3)
  /-- WAITEQ (R182): Sleeps on a line monitor until the location equals x[b] or the timeout passes. -/
  | waiteq (d : BitVec 5) (a : BitVec 5) (b : BitVec 5) (k : BitVec 5) (o : BitVec 1) (z : BitVec 1)
  /-- WAITNE (R182): Sleeps on a line monitor until the location differs from x[b] or the timeout passes. -/
  | waitne (d : BitVec 5) (a : BitVec 5) (b : BitVec 5) (k : BitVec 5) (o : BitVec 1) (z : BitVec 1)
  /-- GBAR (R188): Arrives at the gang barrier and waits until the phase completes. -/
  | gbar
  /-- GBAR_A (R188): Arrives at the gang barrier without waiting and returns the phase. -/
  | gbarA (d : BitVec 5)
  /-- GBAR_W (R188): Waits until the named phase has completed and returns P. -/
  | gbarW (d : BitVec 5) (a : BitVec 5)
  /-- BEQ (R152): Branches when a equals b. -/
  | beq (a : BitVec 5) (b : BitVec 5) (o : BitVec 16)
  /-- BNE (R152): Branches when a differs from b. -/
  | bne (a : BitVec 5) (b : BitVec 5) (o : BitVec 16)
  /-- BLT (R152): Branches when a is less than b, signed. -/
  | blt (a : BitVec 5) (b : BitVec 5) (o : BitVec 16)
  /-- BGE (R152): Branches when a is at least b, signed. -/
  | bge (a : BitVec 5) (b : BitVec 5) (o : BitVec 16)
  /-- BLTN (R152): Branches when a is less than b, unsigned. -/
  | bltn (a : BitVec 5) (b : BitVec 5) (o : BitVec 16)
  /-- BGEN (R152): Branches when a is at least b, unsigned. -/
  | bgen (a : BitVec 5) (b : BitVec 5) (o : BitVec 16)
  /-- CALL (R153): Writes the return address to x1 and jumps by a word offset. -/
  | call (o : BitVec 26)
  /-- JUMP (R153): Jumps by a word offset. -/
  | jump (o : BitVec 26)
  /-- JR (R153): Jumps to register plus immediate with an alignment check, linking into d. -/
  | jr (d : BitVec 5) (a : BitVec 5) (i : BitVec 16)
  /-- SYSC (R156): Traps with cause SYSC carrying the immediate. -/
  | sysc (i : BitVec 12)
  /-- BRK (R156): Traps with cause BRK carrying the immediate. -/
  | brk (i : BitVec 12)
  /-- ERET (R157): Returns from a trap: restores registers, the latch, the read queue and the vector queue image, and drops the level. -/
  | eret
  /-- IDLE (R158): Makes the strand not ready until a trap is deliverable or the deadline passes. -/
  | idle (a : BitVec 5)
  /-- YIELD (R159): Advances PC and lets the core's other ready contexts issue first. -/
  | yield
  /-- STOP (R160): Drains the strand's queues and stores, then ends the strand and frees its context. -/
  | stop
  /-- SPAWN (R161): Appends a start record to a device queue as a release and returns its ticket. -/
  | spawn (d : BitVec 5) (a : BitVec 5) (q : BitVec 6)
  /-- IFLUSH (R162): Waits for earlier stores, then invalidates the core's instruction cache. -/
  | iflush
  /-- TINV_ALL (R163): Invalidates every translation in the package's TLBs. -/
  | tinvAll
  /-- TINV_AS (R163): Invalidates every translation of one address space. -/
  | tinvAs (d : BitVec 5)
  /-- TINV_VA (R163): Invalidates the translations of one address space whose page contains the address. -/
  | tinvVa (d : BitVec 5) (a : BitVec 5)
  /-- CRD (R164): Reads a control register into x[d]. -/
  | crd (d : BitVec 5) (c : BitVec 12)
  /-- CWR (R164): Writes x[a] to a control register and returns the old value. -/
  | cwr (d : BitVec 5) (a : BitVec 5) (c : BitVec 12)
  /-- CSET (R164): Sets the bits that x[a] names in a control register and returns the old value. -/
  | cset (d : BitVec 5) (a : BitVec 5) (c : BitVec 12)
  /-- CCLR (R164): Clears the bits that x[a] names in a control register and returns the old value. -/
  | cclr (d : BitVec 5) (a : BitVec 5) (c : BitVec 12)
  /-- HINT (R53): No-op that never traps and advances PC. -/
  | hint (p : BitVec 26)
  /-- SETVL (R219): Sets VL and VLMAX for a type width at commit, capped by VCEIL. -/
  | setvl (d : BitVec 5) (a : BitVec 5) (t : BitVec 4)
  /-- SETTL (R219): Sets the tile row count TL at commit. -/
  | settl (d : BitVec 5) (a : BitVec 5)
  /-- SETMF (R220): Writes MF at the head of the vector queue and returns the old value. -/
  | setmf (d : BitVec 5) (a : BitVec 5)
  /-- SETRM (R220): Writes RM at the head of the vector queue and returns the old value. -/
  | setrm (d : BitVec 5) (a : BitVec 5)
  /-- VGRANT (R221): Requests lanes and waits in the lane allocator until they are granted. -/
  | vgrant (d : BitVec 5) (a : BitVec 5)
  /-- VREL (R222): Releases the strand's lanes at the head and ends matrix mode. -/
  | vrel
  /-- VSAVE (R223): Saves the vector context of the owning strand into memory and passes its granules on. -/
  | vsave (a : BitVec 5) (b : BitVec 5)
  /-- VRST (R224): Restores the executing strand's vector context from a saved area. -/
  | vrst (a : BitVec 5)
  /-- VADD_INT (R231): Integer vector add. -/
  | vaddInt (d : BitVec 5) (a : BitVec 5) (b : BitVec 5) (m : BitVec 3) (t : BitVec 4)
  /-- VSUB_INT (R231): Integer vector subtract. -/
  | vsubInt (d : BitVec 5) (a : BitVec 5) (b : BitVec 5) (m : BitVec 3) (t : BitVec 4)
  /-- VMUL_INT (R231): Integer vector multiply, low bits. -/
  | vmulInt (d : BitVec 5) (a : BitVec 5) (b : BitVec 5) (m : BitVec 3) (t : BitVec 4)
  /-- VMULH (R231): Integer vector multiply, high bits. -/
  | vmulh (d : BitVec 5) (a : BitVec 5) (b : BitVec 5) (m : BitVec 3) (t : BitVec 4)
  /-- VMIN_INT (R231): Integer vector minimum. -/
  | vminInt (d : BitVec 5) (a : BitVec 5) (b : BitVec 5) (m : BitVec 3) (t : BitVec 4)
  /-- VMAX_INT (R231): Integer vector maximum. -/
  | vmaxInt (d : BitVec 5) (a : BitVec 5) (b : BitVec 5) (m : BitVec 3) (t : BitVec 4)
  /-- VSATADD (R231): Saturating integer vector add. -/
  | vsatadd (d : BitVec 5) (a : BitVec 5) (b : BitVec 5) (m : BitVec 3) (t : BitVec 4)
  /-- VSATSUB (R231): Saturating integer vector subtract. -/
  | vsatsub (d : BitVec 5) (a : BitVec 5) (b : BitVec 5) (m : BitVec 3) (t : BitVec 4)
  /-- VSHL (R231): Integer vector shift left. -/
  | vshl (d : BitVec 5) (a : BitVec 5) (b : BitVec 5) (m : BitVec 3) (t : BitVec 4)
  /-- VSHR (R231): Integer vector logical shift right. -/
  | vshr (d : BitVec 5) (a : BitVec 5) (b : BitVec 5) (m : BitVec 3) (t : BitVec 4)
  /-- VSRA (R231): Integer vector arithmetic shift right. -/
  | vsra (d : BitVec 5) (a : BitVec 5) (b : BitVec 5) (m : BitVec 3) (t : BitVec 4)
  /-- VAND (R231): Vector bitwise AND. -/
  | vand (d : BitVec 5) (a : BitVec 5) (b : BitVec 5) (m : BitVec 3) (t : BitVec 4)
  /-- VOR (R231): Vector bitwise OR. -/
  | vor (d : BitVec 5) (a : BitVec 5) (b : BitVec 5) (m : BitVec 3) (t : BitVec 4)
  /-- VXOR (R231): Vector bitwise XOR. -/
  | vxor (d : BitVec 5) (a : BitVec 5) (b : BitVec 5) (m : BitVec 3) (t : BitVec 4)
  /-- VABS_INT (R231): Integer vector absolute value. -/
  | vabsInt (d : BitVec 5) (a : BitVec 5) (m : BitVec 3) (t : BitVec 4)
  /-- VNEG_INT (R231): Integer vector negation. -/
  | vnegInt (d : BitVec 5) (a : BitVec 5) (m : BitVec 3) (t : BitVec 4)
  /-- VADD_FP (R232): Floating-point vector add, rounded once. -/
  | vaddFp (d : BitVec 5) (a : BitVec 5) (b : BitVec 5) (m : BitVec 3) (t : BitVec 4)
  /-- VSUB_FP (R232): Floating-point vector subtract. -/
  | vsubFp (d : BitVec 5) (a : BitVec 5) (b : BitVec 5) (m : BitVec 3) (t : BitVec 4)
  /-- VMUL_FP (R232): Floating-point vector multiply. -/
  | vmulFp (d : BitVec 5) (a : BitVec 5) (b : BitVec 5) (m : BitVec 3) (t : BitVec 4)
  /-- VFMA (R232): Fused multiply-add d + a × b. -/
  | vfma (d : BitVec 5) (a : BitVec 5) (b : BitVec 5) (m : BitVec 3) (t : BitVec 4)
  /-- VFMS (R232): Fused multiply-subtract d - a × b. -/
  | vfms (d : BitVec 5) (a : BitVec 5) (b : BitVec 5) (m : BitVec 3) (t : BitVec 4)
  /-- VFNMA (R232): Negated fused multiply-add. -/
  | vfnma (d : BitVec 5) (a : BitVec 5) (b : BitVec 5) (m : BitVec 3) (t : BitVec 4)
  /-- VDIV (R232): Floating-point vector divide. -/
  | vdiv (d : BitVec 5) (a : BitVec 5) (b : BitVec 5) (m : BitVec 3) (t : BitVec 4)
  /-- VSQRT (R232): Floating-point vector square root. -/
  | vsqrt (d : BitVec 5) (a : BitVec 5) (m : BitVec 3) (t : BitVec 4)
  /-- VRCP (R232): Floating-point vector reciprocal. -/
  | vrcp (d : BitVec 5) (a : BitVec 5) (m : BitVec 3) (t : BitVec 4)
  /-- VRSQ (R232): Floating-point vector reciprocal square root. -/
  | vrsq (d : BitVec 5) (a : BitVec 5) (m : BitVec 3) (t : BitVec 4)
  /-- VMIN_FP (R232): Floating-point vector minimum. -/
  | vminFp (d : BitVec 5) (a : BitVec 5) (b : BitVec 5) (m : BitVec 3) (t : BitVec 4)
  /-- VMAX_FP (R232): Floating-point vector maximum. -/
  | vmaxFp (d : BitVec 5) (a : BitVec 5) (b : BitVec 5) (m : BitVec 3) (t : BitVec 4)
  /-- VABS_FP (R232): Clears the sign bit of each element. -/
  | vabsFp (d : BitVec 5) (a : BitVec 5) (m : BitVec 3) (t : BitVec 4)
  /-- VNEG_FP (R232): Inverts the sign bit of each element. -/
  | vnegFp (d : BitVec 5) (a : BitVec 5) (m : BitVec 3) (t : BitVec 4)
  /-- VSCALE (R232): Multiplies each element by 2^k with k from vs2. -/
  | vscale (d : BitVec 5) (a : BitVec 5) (b : BitVec 5) (m : BitVec 3) (t : BitVec 4)
  /-- VRND (R234): Rounds each element to an integral value under a chosen mode. -/
  | vrnd (d : BitVec 5) (a : BitVec 5) (r : BitVec 3) (m : BitVec 3) (t : BitVec 4)
  /-- VCMP_EQ (R235): Writes a mask of elementwise equality. -/
  | vcmpEq (d : BitVec 5) (a : BitVec 5) (b : BitVec 5) (m : BitVec 3) (t : BitVec 4)
  /-- VCMP_NE (R235): Writes a mask of elementwise inequality. -/
  | vcmpNe (d : BitVec 5) (a : BitVec 5) (b : BitVec 5) (m : BitVec 3) (t : BitVec 4)
  /-- VCMP_LT (R235): Writes a mask of elementwise less-than. -/
  | vcmpLt (d : BitVec 5) (a : BitVec 5) (b : BitVec 5) (m : BitVec 3) (t : BitVec 4)
  /-- VCMP_LE (R235): Writes a mask of elementwise less-or-equal. -/
  | vcmpLe (d : BitVec 5) (a : BitVec 5) (b : BitVec 5) (m : BitVec 3) (t : BitVec 4)
  /-- VCMP_UN (R235): Writes a mask of unordered (NaN) comparisons. -/
  | vcmpUn (d : BitVec 5) (a : BitVec 5) (b : BitVec 5) (m : BitVec 3) (t : BitVec 4)
  /-- VSEL (R236): Selects vs1 or vs2 per element by the mask, writing every element. -/
  | vsel (d : BitVec 5) (a : BitVec 5) (b : BitVec 5) (m : BitVec 3) (t : BitVec 4)
  /-- MAND (R235): Mask AND. -/
  | mand (d : BitVec 5) (a : BitVec 5) (b : BitVec 5) (m : BitVec 3)
  /-- MOR (R235): Mask OR. -/
  | mor (d : BitVec 5) (a : BitVec 5) (b : BitVec 5) (m : BitVec 3)
  /-- MXOR (R235): Mask XOR. -/
  | mxor (d : BitVec 5) (a : BitVec 5) (b : BitVec 5) (m : BitVec 3)
  /-- MNOT (R235): Mask NOT. -/
  | mnot (d : BitVec 5) (a : BitVec 5) (m : BitVec 3)
  /-- MSET (R235): Sets mask bits of active elements. -/
  | mset (d : BitVec 5) (m : BitVec 3)
  /-- MCLR (R235): Clears mask bits of active elements. -/
  | mclr (d : BitVec 5) (m : BitVec 3)
  /-- VPOPC (R237): Counts active set mask bits into a scalar through the read queue. -/
  | vpopc (d : BitVec 5) (a : BitVec 5) (m : BitVec 3)
  /-- VFIRST (R237): Returns the lowest active set mask bit through the read queue. -/
  | vfirst (d : BitVec 5) (a : BitVec 5) (m : BitVec 3)
  /-- VCVT (R239): Converts elements between types, cross-lane when the width changes. -/
  | vcvt (d : BitVec 5) (a : BitVec 5) (r : BitVec 1) (s : BitVec 4) (m : BitVec 3) (t : BitVec 4)
  /-- VFRAC (R240): Writes the fractional part of each element. -/
  | vfrac (d : BitVec 5) (a : BitVec 5) (m : BitVec 3) (t : BitVec 4)
  /-- VCLASS (R240): Writes the class and sign of each element. -/
  | vclass (d : BitVec 5) (a : BitVec 5) (m : BitVec 3) (t : BitVec 4)
  /-- VMV_V (R238): Copies vector elements unchanged. -/
  | vmvV (d : BitVec 5) (a : BitVec 5) (m : BitVec 3) (t : BitVec 4)
  /-- VMV_X (R238): Broadcasts a scalar into vector elements. -/
  | vmvX (d : BitVec 5) (b : BitVec 5) (m : BitVec 3) (t : BitVec 4)
  /-- VID (R238): Writes each element's absolute index EBASE + e. -/
  | vid (d : BitVec 5) (m : BitVec 3) (t : BitVec 4)
  /-- VIOTA (R238): Writes the count of set mask bits below each element. -/
  | viota (d : BitVec 5) (a : BitVec 5) (m : BitVec 3) (t : BitVec 4)
  /-- VREDO (R245): Ordered reduction into a hold register. -/
  | vredo (a : BitVec 5) (h : BitVec 2) (m : BitVec 3) (t : BitVec 4)
  /-- VREDT (R244): Canonical-tree reduction into a hold register, by absolute index. -/
  | vredt (a : BitVec 5) (h : BitVec 2) (m : BitVec 3) (t : BitVec 4)
  /-- VREDMAX (R245): Maximum reduction into a hold register. -/
  | vredmax (a : BitVec 5) (h : BitVec 2) (m : BitVec 3) (t : BitVec 4)
  /-- VREDMIN (R245): Minimum reduction into a hold register. -/
  | vredmin (a : BitVec 5) (h : BitVec 2) (m : BitVec 3) (t : BitVec 4)
  /-- VREDAND (R245): AND reduction into a hold register. -/
  | vredand (a : BitVec 5) (h : BitVec 2) (m : BitVec 3) (t : BitVec 4)
  /-- VREDOR (R245): OR reduction into a hold register. -/
  | vredor (a : BitVec 5) (h : BitVec 2) (m : BitVec 3) (t : BitVec 4)
  /-- VREDXOR (R245): XOR reduction into a hold register. -/
  | vredxor (a : BitVec 5) (h : BitVec 2) (m : BitVec 3) (t : BitVec 4)
  /-- VSCAN (R246): Inclusive scan, carrying its running value in a hold register. -/
  | vscan (d : BitVec 5) (a : BitVec 5) (h : BitVec 2) (m : BitVec 3) (t : BitVec 4)
  /-- VSCANX (R246): Exclusive scan, carrying its running value in a hold register. -/
  | vscanx (d : BitVec 5) (a : BitVec 5) (h : BitVec 2) (m : BitVec 3) (t : BitVec 4)
  /-- VHRD (R247): Reads out and clears a hold register into a scalar. -/
  | vhrd (d : BitVec 5) (h : BitVec 2) (t : BitVec 4)
  /-- VHCLR (R247): Clears a hold register. -/
  | vhclr (h : BitVec 2)
  /-- VCOMPRESS (R251): Packs active elements to the low positions of vd. -/
  | vcompress (d : BitVec 5) (a : BitVec 5) (m : BitVec 3) (t : BitVec 4)
  /-- VEXPAND (R251): Spreads consecutive source elements to the active positions. -/
  | vexpand (d : BitVec 5) (a : BitVec 5) (m : BitVec 3) (t : BitVec 4)
  /-- VSLIDEUP (R249): Slides elements up by k. -/
  | vslideup (d : BitVec 5) (a : BitVec 5) (b : BitVec 5) (m : BitVec 3) (t : BitVec 4)
  /-- VSLIDEDN (R249): Slides elements down by k. -/
  | vslidedn (d : BitVec 5) (a : BitVec 5) (b : BitVec 5) (m : BitVec 3) (t : BitVec 4)
  /-- VPERM (R249): Permutes vs1 by the indices in vs2. -/
  | vperm (d : BitVec 5) (a : BitVec 5) (b : BitVec 5) (m : BitVec 3) (t : BitVec 4)
  /-- VRESHAPE (R252): Transposes a row-major matrix of c columns. -/
  | vreshape (d : BitVec 5) (a : BitVec 5) (b : BitVec 5) (m : BitVec 3) (t : BitVec 4)
  /-- VMOVX (R253): Moves one vector element to a scalar through the read queue. -/
  | vmovx (d : BitVec 5) (a : BitVec 5) (b : BitVec 5) (t : BitVec 4)
  /-- VINS (R253): Inserts a scalar into one vector element. -/
  | vins (d : BitVec 5) (a : BitVec 5) (b : BitVec 5) (m : BitVec 3) (t : BitVec 4)
  /-- VLD_UNIT (R260): Unit-stride vector load, optionally fault-first. -/
  | vldUnit (d : BitVec 5) (a : BitVec 5) (m : BitVec 3) (u : BitVec 1) (f : BitVec 1) (b : BitVec 1) (s : BitVec 2)
  /-- VLD_CONVERT (R266): Converting load that expands microscaling block records. -/
  | vldConvert (d : BitVec 5) (a : BitVec 5) (t : BitVec 4) (m : BitVec 3) (u : BitVec 1) (f : BitVec 1) (b : BitVec 1) (s : BitVec 2)
  /-- VLD_STRIDED (R260): Strided vector load. -/
  | vldStrided (d : BitVec 5) (a : BitVec 5) (c : BitVec 5) (m : BitVec 3) (u : BitVec 1) (f : BitVec 1) (b : BitVec 1) (s : BitVec 2)
  /-- VLD_INDEXED (R260): Indexed vector gather with a probe pass. -/
  | vldIndexed (d : BitVec 5) (a : BitVec 5) (c : BitVec 5) (m : BitVec 3) (u : BitVec 1) (f : BitVec 1) (b : BitVec 1) (s : BitVec 2)
  /-- VLDZ (R272): Expands compressed blocks, setting VL and advancing the base register. -/
  | vldz (d : BitVec 5) (a : BitVec 5) (f : BitVec 1) (b : BitVec 1) (s : BitVec 2)
  /-- VLDS (R269): Claims elements from a copy read stream and sets VL. -/
  | vlds (d : BitVec 5) (k : BitVec 5)
  /-- VST_UNIT (R260): Unit-stride vector store. -/
  | vstUnit (s : BitVec 5) (a : BitVec 5) (m : BitVec 3) (u : BitVec 1) (b : BitVec 1) (z : BitVec 2)
  /-- VST_CONVERT (R267): Converting store that writes whole microscaling records. -/
  | vstConvert (s : BitVec 5) (a : BitVec 5) (t : BitVec 4) (m : BitVec 3) (u : BitVec 1) (b : BitVec 1) (z : BitVec 2)
  /-- VST_STRIDED (R260): Strided vector store. -/
  | vstStrided (s : BitVec 5) (a : BitVec 5) (c : BitVec 5) (m : BitVec 3) (u : BitVec 1) (b : BitVec 1) (z : BitVec 2)
  /-- VST_INDEXED (R260): Indexed vector scatter. -/
  | vstIndexed (s : BitVec 5) (a : BitVec 5) (c : BitVec 5) (m : BitVec 3) (u : BitVec 1) (b : BitVec 1) (z : BitVec 2)
  /-- VSTZ (R273): Compresses vector bytes into blocks and returns the end address. -/
  | vstz (s : BitVec 5) (a : BitVec 5) (b : BitVec 1) (z : BitVec 2)
  /-- VCPST (R274): Compress-stores the active elements to consecutive slots. -/
  | vcpst (s : BitVec 5) (a : BitVec 5) (w : BitVec 2) (m : BitVec 3) (b : BitVec 1)
  /-- VAMO_ADD (R275): One atomic add per active element. -/
  | vamoAdd (s : BitVec 5) (a : BitVec 5) (c : BitVec 5) (m : BitVec 3) (o : BitVec 2) (u : BitVec 1)
  /-- VAMO_MAX (R275): One atomic signed maximum per active element. -/
  | vamoMax (s : BitVec 5) (a : BitVec 5) (c : BitVec 5) (m : BitVec 3) (o : BitVec 2) (u : BitVec 1)
  /-- VAMO_MIN (R275): One atomic signed minimum per active element. -/
  | vamoMin (s : BitVec 5) (a : BitVec 5) (c : BitVec 5) (m : BitVec 3) (o : BitVec 2) (u : BitVec 1)
  /-- MSETM (R286): Enters, configures or leaves matrix mode at the head of the queue. -/
  | msetm (a : BitVec 5) (b : BitVec 5)
  /-- MZERO (R289): Clears a tile. -/
  | mzero (k : BitVec 2)
  /-- OPACC (R287): Adds outer products over depth steps into a tile. -/
  | opacc (k : BitVec 2) (a : BitVec 5) (b : BitVec 5) (m : BitVec 3) (t : BitVec 4)
  /-- OPSUB (R287): Subtracts outer products over depth steps from a tile. -/
  | opsub (k : BitVec 2) (a : BitVec 5) (b : BitVec 5) (m : BitVec 3) (t : BitVec 4)
  /-- MEXTR (R290): Extracts a tile row into a vector, optionally clearing it. -/
  | mextr (k : BitVec 2) (d : BitVec 5) (b : BitVec 5) (m : BitVec 3) (t : BitVec 4) (z : BitVec 1)
  /-- MEXTC (R290): Extracts a tile column into a vector, optionally clearing it. -/
  | mextc (k : BitVec 2) (d : BitVec 5) (b : BitVec 5) (m : BitVec 3) (t : BitVec 4) (z : BitVec 1)
  /-- MPUTR (R290): Writes a vector into a tile row. -/
  | mputr (k : BitVec 2) (s : BitVec 5) (b : BitVec 5) (m : BitVec 3) (t : BitVec 4)
  /-- BREG (R328): Sets or invalidates a bank region register at commit. -/
  | breg (g : BitVec 3) (a : BitVec 5) (b : BitVec 5)
  /-- CBLD (R330): Loads a codebook slot in every die of a region. -/
  | cbld (g : BitVec 3) (a : BitVec 5) (c : BitVec 5)
  /-- TBLD (R332): Builds the lookup tables of one k-group into the region's table slots. -/
  | tbld (g : BitVec 3) (a : BitVec 5) (b : BitVec 5) (c : BitVec 5) (t : BitVec 4)
  /-- LKZ (R333): Clears every accumulator of a region. -/
  | lkz (g : BitVec 3)
  /-- LKA (R335): Runs a lookup pass with tables that are already built. -/
  | lka (g : BitVec 3) (b : BitVec 5) (j : BitVec 5)
  /-- LKAB (R335): Runs a fused build-and-lookup pass over k-groups. -/
  | lkab (g : BitVec 3) (a : BitVec 5) (b : BitVec 5) (c : BitVec 5) (t : BitVec 4)
  /-- LKX (R337): Narrows region accumulators into a vector register through a write marker. -/
  | lkx (g : BitVec 3) (a : BitVec 5) (v : BitVec 5) (t : BitVec 4)
  /-- BDOT (R340): Near-bank f16 dot product written as f32. -/
  | bdot (a : BitVec 5) (b : BitVec 5) (c : BitVec 5)
  /-- BAXPY (R341): Near-bank y = y + alpha × x on f16 bank vectors. -/
  | baxpy (a : BitVec 5) (b : BitVec 5) (c : BitVec 5)
  /-- BCOPY (R342): Copies whole rows within a subarray. -/
  | bcopy (a : BitVec 5) (c : BitVec 5)
  /-- BBIT (R342): Bitwise row operation within a subarray. -/
  | bbit (a : BitVec 5) (b : BitVec 5) (c : BitVec 5) (o : BitVec 4)
  /-- BFILL (R342): Fills a bank vector with a 16-bit value. -/
  | bfill (b : BitVec 5) (c : BitVec 5)
  /-- BSYNC (R345): Waits for the bank queue, acts as an acquire, and delivers the oldest pending record. -/
  | bsync
  /-- CPDECL (R368): Reads a declaration record and binds a stream slot to a stream register. -/
  | cpdecl (a : BitVec 5) (k : BitVec 4)
  /-- CPLINK (R359): Links two streams into a chain. -/
  | cplink (j : BitVec 4) (k : BitVec 4)
  /-- CPSTORE (R368): Hands one write operation to a write stream and returns its ticket. -/
  | cpstore (d : BitVec 5) (a : BitVec 5) (b : BitVec 5) (k : BitVec 4)
  /-- CPWAIT_R (R369): Waits until the operations up to a ticket are released. -/
  | cpwaitR (a : BitVec 5) (k : BitVec 4)
  /-- CPWAIT_V (R369): Waits until the operations up to a ticket are visible at a scope; an acquire. -/
  | cpwaitV (a : BitVec 5) (s : BitVec 3) (k : BitVec 4)
  /-- CPCANCEL (R370): Unbinds a stream's chain and starts draining its slots. -/
  | cpcancel (k : BitVec 4)
  /-- SRD (R371): Claims one element of a read stream into a scalar. -/
  | srd (d : BitVec 5) (k : BitVec 4)
  /-- SAVAIL (R371): Returns a stream's available count and state. -/
  | savail (d : BitVec 5) (k : BitVec 4)
  /-- CFLUSH (R397): Writes dirty home copies back to stack DRAM, optionally invalidating them. -/
  | cflush (a : BitVec 5) (b : BitVec 5) (i : BitVec 1)
  /-- CINVAL (R397): Discards home copies so the lines read stack DRAM again. -/
  | cinval (a : BitVec 5) (b : BitVec 5)
  /-- CZERO (R397): Points lines at the canonical zero entry, as a write of zeros. -/
  | czero (a : BitVec 5) (b : BitVec 5)
  /-- CSEAL (R397): Seals unsealed lines at once. -/
  | cseal (a : BitVec 5) (b : BitVec 5)
  /-- TAP (R411): Adds probe products of one residual strip into a row's scores. -/
  | tap (s : BitVec 5) (b : BitVec 5) (m : BitVec 3) (t : BitVec 4)
  /-- TAPEND (R412): Closes a tap: checks the plan point, counts it and clears crossed rows from SQM. -/
  | tapend (a : BitVec 5)
  /-- TAPSTEER (R414): Adds the selected steering vector, scaled, to a row's residual. -/
  | tapsteer (d : BitVec 5) (b : BitVec 5) (m : BitVec 3) (t : BitVec 4)
  /-- URD (R433): Reads one uniform of a row into a scalar. -/
  | urd (d : BitVec 5) (a : BitVec 5) (t : BitVec 4)
  /-- VURD (R434): Reads one uniform for each active row. -/
  | vurd (d : BitVec 5) (m : BitVec 3) (t : BitVec 4)
  /-- VSHORT (R435): Writes value-index pairs of elements above a threshold and returns their count. -/
  | vshort (d : BitVec 5) (s : BitVec 5) (a : BitVec 5) (m : BitVec 3) (t : BitVec 4)
  /-- VACCEPT (R438): Verifies each active row's draft tree against its target samples. -/
  | vaccept (d : BitVec 5) (a : BitVec 5) (m : BitVec 3)
  /-- SCOMMIT (R439): Checks tap coverage and commits each live row's tokens and ring indices. -/
  | scommit (a : BitVec 5)
  /-- RAMO_ADD (R460): Posted remote atomic add; returns home and tag. -/
  | ramoAdd (d : BitVec 5) (a : BitVec 5) (b : BitVec 5) (z : BitVec 1) (q : BitVec 1)
  /-- RAMO_AND (R460): Posted remote atomic AND. -/
  | ramoAnd (d : BitVec 5) (a : BitVec 5) (b : BitVec 5) (z : BitVec 1) (q : BitVec 1)
  /-- RAMO_OR (R460): Posted remote atomic OR. -/
  | ramoOr (d : BitVec 5) (a : BitVec 5) (b : BitVec 5) (z : BitVec 1) (q : BitVec 1)
  /-- RAMO_XOR (R460): Posted remote atomic XOR. -/
  | ramoXor (d : BitVec 5) (a : BitVec 5) (b : BitVec 5) (z : BitVec 1) (q : BitVec 1)
  /-- RAMO_MIN (R460): Posted remote atomic signed minimum. -/
  | ramoMin (d : BitVec 5) (a : BitVec 5) (b : BitVec 5) (z : BitVec 1) (q : BitVec 1)
  /-- RAMO_MAX (R460): Posted remote atomic signed maximum. -/
  | ramoMax (d : BitVec 5) (a : BitVec 5) (b : BitVec 5) (z : BitVec 1) (q : BitVec 1)
  /-- RAMO_MINN (R460): Posted remote atomic unsigned minimum. -/
  | ramoMinn (d : BitVec 5) (a : BitVec 5) (b : BitVec 5) (z : BitVec 1) (q : BitVec 1)
  /-- RAMO_MAXN (R460): Posted remote atomic unsigned maximum. -/
  | ramoMaxn (d : BitVec 5) (a : BitVec 5) (b : BitVec 5) (z : BitVec 1) (q : BitVec 1)
  /-- RAMO_SWAP (R460): Posted remote atomic swap. -/
  | ramoSwap (d : BitVec 5) (a : BitVec 5) (b : BitVec 5) (z : BitVec 1) (q : BitVec 1)
  /-- RFENCE (R461): Waits for the strand's remote transactions and delivers pending RAMO LINKERRs. -/
  | rfence (a : BitVec 5) (h : BitVec 1)
  /-- REGISTER_WRITE (R164): A write to a control or IO register field that has no behaviour of its own stores the value under its access code. -/
  | registerWrite (num : BitVec 12) (v : BitVec 64)
  /-- QEN_WRITE (R114): Enabling a queue reads its descriptor and arms its monitor; disabling writes HEAD and TAIL back. -/
  | qenWrite (v : BitVec 64)
  /-- LINE_MONITOR_FIRE (R183): A write performed at a monitored line wakes the waiting strand or the Ford to re-read the line. -/
  | lineMonitorFire (line : BitVec 46)
  /-- START_RECORD_ADMISSION (R118): The Ford takes a full slot and runs the admission checks in order, writing a completion on failure. -/
  | startRecordAdmission (q : BitVec 6)
  /-- LANE_GRANT (R121): The cluster's lane allocator grants all requested granules to the head of its order. -/
  | laneGrant (cl : BitVec 4)
  /-- GRANULE_ZEROED (R122): A granule finishes zeroing its registers and becomes Free or Held. -/
  | granuleZeroed (cl : BitVec 4) (g : BitVec 3)
  /-- COMPLETION_WRITE (R126): After the last strand stops and its engines drain, the Ford releases local store and writes the completion record. -/
  | completionWrite (gid : BitVec 32)
  /-- HOST_EVENT_POST (R134): The Ford writes a pending event record into the host event queue by the ticket protocol. -/
  | hostEventPost
  /-- HOST_EVENT_RETRY (R134): After 10,000 ns without a free slot, the Ford reads the host event ticket again. -/
  | hostEventRetry
  /-- ANSWER_RESUME (R134): Host answer that resumes a parked strand as by ERET from its record. -/
  | answerResume (sid : BitVec 12)
  /-- ANSWER_KILL (R134): Host answer that ends the parked strand's gang with KILLED. -/
  | answerKill (sid : BitVec 12)
  /-- ANSWER_ADMIT (R134): Host answer that continues a held admission. -/
  | answerAdmit (q : BitVec 16) (t : BitVec 64)
  /-- ANSWER_REJECT (R134): Host answer that makes a held admission complete with DENIED. -/
  | answerReject (q : BitVec 16) (t : BitVec 64)
  /-- ANSWER_PROCEED (R134): Host answer that releases a port from Retrain wait or lets a domain rotate its key. -/
  | answerProceed (q : BitVec 16) (subj : BitVec 64)
  /-- TRAP_DELIVERY (R131): Halts the vector queue, writes the trap record and enters the handler, parks the strand, or converts to MCHK. -/
  | trapDelivery (ctx : BitVec 8) (cause : BitVec 8) (eval : BitVec 64)
  /-- PREEMPTION (R135): The Ford saves a lower-class strand's state, frees its context and leaves its granules Stale or Lent. -/
  | preemption (ctx : BitVec 8)
  /-- STRAND_RESUME (R136): A pre-empted strand resumes on its cluster with restored state and a lane count. -/
  | strandResume (sid : BitVec 12)
  /-- TIMER_TRAP (R142): When TIME reaches TCMP a TIMER trap becomes pending for the context. -/
  | timerTrap (ctx : BitVec 8)
  /-- IDLE_DEADLINE (R158): TIME reaching the IDLE deadline makes the strand ready again. -/
  | idleDeadline (ctx : BitVec 8)
  /-- WAIT_TIMEOUT (R182): The timeout of a WAITEQ or WAITNE expires and the wait completes with the last value. -/
  | waitTimeout (ctx : BitVec 8)
  /-- STORE_PERFORMED (R154): A scalar store is performed at its point and leaves the store buffer. -/
  | storePerformed (ctx : BitVec 8) (k : BitVec 3)
  /-- READ_QUEUE_WRITEBACK (R167): A vector-queue scalar result is written to x[d] and the read-queue entry ends. -/
  | readQueueWriteback (ctx : BitVec 8)
  /-- TABLE_WALK (R80): The walker completes a translation walk, filling the TLB or faulting. -/
  | tableWalk (ctx : BitVec 8) (va : BitVec 64) (kind : BitVec 4)
  /-- VQ_GROUP_WRITE (R201): An entry's element group becomes visible and its progress index advances. -/
  | vqGroupWrite (ctx : BitVec 8) (w : GroupWork)
  /-- VQ_ENTRY_RETIRE (R200): A complete entry at the head of the vector queue retires and releases its claims. -/
  | vqEntryRetire (ctx : BitVec 8)
  /-- BANK_ENTRY_COMPLETE (R314): A bank-queue entry finishes at every bank of its region, leaving any error record, and retires. -/
  | bankEntryComplete (w : PassWork)
  /-- BERR_WRITE (R318): An 8-byte write to a bank's BERR clears V or OVF by W1C. -/
  | berrWrite (bank : BitVec 12) (v : BitVec 64)
  /-- CACHE_FILL (R386): A line read from stack DRAM is installed at its home, with lookup, sharing or marking. -/
  | cacheFill (line : BitVec 46) (dom : BitVec 16)
  /-- CACHE_EVICTION (R390): Background eviction frees data entries, writing dirty lines back. -/
  | cacheEviction (line : BitVec 46)
  /-- SEAL (R389): The background sealer seals an unsealed line, sharing or indexing its entry, or abandons it. -/
  | seal (line : BitVec 46)
  /-- KEY_ROTATION (R392): A domain's rotation period ends; the key generation advances or the rotation waits for the host. -/
  | keyRotation (dom : BitVec 16)
  /-- DDRLD_WRITE (R394): A write reloads one domain's table entry in every quadrant. -/
  | ddrldWrite (v : BitVec 64)
  /-- REFRESH (R319): The sequencer refreshes a bank at a row boundary. -/
  | refresh (bank : BitVec 12)
  /-- ACTIVATION_COUNT_MITIGATION (R319): A DRAM die's alert is served by refreshing the neighbouring rows. -/
  | activationCountMitigation (bank : BitVec 12)
  /-- PATROL_SCRUB (R319): Reads one row of a bank and writes back the corrected words. -/
  | patrolScrub (bank : BitVec 12) (row : BitVec 17)
  /-- CENTRE_VISIT (R313): A centre access to a held bank is served at a row boundary of the pass. -/
  | centreVisit (bank : BitVec 12)
  /-- STRIP_FETCH (R361): A copy engine fetches a read strip into an empty half and makes it available, or fails it. -/
  | stripFetch (eng : BitVec 4) (k : BitVec 3)
  /-- WRITE_OPERATION_RELEASED (R363): All source reads of a write operation have been performed. -/
  | writeOperationReleased (eng : BitVec 4) (k : BitVec 3)
  /-- WRITE_OPERATION_VISIBLE (R363): All destination writes of an operation are performed at a scope. -/
  | writeOperationVisible (eng : BitVec 4) (k : BitVec 3) (scope : BitVec 3)
  /-- SLOT_DRAINED (R370): A cancelled stream's slot finishes draining and becomes Free. -/
  | slotDrained (eng : BitVec 4) (k : BitVec 3)
  /-- SQM_WRITE (R408): A write of SQM sets or clears row bits; setting a bit clears the row's tap state and UC. -/
  | sqmWrite (n : BitVec 2) (v : BitVec 64)
  /-- TRSW_WRITE (R418): Writes COUNT and SEL of row TROW and clears its scores. -/
  | trswWrite (v : BitVec 64)
  /-- SUC_WRITE (R426): Writes UC of row SROW. -/
  | sucWrite (v : BitVec 64)
  /-- PORT_ENABLE (R451): Machine firmware enables or re-enables a fabric port into Training. -/
  | portEnable (p : BitVec 7)
  /-- TRAINING_COMPLETE (R451): A port completes training with a routed partner and goes Up. -/
  | trainingComplete (p : BitVec 7) (peer : Partner)
  /-- TRAINING_TIMEOUT (R451): Training does not succeed within 10,000,000 ns and the port fails. -/
  | trainingTimeout (p : BitVec 7)
  /-- LINK_ERROR_DETECTED (R451): CRC failures or lost lock send an Up port to Retrain or Retrain wait. -/
  | linkErrorDetected (p : BitVec 7)
  /-- RETRAIN_COMPLETE (R451): Retraining completes and replay resumes from the last acknowledged flit. -/
  | retrainComplete (p : BitVec 7)
  /-- RETRAIN_TIMEOUT (R451): Retraining does not complete within 2,000,000 ns and the port fails. -/
  | retrainTimeout (p : BitVec 7)
  /-- LINK_CALIBRATION (R32): A fabric port runs calibration within its share of flit positions. -/
  | linkCalibration (p : BitVec 7)
  /-- FLIT_RECEIVE (R450): A flit arrives: it is checked, acknowledged, replayed or dropped as a duplicate. -/
  | flitReceive (p : BitVec 7) (seq : BitVec 8) (f : FlitTail)
  /-- REMOTE_REQUEST_ARRIVAL (R457): A home admits a remote request, performs it once under its tag window, or refuses it. -/
  | remoteRequestArrival (src : Sender) (tag : BitVec 16) (op : BitVec 5) (size : BitVec 2) (pa : BitVec 52) (mt : BitVec 2) (dom : BitVec 16) (data : BitVec 512) (be : BitVec 64)
  /-- REMOTE_COMPLETION_ARRIVAL (R456): A completion frees the requester's tag and completes the access. -/
  | remoteCompletionArrival (home : Answerer) (tag : BitVec 16) (data : BitVec 512) (err : BitVec 3)
  /-- REMOTE_REFUSAL_ARRIVAL (R456): A refusal frees the tag and raises LINKERR with W0 = 1. -/
  | remoteRefusalArrival (home : Answerer) (tag : BitVec 16)
  /-- TAG_RESEND (R456): A request without a completion is resent with the same tag after its port leaves Up or 65,536 cycles pass. -/
  | tagResend (home : BitVec 7) (tag : BitVec 16)
  /-- FLTO_EXPIRY (R452): A transaction with no Up port to its home for FLTO fails with LINKERR. -/
  | fltoExpiry (home : BitVec 7) (tag : BitVec 16)
  /-- RDMA_WRITE_INBOUND (R465): An inbound RDMA WRITE is checked and performed line by line. -/
  | rdmaWriteInbound (p : Packet) (va : BitVec 64) (data : BitVec 512) (be : BitVec 64)
  /-- RDMA_READ_INBOUND (R464): An inbound RDMA READ is checked and answered with data or a NAK. -/
  | rdmaReadInbound (p : Packet) (va : BitVec 64) (len : BitVec 12)
  /-- ROCE_UNSUPPORTED_REQUEST (R463): SEND, atomics, immediate data or unreliable transports are answered with a NAK. -/
  | roceUnsupportedRequest (p : Packet)
  /-- OUTBOUND_ACK (R465): The host's responder acknowledges an outbound write, which then counts as performed. -/
  | outboundAck (p : Packet)
  /-- CNP_RECEIVE (R463): A congestion notification halves the connection's send rate. -/
  | cnpReceive (conn : BitVec 8)
  /-- PTP_MESSAGE (R466): An IEEE 1588 message is timestamped and slews TIME. -/
  | ptpMessage (ppm : BitVec 12)
  /-- DEVICE_RESET (R477): Device reset runs the boot ROM, which verifies machine firmware and starts the boot context. -/
  | deviceReset
  /-- SVSTART_GO (R477): A write of GO starts a supervisor strand on every reserved context. -/
  | svstartGo (v : BitVec 64)
  /-- KEYTAB_WRITE (R479): A write re-reads the key table and drops verifications that no longer hold. -/
  | keytabWrite (v : BitVec 64)
  /-- ATTESTATION_REQUEST (R480): A nonce request to the management endpoint returns a signed report. -/
  | attestationRequest (nonce : BitVec 256)
  /-- TELEMETRY_SAMPLE (R481): Every 1 ms the package writes a telemetry sample and may post an event. -/
  | telemetrySample
  /-- THERMAL_STEP (R474): Every 1 ms junction temperatures lower or release thermal points, or raise MCHK or remove power. -/
  | thermalStep (isl : BitVec 7) (temp : BitVec 9)
  /-- POWER_CAP_STEP (R475): Every 1 ms the controller lowers or raises cluster points against the power cap. -/
  | powerCapStep (watts : BitVec 16)
  /-- ICTL_REQ_WRITE (R473): Requests an island state of On, clock-gated or power-gated. -/
  | ictlReqWrite (isl : BitVec 7) (req : BitVec 2)
  /-- ICTL_OPP_WRITE (R473): Requests an operating point for a core-clock island. -/
  | ictlOppWrite (isl : BitVec 7) (opp : BitVec 4)
  /-- OPERATING_POINT_CHANGE (R473): A new operating point takes effect within 2,000 core cycles. -/
  | operatingPointChange (isl : BitVec 7)
  /-- ISLAND_GATE (R472): An island with no work leaves On for its requested state. -/
  | islandGate (isl : BitVec 7)
  /-- ISLAND_WAKE (R472): Work reaching a gated island returns it to On after its wake time. -/
  | islandWake (isl : BitVec 7)
  /-- WORDS_THAT_ARE_NOT_INSTRUCTIONS (R44): A fetch that fails, or a fetched word that matches no assigned encoding (zero word, reserved major, unassigned function code, reserved field or prefix not permitted), traps with the cause and reason of R44. -/
  | wordsThatAreNotInstructions (w : BitVec 32)
  /-- LOAD_PERFORMED (R144): A scalar load or atomic is performed at its point and its value reaches x[d] after the strand has gone on issuing, ending the dependency interlock. -/
  | loadPerformed (ctx : BitVec 8) (k : BitVec 8)
  /-- ACCESS_FAILURE (R372): An engine access of a write operation fails, putting the stream in the Faulted state and holding the failed access. -/
  | accessFailure (eng : BitVec 4) (k : BitVec 3) (va : BitVec 64) (code : BitVec 8)
  /-- HOST_READ_RESPONSE (R463): The host's RoCEv2 responder returns the data of an outbound RDMA READ, completing a host-window load, a copy read or the Ford's event-ticket read. -/
  | hostReadResponse (p : Packet) (data : BitVec 512)
  /-- UNCONTAINED_HARDWARE_ERROR (R130): An uncontained hardware error raises MCHK with its error code to machine level. -/
  | uncontainedHardwareError (code : BitVec 16)
  /-- DDRLD_RELOAD_COMPLETE (R394): A domain reload completes in every quadrant within 512 core cycles, clearing DDRLD.BSY and releasing a write that waits on it. -/
  | ddrldReloadComplete
  /-- ANSWER_WITHOUT_SUBJECT (R134): An answer slot with an ACTION outside 1 to 5 or a non-zero reserved byte is consumed without action and counted in telemetry. -/
  | answerWithoutSubject
deriving DecidableEq, Repr

end Sys2Proof
end

