-- ==== Sys2Proof/WellFormed.lean ====
section
/-! DEFINITION. Well-formed instructions: those whose fields hold values that the owning chapters accept, beyond the fields' widths
(register ranges, type codes, modifier values: checks 4 to 6 of R44). The steps and events have no such restriction. -/

namespace Sys2Proof

/-- log2 of the width in bytes of a type code (R7, R41); x128 and the reserved code count as 16 bytes. -/
def typeLog2 (t : Nat) : Nat :=
  match t with
  | 0 | 4 | 11 | 12 => 0
  | 1 | 5 | 8 | 9 => 1
  | 2 | 6 | 10 => 2
  | 3 | 7 | 14 => 3
  | _ => 4

/-- The fields hold accepted values (R38, R40, R41, and the rule of each row). -/
def Instr.wf : Instr → Bool
  | .pfx i m u c => decide (¬(m.toNat = 0 ∧ i.toNat = 1) ∧ ¬(u.toNat = 0 ∧ c.toNat ≠ 0) ∧ ¬(m.toNat = 0 ∧ u.toNat = 0))
  | .add _ _ _ => true
  | .sub _ _ _ => true
  | .and _ _ _ => true
  | .or _ _ _ => true
  | .xor _ _ _ => true
  | .andn _ _ _ => true
  | .sll _ _ _ => true
  | .srl _ _ _ => true
  | .sra _ _ _ => true
  | .min _ _ _ => true
  | .max _ _ _ => true
  | .minn _ _ _ => true
  | .maxn _ _ _ => true
  | .slt _ _ _ => true
  | .sltn _ _ _ => true
  | .mul _ _ _ => true
  | .mulh _ _ _ => true
  | .mulhn _ _ _ => true
  | .div _ _ _ => true
  | .divn _ _ _ => true
  | .rem _ _ _ => true
  | .remn _ _ _ => true
  | .clz _ _ => true
  | .ctz _ _ => true
  | .popc _ _ => true
  | .sextB _ _ => true
  | .sextH _ _ => true
  | .sextW _ _ => true
  | .zextB _ _ => true
  | .zextH _ _ => true
  | .zextW _ _ => true
  | .sel _ _ _ _ => true
  | .addi _ _ _ => true
  | .andi _ _ _ => true
  | .ori _ _ _ => true
  | .xori _ _ _ => true
  | .slti _ _ _ => true
  | .sltin _ _ _ => true
  | .slli _ _ _ => true
  | .srli _ _ _ => true
  | .srai _ _ _ => true
  | .lhi _ _ => true
  | .addpc _ _ => true
  | .ld _ _ s n _ _ => decide (¬(s.toNat = 3 ∧ n.toNat = 1))
  | .st _ _ _ _ _ => true
  | .amoadd _ _ _ _ _ => true
  | .amoand _ _ _ _ _ => true
  | .amoor _ _ _ _ _ => true
  | .amoxor _ _ _ _ _ => true
  | .amomin _ _ _ _ _ => true
  | .amomax _ _ _ _ _ => true
  | .amominn _ _ _ _ _ => true
  | .amomaxn _ _ _ _ _ => true
  | .amoswap _ _ _ _ _ => true
  | .cas _ _ _ _ _ => true
  | .fence k s => decide (s.toNat ≤ 4 ∧ k.toNat ≠ 0)
  | .waiteq _ _ _ _ _ _ => true
  | .waitne _ _ _ _ _ _ => true
  | .gbar => true
  | .gbarA _ => true
  | .gbarW _ _ => true
  | .beq _ _ _ => true
  | .bne _ _ _ => true
  | .blt _ _ _ => true
  | .bge _ _ _ => true
  | .bltn _ _ _ => true
  | .bgen _ _ _ => true
  | .call _ => true
  | .jump _ => true
  | .jr _ _ _ => true
  | .sysc _ => true
  | .brk _ => true
  | .eret => true
  | .idle _ => true
  | .yield => true
  | .stop => true
  | .spawn _ _ _ => true
  | .iflush => true
  | .tinvAll => true
  | .tinvAs _ => true
  | .tinvVa _ _ => true
  | .crd _ _ => true
  | .cwr _ _ _ => true
  | .cset _ _ _ => true
  | .cclr _ _ _ => true
  | .hint _ => true
  | .setvl _ _ t => decide ((t.toNat ≤ 12 ∨ t.toNat = 14))
  | .settl _ _ => true
  | .setmf _ _ => true
  | .setrm _ _ => true
  | .vgrant _ _ => true
  | .vrel => true
  | .vsave _ _ => true
  | .vrst _ => true
  | .vaddInt _ _ _ _ t => decide ((t.toNat ≤ 7))
  | .vsubInt _ _ _ _ t => decide ((t.toNat ≤ 7))
  | .vmulInt _ _ _ _ t => decide ((t.toNat ≤ 7))
  | .vmulh _ _ _ _ t => decide ((t.toNat ≤ 7))
  | .vminInt _ _ _ _ t => decide ((t.toNat ≤ 7))
  | .vmaxInt _ _ _ _ t => decide ((t.toNat ≤ 7))
  | .vsatadd _ _ _ _ t => decide ((t.toNat ≤ 7))
  | .vsatsub _ _ _ _ t => decide ((t.toNat ≤ 7))
  | .vshl _ _ _ _ t => decide ((t.toNat ≤ 7))
  | .vshr _ _ _ _ t => decide ((t.toNat ≤ 7))
  | .vsra _ _ _ _ t => decide ((t.toNat ≤ 7))
  | .vand _ _ _ _ t => decide ((t.toNat ≤ 7))
  | .vor _ _ _ _ t => decide ((t.toNat ≤ 7))
  | .vxor _ _ _ _ t => decide ((t.toNat ≤ 7))
  | .vabsInt _ _ _ t => decide ((t.toNat ≤ 7))
  | .vnegInt _ _ _ t => decide ((t.toNat ≤ 7))
  | .vaddFp _ _ _ _ t => decide (((8 ≤ t.toNat ∧ t.toNat ≤ 10)))
  | .vsubFp _ _ _ _ t => decide (((8 ≤ t.toNat ∧ t.toNat ≤ 10)))
  | .vmulFp _ _ _ _ t => decide (((8 ≤ t.toNat ∧ t.toNat ≤ 10)))
  | .vfma _ _ _ _ t => decide (((8 ≤ t.toNat ∧ t.toNat ≤ 10)))
  | .vfms _ _ _ _ t => decide (((8 ≤ t.toNat ∧ t.toNat ≤ 10)))
  | .vfnma _ _ _ _ t => decide (((8 ≤ t.toNat ∧ t.toNat ≤ 10)))
  | .vdiv _ _ _ _ t => decide (((8 ≤ t.toNat ∧ t.toNat ≤ 10)))
  | .vsqrt _ _ _ t => decide (((8 ≤ t.toNat ∧ t.toNat ≤ 10)))
  | .vrcp _ _ _ t => decide (((8 ≤ t.toNat ∧ t.toNat ≤ 10)))
  | .vrsq _ _ _ t => decide (((8 ≤ t.toNat ∧ t.toNat ≤ 10)))
  | .vminFp _ _ _ _ t => decide (((8 ≤ t.toNat ∧ t.toNat ≤ 10)))
  | .vmaxFp _ _ _ _ t => decide (((8 ≤ t.toNat ∧ t.toNat ≤ 10)))
  | .vabsFp _ _ _ t => decide (((8 ≤ t.toNat ∧ t.toNat ≤ 10)))
  | .vnegFp _ _ _ t => decide (((8 ≤ t.toNat ∧ t.toNat ≤ 10)))
  | .vscale _ _ _ _ t => decide (((8 ≤ t.toNat ∧ t.toNat ≤ 10)))
  | .vrnd _ _ r _ t => decide (r.toNat ≤ 5 ∧ ((8 ≤ t.toNat ∧ t.toNat ≤ 10)))
  | .vcmpEq d _ _ _ t => decide (d.toNat ≤ 7 ∧ (t.toNat ≤ 12 ∨ t.toNat = 14))
  | .vcmpNe d _ _ _ t => decide (d.toNat ≤ 7 ∧ (t.toNat ≤ 12 ∨ t.toNat = 14))
  | .vcmpLt d _ _ _ t => decide (d.toNat ≤ 7 ∧ (t.toNat ≤ 12 ∨ t.toNat = 14))
  | .vcmpLe d _ _ _ t => decide (d.toNat ≤ 7 ∧ (t.toNat ≤ 12 ∨ t.toNat = 14))
  | .vcmpUn d _ _ _ t => decide (d.toNat ≤ 7 ∧ ((8 ≤ t.toNat ∧ t.toNat ≤ 12) ∨ t.toNat = 14))
  | .vsel _ _ _ _ t => decide ((t.toNat ≤ 12))
  | .mand d a b _ => decide (d.toNat ≤ 7 ∧ a.toNat ≤ 7 ∧ b.toNat ≤ 7)
  | .mor d a b _ => decide (d.toNat ≤ 7 ∧ a.toNat ≤ 7 ∧ b.toNat ≤ 7)
  | .mxor d a b _ => decide (d.toNat ≤ 7 ∧ a.toNat ≤ 7 ∧ b.toNat ≤ 7)
  | .mnot d a _ => decide (d.toNat ≤ 7 ∧ a.toNat ≤ 7)
  | .mset d _ => decide (d.toNat ≤ 7)
  | .mclr d _ => decide (d.toNat ≤ 7)
  | .vpopc _ a _ => decide (a.toNat ≤ 7)
  | .vfirst _ a _ => decide (a.toNat ≤ 7)
  | .vcvt d a r s _ t => decide ((r.toNat = 0 ∨ (t.toNat ≤ 7 ∧ 8 ≤ s.toNat)) ∧ (typeLog2 t.toNat = typeLog2 s.toNat ∨ d.toNat ≠ a.toNat) ∧ (t.toNat ≤ 12 ∨ t.toNat = 14) ∧ (s.toNat ≤ 12 ∨ s.toNat = 14))
  | .vfrac _ _ _ t => decide (((8 ≤ t.toNat ∧ t.toNat ≤ 10)))
  | .vclass _ _ _ t => decide (((8 ≤ t.toNat ∧ t.toNat ≤ 10)))
  | .vmvV _ _ _ t => decide ((t.toNat ≤ 12 ∨ t.toNat = 14))
  | .vmvX _ _ _ t => decide ((t.toNat ≤ 12 ∨ t.toNat = 14))
  | .vid _ _ t => decide ((t.toNat ≤ 7))
  | .viota _ a _ t => decide (a.toNat ≤ 7 ∧ (t.toNat ≤ 7))
  | .vredo _ _ _ t => decide ((t.toNat ≤ 10))
  | .vredt _ _ _ t => decide ((t.toNat ≤ 10))
  | .vredmax _ _ _ t => decide ((t.toNat ≤ 10))
  | .vredmin _ _ _ t => decide ((t.toNat ≤ 10))
  | .vredand _ _ _ t => decide ((t.toNat ≤ 7))
  | .vredor _ _ _ t => decide ((t.toNat ≤ 7))
  | .vredxor _ _ _ t => decide ((t.toNat ≤ 7))
  | .vscan _ _ _ _ t => decide ((t.toNat ≤ 10))
  | .vscanx _ _ _ _ t => decide ((t.toNat ≤ 10))
  | .vhrd _ _ t => decide ((t.toNat ≤ 10))
  | .vhclr _ => true
  | .vcompress d a _ t => decide (d.toNat ≠ a.toNat ∧ (t.toNat ≤ 12 ∨ t.toNat = 14))
  | .vexpand d a _ t => decide (d.toNat ≠ a.toNat ∧ (t.toNat ≤ 12 ∨ t.toNat = 14))
  | .vslideup d a _ _ t => decide (d.toNat ≠ a.toNat ∧ (t.toNat ≤ 12 ∨ t.toNat = 14))
  | .vslidedn d a _ _ t => decide (d.toNat ≠ a.toNat ∧ (t.toNat ≤ 12 ∨ t.toNat = 14))
  | .vperm d a b _ t => decide (d.toNat ≠ a.toNat ∧ d.toNat ≠ b.toNat ∧ (t.toNat ≤ 12 ∨ t.toNat = 14))
  | .vreshape d a _ _ t => decide (d.toNat ≠ a.toNat ∧ (t.toNat ≤ 12 ∨ t.toNat = 14))
  | .vmovx _ _ _ t => decide ((t.toNat ≤ 12 ∨ t.toNat = 14))
  | .vins _ _ _ _ t => decide ((t.toNat ≤ 12 ∨ t.toNat = 14))
  | .vldUnit _ _ _ _ _ _ _ => true
  | .vldConvert _ _ t _ _ _ _ s => decide (((s.toNat = 1 ∧ (t.toNat = 8 ∨ t.toNat = 9)) ∨ (s.toNat = 2 ∧ t.toNat = 10)))
  | .vldStrided _ _ _ _ _ _ _ _ => true
  | .vldIndexed _ _ _ _ _ _ _ _ => true
  | .vldz _ _ _ _ _ => true
  | .vlds _ k => decide (k.toNat ≤ 15)
  | .vstUnit _ _ _ _ _ _ => true
  | .vstConvert _ _ t _ _ _ z => decide (((z.toNat = 1 ∧ (t.toNat = 8 ∨ t.toNat = 9)) ∨ (z.toNat = 2 ∧ t.toNat = 10)))
  | .vstStrided _ _ _ _ _ _ _ => true
  | .vstIndexed _ _ _ _ _ _ _ => true
  | .vstz _ _ _ _ => true
  | .vcpst _ _ _ _ _ => true
  | .vamoAdd _ _ c _ o _ => decide (o.toNat ≤ 2 ∧ (o.toNat = 0 → c.toNat = 0))
  | .vamoMax _ _ c _ o _ => decide (o.toNat ≤ 2 ∧ (o.toNat = 0 → c.toNat = 0))
  | .vamoMin _ _ c _ o _ => decide (o.toNat ≤ 2 ∧ (o.toNat = 0 → c.toNat = 0))
  | .msetm _ _ => true
  | .mzero _ => true
  | .opacc _ _ _ _ t => decide ((t.toNat = 0 ∨ t.toNat = 4 ∨ (8 ≤ t.toNat ∧ t.toNat ≤ 9) ∨ (11 ≤ t.toNat ∧ t.toNat ≤ 12)))
  | .opsub _ _ _ _ t => decide ((t.toNat = 0 ∨ t.toNat = 4 ∨ (8 ≤ t.toNat ∧ t.toNat ≤ 9) ∨ (11 ≤ t.toNat ∧ t.toNat ≤ 12)))
  | .mextr _ _ _ _ t _ => decide ((t.toNat ≤ 12))
  | .mextc _ _ _ _ t _ => decide ((t.toNat ≤ 12))
  | .mputr _ _ _ _ t => decide ((t.toNat ≤ 12))
  | .breg _ _ _ => true
  | .cbld _ _ c => decide (c.toNat ≤ 15)
  | .tbld _ _ _ c t => decide (c.toNat ≤ 15 ∧ (t.toNat ≤ 1 ∨ 8 ≤ t.toNat ∧ t.toNat ≤ 10))
  | .lkz _ => true
  | .lka _ _ j => decide (j.toNat ≤ 7)
  | .lkab _ _ _ c t => decide (c.toNat ≤ 15 ∧ (t.toNat ≤ 1 ∨ 8 ≤ t.toNat ∧ t.toNat ≤ 10))
  | .lkx _ _ _ t => decide ((1 ≤ t.toNat ∧ t.toNat ≤ 2 ∨ 8 ≤ t.toNat ∧ t.toNat ≤ 10))
  | .bdot _ _ _ => true
  | .baxpy _ _ _ => true
  | .bcopy _ _ => true
  | .bbit _ b _ o => decide (o.toNat ≤ 4 ∧ (o.toNat = 4 → b.toNat = 0))
  | .bfill _ _ => true
  | .bsync => true
  | .cpdecl _ _ => true
  | .cplink _ _ => true
  | .cpstore _ _ _ _ => true
  | .cpwaitR _ _ => true
  | .cpwaitV _ s _ => decide (s.toNat ≤ 4)
  | .cpcancel _ => true
  | .srd _ _ => true
  | .savail _ _ => true
  | .cflush _ _ _ => true
  | .cinval _ _ => true
  | .czero _ _ => true
  | .cseal _ _ => true
  | .tap _ _ _ t => decide (((8 ≤ t.toNat ∧ t.toNat ≤ 10)))
  | .tapend _ => true
  | .tapsteer _ _ _ t => decide (((8 ≤ t.toNat ∧ t.toNat ≤ 10)))
  | .urd _ _ t => decide ((t.toNat = 6 ∨ t.toNat = 10))
  | .vurd _ _ t => decide ((t.toNat = 6 ∨ t.toNat = 10))
  | .vshort _ _ _ _ t => decide (((5 ≤ t.toNat ∧ t.toNat ≤ 6) ∨ (8 ≤ t.toNat ∧ t.toNat ≤ 10)))
  | .vaccept _ _ _ => true
  | .scommit _ => true
  | .ramoAdd _ _ _ _ _ => true
  | .ramoAnd _ _ _ _ _ => true
  | .ramoOr _ _ _ _ _ => true
  | .ramoXor _ _ _ _ _ => true
  | .ramoMin _ _ _ _ _ => true
  | .ramoMax _ _ _ _ _ => true
  | .ramoMinn _ _ _ _ _ => true
  | .ramoMaxn _ _ _ _ _ => true
  | .ramoSwap _ _ _ _ _ => true
  | .rfence a h => decide ((h.toNat = 1 ∨ a.toNat = 0))
  | .registerWrite _ _ => true
  | .qenWrite _ => true
  | .lineMonitorFire _ => true
  | .startRecordAdmission _ => true
  | .laneGrant _ => true
  | .granuleZeroed _ _ => true
  | .completionWrite _ => true
  | .hostEventPost => true
  | .hostEventRetry => true
  | .answerResume _ => true
  | .answerKill _ => true
  | .answerAdmit _ _ => true
  | .answerReject _ _ => true
  | .answerProceed _ _ => true
  | .trapDelivery _ _ _ => true
  | .preemption _ => true
  | .strandResume _ => true
  | .timerTrap _ => true
  | .idleDeadline _ => true
  | .waitTimeout _ => true
  | .storePerformed _ _ => true
  | .readQueueWriteback _ => true
  | .tableWalk _ _ _ => true
  | .vqGroupWrite _ _ => true
  | .vqEntryRetire _ => true
  | .bankEntryComplete _ => true
  | .berrWrite _ _ => true
  | .cacheFill _ _ => true
  | .cacheEviction _ => true
  | .seal _ => true
  | .keyRotation _ => true
  | .ddrldWrite _ => true
  | .refresh _ => true
  | .activationCountMitigation _ => true
  | .patrolScrub _ _ => true
  | .centreVisit _ => true
  | .stripFetch _ _ => true
  | .writeOperationReleased _ _ => true
  | .writeOperationVisible _ _ _ => true
  | .slotDrained _ _ => true
  | .sqmWrite _ _ => true
  | .trswWrite _ => true
  | .sucWrite _ => true
  | .portEnable _ => true
  | .trainingComplete _ _ => true
  | .trainingTimeout _ => true
  | .linkErrorDetected _ => true
  | .retrainComplete _ => true
  | .retrainTimeout _ => true
  | .linkCalibration _ => true
  | .flitReceive _ _ _ => true
  | .remoteRequestArrival _ _ _ _ _ _ _ _ _ => true
  | .remoteCompletionArrival _ _ _ _ => true
  | .remoteRefusalArrival _ _ => true
  | .tagResend _ _ => true
  | .fltoExpiry _ _ => true
  | .rdmaWriteInbound _ _ _ _ => true
  | .rdmaReadInbound _ _ _ => true
  | .roceUnsupportedRequest _ => true
  | .outboundAck _ => true
  | .cnpReceive _ => true
  | .ptpMessage _ => true
  | .deviceReset => true
  | .svstartGo _ => true
  | .keytabWrite _ => true
  | .attestationRequest _ => true
  | .telemetrySample => true
  | .thermalStep _ _ => true
  | .powerCapStep _ => true
  | .ictlReqWrite _ _ => true
  | .ictlOppWrite _ _ => true
  | .operatingPointChange _ => true
  | .islandGate _ => true
  | .islandWake _ => true
  | .wordsThatAreNotInstructions _ => true
  | .loadPerformed _ _ => true
  | .accessFailure _ _ _ _ => true
  | .hostReadResponse _ _ => true
  | .uncontainedHardwareError _ => true
  | .ddrldReloadComplete => true
  | .answerWithoutSubject => true

end Sys2Proof
end

