-- ==== Sys2Proof/Decode.lean ====
section
/-! DEFINITION. Decoding (R37 to R46) and encoding, both from the spec's encoding tables. A word is read by the checks of R44, in
their order: the zero word and major 0x00, reserved majors, function codes, reserved fields and ranges, type codes. -/

namespace Sys2Proof

/-- Why a word is no instruction: checks 2 to 6 of R44. -/
inductive Reject where
  /-- Check 2: the word is zero, or its major is 0x00. -/
  | zeroWord
  /-- Check 3: the major is reserved. -/
  | reservedMajor
  /-- Check 4: the function code is unassigned. -/
  | unassigned
  /-- Check 5: a reserved field is not zero, or a register or resource field is out of range. -/
  | reservedField
  /-- Check 6: the type code is not accepted. -/
  | typeCode
deriving DecidableEq, Repr

/-- The reason code of R44. -/
def Reject.reason : Reject → Nat
  | .zeroWord => 1
  | .reservedMajor => 2
  | .unassigned => 3
  | .reservedField => 4
  | .typeCode => 5

/-- PFX (R48). -/
def readPfx (w : Nat) : Except Reject Instr :=
  if w % 65536 = 0 ∧ ¬((w / 4194304 % 8) = 0 ∧ (w / 33554432 % 2) = 1) ∧ ¬((w / 2097152 % 2) = 0 ∧ (w / 65536 % 32) ≠ 0) ∧
    ¬((w / 4194304 % 8) = 0 ∧ (w / 2097152 % 2) = 0) then .ok (.pfx (BitVec.ofNat 1 (w / 33554432)) (BitVec.ofNat 3 (w / 4194304))
    (BitVec.ofNat 1 (w / 2097152)) (BitVec.ofNat 5 (w / 65536))) else .error .reservedField

/-- ADD (R149). -/
def readAdd (w : Nat) : Except Reject Instr :=
  if w / 64 % 32 = 0 then .ok (.add (BitVec.ofNat 5 (w / 2097152)) (BitVec.ofNat 5 (w / 65536)) (BitVec.ofNat 5 (w / 2048)))
    else .error .reservedField

/-- SUB (R149). -/
def readSub (w : Nat) : Except Reject Instr :=
  if w / 64 % 32 = 0 then .ok (.sub (BitVec.ofNat 5 (w / 2097152)) (BitVec.ofNat 5 (w / 65536)) (BitVec.ofNat 5 (w / 2048)))
    else .error .reservedField

/-- AND (R149). -/
def readAnd (w : Nat) : Except Reject Instr :=
  if w / 64 % 32 = 0 then .ok (.and (BitVec.ofNat 5 (w / 2097152)) (BitVec.ofNat 5 (w / 65536)) (BitVec.ofNat 5 (w / 2048)))
    else .error .reservedField

/-- OR (R149). -/
def readOr (w : Nat) : Except Reject Instr :=
  if w / 64 % 32 = 0 then .ok (.or (BitVec.ofNat 5 (w / 2097152)) (BitVec.ofNat 5 (w / 65536)) (BitVec.ofNat 5 (w / 2048))) else .error .reservedField

/-- XOR (R149). -/
def readXor (w : Nat) : Except Reject Instr :=
  if w / 64 % 32 = 0 then .ok (.xor (BitVec.ofNat 5 (w / 2097152)) (BitVec.ofNat 5 (w / 65536)) (BitVec.ofNat 5 (w / 2048)))
    else .error .reservedField

/-- ANDN (R149). -/
def readAndn (w : Nat) : Except Reject Instr :=
  if w / 64 % 32 = 0 then .ok (.andn (BitVec.ofNat 5 (w / 2097152)) (BitVec.ofNat 5 (w / 65536)) (BitVec.ofNat 5 (w / 2048)))
    else .error .reservedField

/-- SLL (R149). -/
def readSll (w : Nat) : Except Reject Instr :=
  if w / 64 % 32 = 0 then .ok (.sll (BitVec.ofNat 5 (w / 2097152)) (BitVec.ofNat 5 (w / 65536)) (BitVec.ofNat 5 (w / 2048)))
    else .error .reservedField

/-- SRL (R149). -/
def readSrl (w : Nat) : Except Reject Instr :=
  if w / 64 % 32 = 0 then .ok (.srl (BitVec.ofNat 5 (w / 2097152)) (BitVec.ofNat 5 (w / 65536)) (BitVec.ofNat 5 (w / 2048)))
    else .error .reservedField

/-- SRA (R149). -/
def readSra (w : Nat) : Except Reject Instr :=
  if w / 64 % 32 = 0 then .ok (.sra (BitVec.ofNat 5 (w / 2097152)) (BitVec.ofNat 5 (w / 65536)) (BitVec.ofNat 5 (w / 2048)))
    else .error .reservedField

/-- MIN (R149). -/
def readMin (w : Nat) : Except Reject Instr :=
  if w / 64 % 32 = 0 then .ok (.min (BitVec.ofNat 5 (w / 2097152)) (BitVec.ofNat 5 (w / 65536)) (BitVec.ofNat 5 (w / 2048)))
    else .error .reservedField

/-- MAX (R149). -/
def readMax (w : Nat) : Except Reject Instr :=
  if w / 64 % 32 = 0 then .ok (.max (BitVec.ofNat 5 (w / 2097152)) (BitVec.ofNat 5 (w / 65536)) (BitVec.ofNat 5 (w / 2048)))
    else .error .reservedField

/-- MINN (R149). -/
def readMinn (w : Nat) : Except Reject Instr :=
  if w / 64 % 32 = 0 then .ok (.minn (BitVec.ofNat 5 (w / 2097152)) (BitVec.ofNat 5 (w / 65536)) (BitVec.ofNat 5 (w / 2048)))
    else .error .reservedField

/-- MAXN (R149). -/
def readMaxn (w : Nat) : Except Reject Instr :=
  if w / 64 % 32 = 0 then .ok (.maxn (BitVec.ofNat 5 (w / 2097152)) (BitVec.ofNat 5 (w / 65536)) (BitVec.ofNat 5 (w / 2048)))
    else .error .reservedField

/-- SLT (R149). -/
def readSlt (w : Nat) : Except Reject Instr :=
  if w / 64 % 32 = 0 then .ok (.slt (BitVec.ofNat 5 (w / 2097152)) (BitVec.ofNat 5 (w / 65536)) (BitVec.ofNat 5 (w / 2048)))
    else .error .reservedField

/-- SLTN (R149). -/
def readSltn (w : Nat) : Except Reject Instr :=
  if w / 64 % 32 = 0 then .ok (.sltn (BitVec.ofNat 5 (w / 2097152)) (BitVec.ofNat 5 (w / 65536)) (BitVec.ofNat 5 (w / 2048)))
    else .error .reservedField

/-- MUL (R149). -/
def readMul (w : Nat) : Except Reject Instr :=
  if w / 64 % 32 = 0 then .ok (.mul (BitVec.ofNat 5 (w / 2097152)) (BitVec.ofNat 5 (w / 65536)) (BitVec.ofNat 5 (w / 2048)))
    else .error .reservedField

/-- MULH (R149). -/
def readMulh (w : Nat) : Except Reject Instr :=
  if w / 64 % 32 = 0 then .ok (.mulh (BitVec.ofNat 5 (w / 2097152)) (BitVec.ofNat 5 (w / 65536)) (BitVec.ofNat 5 (w / 2048)))
    else .error .reservedField

/-- MULHN (R149). -/
def readMulhn (w : Nat) : Except Reject Instr :=
  if w / 64 % 32 = 0 then .ok (.mulhn (BitVec.ofNat 5 (w / 2097152)) (BitVec.ofNat 5 (w / 65536)) (BitVec.ofNat 5 (w / 2048)))
    else .error .reservedField

/-- DIV (R150). -/
def readDiv (w : Nat) : Except Reject Instr :=
  if w / 64 % 32 = 0 then .ok (.div (BitVec.ofNat 5 (w / 2097152)) (BitVec.ofNat 5 (w / 65536)) (BitVec.ofNat 5 (w / 2048)))
    else .error .reservedField

/-- DIVN (R150). -/
def readDivn (w : Nat) : Except Reject Instr :=
  if w / 64 % 32 = 0 then .ok (.divn (BitVec.ofNat 5 (w / 2097152)) (BitVec.ofNat 5 (w / 65536)) (BitVec.ofNat 5 (w / 2048)))
    else .error .reservedField

/-- REM (R150). -/
def readRem (w : Nat) : Except Reject Instr :=
  if w / 64 % 32 = 0 then .ok (.rem (BitVec.ofNat 5 (w / 2097152)) (BitVec.ofNat 5 (w / 65536)) (BitVec.ofNat 5 (w / 2048)))
    else .error .reservedField

/-- REMN (R150). -/
def readRemn (w : Nat) : Except Reject Instr :=
  if w / 64 % 32 = 0 then .ok (.remn (BitVec.ofNat 5 (w / 2097152)) (BitVec.ofNat 5 (w / 65536)) (BitVec.ofNat 5 (w / 2048)))
    else .error .reservedField

/-- CLZ (R149). -/
def readClz (w : Nat) : Except Reject Instr :=
  if w / 64 % 1024 = 0 then .ok (.clz (BitVec.ofNat 5 (w / 2097152)) (BitVec.ofNat 5 (w / 65536))) else .error .reservedField

/-- CTZ (R149). -/
def readCtz (w : Nat) : Except Reject Instr :=
  if w / 64 % 1024 = 0 then .ok (.ctz (BitVec.ofNat 5 (w / 2097152)) (BitVec.ofNat 5 (w / 65536))) else .error .reservedField

/-- POPC (R149). -/
def readPopc (w : Nat) : Except Reject Instr :=
  if w / 64 % 1024 = 0 then .ok (.popc (BitVec.ofNat 5 (w / 2097152)) (BitVec.ofNat 5 (w / 65536))) else .error .reservedField

/-- SEXT_B (R149). -/
def readSextB (w : Nat) : Except Reject Instr :=
  if w / 64 % 1024 = 0 then .ok (.sextB (BitVec.ofNat 5 (w / 2097152)) (BitVec.ofNat 5 (w / 65536))) else .error .reservedField

/-- SEXT_H (R149). -/
def readSextH (w : Nat) : Except Reject Instr :=
  if w / 64 % 1024 = 0 then .ok (.sextH (BitVec.ofNat 5 (w / 2097152)) (BitVec.ofNat 5 (w / 65536))) else .error .reservedField

/-- SEXT_W (R149). -/
def readSextW (w : Nat) : Except Reject Instr :=
  if w / 64 % 1024 = 0 then .ok (.sextW (BitVec.ofNat 5 (w / 2097152)) (BitVec.ofNat 5 (w / 65536))) else .error .reservedField

/-- ZEXT_B (R149). -/
def readZextB (w : Nat) : Except Reject Instr :=
  if w / 64 % 1024 = 0 then .ok (.zextB (BitVec.ofNat 5 (w / 2097152)) (BitVec.ofNat 5 (w / 65536))) else .error .reservedField

/-- ZEXT_H (R149). -/
def readZextH (w : Nat) : Except Reject Instr :=
  if w / 64 % 1024 = 0 then .ok (.zextH (BitVec.ofNat 5 (w / 2097152)) (BitVec.ofNat 5 (w / 65536))) else .error .reservedField

/-- ZEXT_W (R149). -/
def readZextW (w : Nat) : Except Reject Instr :=
  if w / 64 % 1024 = 0 then .ok (.zextW (BitVec.ofNat 5 (w / 2097152)) (BitVec.ofNat 5 (w / 65536))) else .error .reservedField

/-- SEL (R149). -/
def readSel (w : Nat) : Except Reject Instr :=
  .ok (.sel (BitVec.ofNat 5 (w / 2097152)) (BitVec.ofNat 5 (w / 65536)) (BitVec.ofNat 5 (w / 2048)) (BitVec.ofNat 5 (w / 64)))

/-- ADDI (R151). -/
def readAddi (w : Nat) : Except Reject Instr :=
  .ok (.addi (BitVec.ofNat 5 (w / 2097152)) (BitVec.ofNat 5 (w / 65536)) (BitVec.ofNat 16 (w)))

/-- ANDI (R151). -/
def readAndi (w : Nat) : Except Reject Instr :=
  .ok (.andi (BitVec.ofNat 5 (w / 2097152)) (BitVec.ofNat 5 (w / 65536)) (BitVec.ofNat 16 (w)))

/-- ORI (R151). -/
def readOri (w : Nat) : Except Reject Instr :=
  .ok (.ori (BitVec.ofNat 5 (w / 2097152)) (BitVec.ofNat 5 (w / 65536)) (BitVec.ofNat 16 (w)))

/-- XORI (R151). -/
def readXori (w : Nat) : Except Reject Instr :=
  .ok (.xori (BitVec.ofNat 5 (w / 2097152)) (BitVec.ofNat 5 (w / 65536)) (BitVec.ofNat 16 (w)))

/-- SLTI (R151). -/
def readSlti (w : Nat) : Except Reject Instr :=
  .ok (.slti (BitVec.ofNat 5 (w / 2097152)) (BitVec.ofNat 5 (w / 65536)) (BitVec.ofNat 16 (w)))

/-- SLTIN (R151). -/
def readSltin (w : Nat) : Except Reject Instr :=
  .ok (.sltin (BitVec.ofNat 5 (w / 2097152)) (BitVec.ofNat 5 (w / 65536)) (BitVec.ofNat 16 (w)))

/-- SLLI (R151). -/
def readSlli (w : Nat) : Except Reject Instr :=
  if w / 256 % 256 = 0 then .ok (.slli (BitVec.ofNat 5 (w / 2097152)) (BitVec.ofNat 5 (w / 65536)) (BitVec.ofNat 6 (w))) else .error .reservedField

/-- SRLI (R151). -/
def readSrli (w : Nat) : Except Reject Instr :=
  if w / 256 % 256 = 0 then .ok (.srli (BitVec.ofNat 5 (w / 2097152)) (BitVec.ofNat 5 (w / 65536)) (BitVec.ofNat 6 (w))) else .error .reservedField

/-- SRAI (R151). -/
def readSrai (w : Nat) : Except Reject Instr :=
  if w / 256 % 256 = 0 then .ok (.srai (BitVec.ofNat 5 (w / 2097152)) (BitVec.ofNat 5 (w / 65536)) (BitVec.ofNat 6 (w))) else .error .reservedField

/-- LHI (R151). -/
def readLhi (w : Nat) : Except Reject Instr :=
  if w / 65536 % 32 = 0 then .ok (.lhi (BitVec.ofNat 5 (w / 2097152)) (BitVec.ofNat 16 (w))) else .error .reservedField

/-- ADDPC (R151). -/
def readAddpc (w : Nat) : Except Reject Instr :=
  if w / 65536 % 32 = 0 then .ok (.addpc (BitVec.ofNat 5 (w / 2097152)) (BitVec.ofNat 16 (w))) else .error .reservedField

/-- LD (R154). -/
def readLd (w : Nat) : Except Reject Instr :=
  if w / 4096 % 2 = 0 ∧ ¬((w / 16384 % 4) = 3 ∧ (w / 8192 % 2) = 1) then .ok (.ld (BitVec.ofNat 5 (w / 2097152))
    (BitVec.ofNat 5 (w / 65536)) (BitVec.ofNat 2 (w / 16384)) (BitVec.ofNat 1 (w / 8192)) (BitVec.ofNat 1 (w / 2048)) (BitVec.ofNat 11 (w)))
    else .error .reservedField

/-- ST (R154). -/
def readSt (w : Nat) : Except Reject Instr :=
  if w / 2048 % 2 = 0 ∧ w / 8192 % 2 = 0 then .ok (.st (BitVec.ofNat 5 (w / 2097152)) (BitVec.ofNat 5 (w / 65536))
    (BitVec.ofNat 2 (w / 16384)) (BitVec.ofNat 1 (w / 4096)) (BitVec.ofNat 11 (w))) else .error .reservedField

/-- AMOADD (R173). -/
def readAmoadd (w : Nat) : Except Reject Instr :=
  .ok (.amoadd (BitVec.ofNat 5 (w / 2097152)) (BitVec.ofNat 5 (w / 65536)) (BitVec.ofNat 5 (w / 2048)) (BitVec.ofNat 1 (w / 64)) (BitVec.ofNat 2 (w / 16)))

/-- AMOAND (R173). -/
def readAmoand (w : Nat) : Except Reject Instr :=
  .ok (.amoand (BitVec.ofNat 5 (w / 2097152)) (BitVec.ofNat 5 (w / 65536)) (BitVec.ofNat 5 (w / 2048)) (BitVec.ofNat 1 (w / 64)) (BitVec.ofNat 2 (w / 16)))

/-- AMOOR (R173). -/
def readAmoor (w : Nat) : Except Reject Instr :=
  .ok (.amoor (BitVec.ofNat 5 (w / 2097152)) (BitVec.ofNat 5 (w / 65536)) (BitVec.ofNat 5 (w / 2048)) (BitVec.ofNat 1 (w / 64)) (BitVec.ofNat 2 (w / 16)))

/-- AMOXOR (R173). -/
def readAmoxor (w : Nat) : Except Reject Instr :=
  .ok (.amoxor (BitVec.ofNat 5 (w / 2097152)) (BitVec.ofNat 5 (w / 65536)) (BitVec.ofNat 5 (w / 2048)) (BitVec.ofNat 1 (w / 64)) (BitVec.ofNat 2 (w / 16)))

/-- AMOMIN (R173). -/
def readAmomin (w : Nat) : Except Reject Instr :=
  .ok (.amomin (BitVec.ofNat 5 (w / 2097152)) (BitVec.ofNat 5 (w / 65536)) (BitVec.ofNat 5 (w / 2048)) (BitVec.ofNat 1 (w / 64)) (BitVec.ofNat 2 (w / 16)))

/-- AMOMAX (R173). -/
def readAmomax (w : Nat) : Except Reject Instr :=
  .ok (.amomax (BitVec.ofNat 5 (w / 2097152)) (BitVec.ofNat 5 (w / 65536)) (BitVec.ofNat 5 (w / 2048)) (BitVec.ofNat 1 (w / 64)) (BitVec.ofNat 2 (w / 16)))

/-- AMOMINN (R173). -/
def readAmominn (w : Nat) : Except Reject Instr :=
  .ok (.amominn (BitVec.ofNat 5 (w / 2097152)) (BitVec.ofNat 5 (w / 65536)) (BitVec.ofNat 5 (w / 2048)) (BitVec.ofNat 1 (w / 64)) (BitVec.ofNat 2 (w / 16)))

/-- AMOMAXN (R173). -/
def readAmomaxn (w : Nat) : Except Reject Instr :=
  .ok (.amomaxn (BitVec.ofNat 5 (w / 2097152)) (BitVec.ofNat 5 (w / 65536)) (BitVec.ofNat 5 (w / 2048)) (BitVec.ofNat 1 (w / 64)) (BitVec.ofNat 2 (w / 16)))

/-- AMOSWAP (R173). -/
def readAmoswap (w : Nat) : Except Reject Instr :=
  .ok (.amoswap (BitVec.ofNat 5 (w / 2097152)) (BitVec.ofNat 5 (w / 65536)) (BitVec.ofNat 5 (w / 2048)) (BitVec.ofNat 1 (w / 64)) (BitVec.ofNat 2 (w / 16)))

/-- CAS (R173). -/
def readCas (w : Nat) : Except Reject Instr :=
  .ok (.cas (BitVec.ofNat 5 (w / 2097152)) (BitVec.ofNat 5 (w / 65536)) (BitVec.ofNat 5 (w / 2048)) (BitVec.ofNat 1 (w / 64)) (BitVec.ofNat 2 (w / 16)))

/-- FENCE (R180). -/
def readFence (w : Nat) : Except Reject Instr :=
  if (w / 4 % 8) ≤ 4 ∧ (w / 32 % 64) ≠ 0 then (if w / 2048 % 32768 = 0 then .ok (.fence (BitVec.ofNat 6 (w / 32)) (BitVec.ofNat 3 (w / 4)))
    else .error .reservedField) else .error .unassigned

/-- WAITEQ (R182). -/
def readWaiteq (w : Nat) : Except Reject Instr :=
  .ok (.waiteq (BitVec.ofNat 5 (w / 2097152)) (BitVec.ofNat 5 (w / 65536)) (BitVec.ofNat 5 (w / 2048)) (BitVec.ofNat 5 (w / 32)) (BitVec.ofNat 1 (w / 16)) (BitVec.ofNat 1 (w / 8)))

/-- WAITNE (R182). -/
def readWaitne (w : Nat) : Except Reject Instr :=
  .ok (.waitne (BitVec.ofNat 5 (w / 2097152)) (BitVec.ofNat 5 (w / 65536)) (BitVec.ofNat 5 (w / 2048)) (BitVec.ofNat 5 (w / 32)) (BitVec.ofNat 1 (w / 16)) (BitVec.ofNat 1 (w / 8)))

/-- GBAR (R188). -/
def readGbar (w : Nat) : Except Reject Instr :=
  if w / 2048 % 32768 = 0 then .ok .gbar else .error .reservedField

/-- GBAR_A (R188). -/
def readGbarA (w : Nat) : Except Reject Instr :=
  if w / 2048 % 1024 = 0 then .ok (.gbarA (BitVec.ofNat 5 (w / 2097152))) else .error .reservedField

/-- GBAR_W (R188). -/
def readGbarW (w : Nat) : Except Reject Instr :=
  if w / 2048 % 32 = 0 then .ok (.gbarW (BitVec.ofNat 5 (w / 2097152)) (BitVec.ofNat 5 (w / 65536))) else .error .reservedField

/-- BEQ (R152). -/
def readBeq (w : Nat) : Except Reject Instr :=
  .ok (.beq (BitVec.ofNat 5 (w / 2097152)) (BitVec.ofNat 5 (w / 65536)) (BitVec.ofNat 16 (w)))

/-- BNE (R152). -/
def readBne (w : Nat) : Except Reject Instr :=
  .ok (.bne (BitVec.ofNat 5 (w / 2097152)) (BitVec.ofNat 5 (w / 65536)) (BitVec.ofNat 16 (w)))

/-- BLT (R152). -/
def readBlt (w : Nat) : Except Reject Instr :=
  .ok (.blt (BitVec.ofNat 5 (w / 2097152)) (BitVec.ofNat 5 (w / 65536)) (BitVec.ofNat 16 (w)))

/-- BGE (R152). -/
def readBge (w : Nat) : Except Reject Instr :=
  .ok (.bge (BitVec.ofNat 5 (w / 2097152)) (BitVec.ofNat 5 (w / 65536)) (BitVec.ofNat 16 (w)))

/-- BLTN (R152). -/
def readBltn (w : Nat) : Except Reject Instr :=
  .ok (.bltn (BitVec.ofNat 5 (w / 2097152)) (BitVec.ofNat 5 (w / 65536)) (BitVec.ofNat 16 (w)))

/-- BGEN (R152). -/
def readBgen (w : Nat) : Except Reject Instr :=
  .ok (.bgen (BitVec.ofNat 5 (w / 2097152)) (BitVec.ofNat 5 (w / 65536)) (BitVec.ofNat 16 (w)))

/-- CALL (R153). -/
def readCall (w : Nat) : Except Reject Instr :=
  .ok (.call (BitVec.ofNat 26 (w)))

/-- JUMP (R153). -/
def readJump (w : Nat) : Except Reject Instr :=
  .ok (.jump (BitVec.ofNat 26 (w)))

/-- JR (R153). -/
def readJr (w : Nat) : Except Reject Instr :=
  .ok (.jr (BitVec.ofNat 5 (w / 2097152)) (BitVec.ofNat 5 (w / 65536)) (BitVec.ofNat 16 (w)))

/-- SYSC (R156). -/
def readSysc (w : Nat) : Except Reject Instr :=
  if w / 65536 % 1024 = 0 then .ok (.sysc (BitVec.ofNat 12 (w / 16))) else .error .reservedField

/-- BRK (R156). -/
def readBrk (w : Nat) : Except Reject Instr :=
  if w / 65536 % 1024 = 0 then .ok (.brk (BitVec.ofNat 12 (w / 16))) else .error .reservedField

/-- ERET (R157). -/
def readEret (w : Nat) : Except Reject Instr :=
  if w / 16 % 4194304 = 0 then .ok .eret else .error .reservedField

/-- IDLE (R158). -/
def readIdle (w : Nat) : Except Reject Instr :=
  if w / 16 % 4096 = 0 ∧ w / 2097152 % 32 = 0 then .ok (.idle (BitVec.ofNat 5 (w / 65536))) else .error .reservedField

/-- YIELD (R159). -/
def readYield (w : Nat) : Except Reject Instr :=
  if w / 16 % 4194304 = 0 then .ok .yield else .error .reservedField

/-- STOP (R160). -/
def readStop (w : Nat) : Except Reject Instr :=
  if w / 16 % 4194304 = 0 then .ok .stop else .error .reservedField

/-- SPAWN (R161). -/
def readSpawn (w : Nat) : Except Reject Instr :=
  if w / 1024 % 64 = 0 then .ok (.spawn (BitVec.ofNat 5 (w / 2097152)) (BitVec.ofNat 5 (w / 65536)) (BitVec.ofNat 6 (w / 16)))
    else .error .reservedField

/-- IFLUSH (R162). -/
def readIflush (w : Nat) : Except Reject Instr :=
  if w / 16 % 4194304 = 0 then .ok .iflush else .error .reservedField

/-- TINV_ALL (R163). -/
def readTinvAll (w : Nat) : Except Reject Instr :=
  if w / 65536 % 1024 = 0 then .ok .tinvAll else .error .reservedField

/-- TINV_AS (R163). -/
def readTinvAs (w : Nat) : Except Reject Instr :=
  if w / 65536 % 32 = 0 then .ok (.tinvAs (BitVec.ofNat 5 (w / 2097152))) else .error .reservedField

/-- TINV_VA (R163). -/
def readTinvVa (w : Nat) : Except Reject Instr :=
  .ok (.tinvVa (BitVec.ofNat 5 (w / 2097152)) (BitVec.ofNat 5 (w / 65536)))

/-- CRD (R164). -/
def readCrd (w : Nat) : Except Reject Instr :=
  if w / 65536 % 32 = 0 then .ok (.crd (BitVec.ofNat 5 (w / 2097152)) (BitVec.ofNat 12 (w / 16))) else .error .reservedField

/-- CWR (R164). -/
def readCwr (w : Nat) : Except Reject Instr :=
  .ok (.cwr (BitVec.ofNat 5 (w / 2097152)) (BitVec.ofNat 5 (w / 65536)) (BitVec.ofNat 12 (w / 16)))

/-- CSET (R164). -/
def readCset (w : Nat) : Except Reject Instr :=
  .ok (.cset (BitVec.ofNat 5 (w / 2097152)) (BitVec.ofNat 5 (w / 65536)) (BitVec.ofNat 12 (w / 16)))

/-- CCLR (R164). -/
def readCclr (w : Nat) : Except Reject Instr :=
  .ok (.cclr (BitVec.ofNat 5 (w / 2097152)) (BitVec.ofNat 5 (w / 65536)) (BitVec.ofNat 12 (w / 16)))

/-- HINT (R53). -/
def readHint (w : Nat) : Except Reject Instr :=
  .ok (.hint (BitVec.ofNat 26 (w)))

/-- SETVL (R219). -/
def readSetvl (w : Nat) : Except Reject Instr :=
  if w / 256 % 256 = 0 then (if ((w / 16 % 16) ≤ 12 ∨ (w / 16 % 16) = 14) then .ok (.setvl (BitVec.ofNat 5 (w / 2097152))
    (BitVec.ofNat 5 (w / 65536)) (BitVec.ofNat 4 (w / 16))) else .error .typeCode) else .error .reservedField

/-- SETTL (R219). -/
def readSettl (w : Nat) : Except Reject Instr :=
  if w / 256 % 256 = 0 then (if w / 16 % 16 = 0 then .ok (.settl (BitVec.ofNat 5 (w / 2097152)) (BitVec.ofNat 5 (w / 65536)))
    else .error .typeCode) else .error .reservedField

/-- SETMF (R220). -/
def readSetmf (w : Nat) : Except Reject Instr :=
  if w / 256 % 256 = 0 then (if w / 16 % 16 = 0 then .ok (.setmf (BitVec.ofNat 5 (w / 2097152)) (BitVec.ofNat 5 (w / 65536)))
    else .error .typeCode) else .error .reservedField

/-- SETRM (R220). -/
def readSetrm (w : Nat) : Except Reject Instr :=
  if w / 256 % 256 = 0 then (if w / 16 % 16 = 0 then .ok (.setrm (BitVec.ofNat 5 (w / 2097152)) (BitVec.ofNat 5 (w / 65536)))
    else .error .typeCode) else .error .reservedField

/-- VGRANT (R221). -/
def readVgrant (w : Nat) : Except Reject Instr :=
  if w / 256 % 256 = 0 then (if w / 16 % 16 = 0 then .ok (.vgrant (BitVec.ofNat 5 (w / 2097152)) (BitVec.ofNat 5 (w / 65536)))
    else .error .typeCode) else .error .reservedField

/-- VREL (R222). -/
def readVrel (w : Nat) : Except Reject Instr :=
  if w / 256 % 262144 = 0 then (if w / 16 % 16 = 0 then .ok .vrel else .error .typeCode) else .error .reservedField

/-- VSAVE (R223). -/
def readVsave (w : Nat) : Except Reject Instr :=
  if w / 256 % 8 = 0 ∧ w / 2097152 % 32 = 0 then (if w / 16 % 16 = 0 then .ok (.vsave (BitVec.ofNat 5 (w / 65536))
    (BitVec.ofNat 5 (w / 2048))) else .error .typeCode) else .error .reservedField

/-- VRST (R224). -/
def readVrst (w : Nat) : Except Reject Instr :=
  if w / 256 % 256 = 0 ∧ w / 2097152 % 32 = 0 then (if w / 16 % 16 = 0 then .ok (.vrst (BitVec.ofNat 5 (w / 65536))) else .error .typeCode)
    else .error .reservedField

/-- VADD_INT (R231). -/
def readVaddInt (w : Nat) : Except Reject Instr :=
  if ((w / 16 % 16) ≤ 7) then .ok (.vaddInt (BitVec.ofNat 5 (w / 2097152)) (BitVec.ofNat 5 (w / 65536)) (BitVec.ofNat 5 (w / 2048))
    (BitVec.ofNat 3 (w / 256)) (BitVec.ofNat 4 (w / 16))) else .error .typeCode

/-- VSUB_INT (R231). -/
def readVsubInt (w : Nat) : Except Reject Instr :=
  if ((w / 16 % 16) ≤ 7) then .ok (.vsubInt (BitVec.ofNat 5 (w / 2097152)) (BitVec.ofNat 5 (w / 65536)) (BitVec.ofNat 5 (w / 2048))
    (BitVec.ofNat 3 (w / 256)) (BitVec.ofNat 4 (w / 16))) else .error .typeCode

/-- VMUL_INT (R231). -/
def readVmulInt (w : Nat) : Except Reject Instr :=
  if ((w / 16 % 16) ≤ 7) then .ok (.vmulInt (BitVec.ofNat 5 (w / 2097152)) (BitVec.ofNat 5 (w / 65536)) (BitVec.ofNat 5 (w / 2048))
    (BitVec.ofNat 3 (w / 256)) (BitVec.ofNat 4 (w / 16))) else .error .typeCode

/-- VMULH (R231). -/
def readVmulh (w : Nat) : Except Reject Instr :=
  if ((w / 16 % 16) ≤ 7) then .ok (.vmulh (BitVec.ofNat 5 (w / 2097152)) (BitVec.ofNat 5 (w / 65536)) (BitVec.ofNat 5 (w / 2048))
    (BitVec.ofNat 3 (w / 256)) (BitVec.ofNat 4 (w / 16))) else .error .typeCode

/-- VMIN_INT (R231). -/
def readVminInt (w : Nat) : Except Reject Instr :=
  if ((w / 16 % 16) ≤ 7) then .ok (.vminInt (BitVec.ofNat 5 (w / 2097152)) (BitVec.ofNat 5 (w / 65536)) (BitVec.ofNat 5 (w / 2048))
    (BitVec.ofNat 3 (w / 256)) (BitVec.ofNat 4 (w / 16))) else .error .typeCode

/-- VMAX_INT (R231). -/
def readVmaxInt (w : Nat) : Except Reject Instr :=
  if ((w / 16 % 16) ≤ 7) then .ok (.vmaxInt (BitVec.ofNat 5 (w / 2097152)) (BitVec.ofNat 5 (w / 65536)) (BitVec.ofNat 5 (w / 2048))
    (BitVec.ofNat 3 (w / 256)) (BitVec.ofNat 4 (w / 16))) else .error .typeCode

/-- VSATADD (R231). -/
def readVsatadd (w : Nat) : Except Reject Instr :=
  if ((w / 16 % 16) ≤ 7) then .ok (.vsatadd (BitVec.ofNat 5 (w / 2097152)) (BitVec.ofNat 5 (w / 65536)) (BitVec.ofNat 5 (w / 2048))
    (BitVec.ofNat 3 (w / 256)) (BitVec.ofNat 4 (w / 16))) else .error .typeCode

/-- VSATSUB (R231). -/
def readVsatsub (w : Nat) : Except Reject Instr :=
  if ((w / 16 % 16) ≤ 7) then .ok (.vsatsub (BitVec.ofNat 5 (w / 2097152)) (BitVec.ofNat 5 (w / 65536)) (BitVec.ofNat 5 (w / 2048))
    (BitVec.ofNat 3 (w / 256)) (BitVec.ofNat 4 (w / 16))) else .error .typeCode

/-- VSHL (R231). -/
def readVshl (w : Nat) : Except Reject Instr :=
  if ((w / 16 % 16) ≤ 7) then .ok (.vshl (BitVec.ofNat 5 (w / 2097152)) (BitVec.ofNat 5 (w / 65536)) (BitVec.ofNat 5 (w / 2048))
    (BitVec.ofNat 3 (w / 256)) (BitVec.ofNat 4 (w / 16))) else .error .typeCode

/-- VSHR (R231). -/
def readVshr (w : Nat) : Except Reject Instr :=
  if ((w / 16 % 16) ≤ 7) then .ok (.vshr (BitVec.ofNat 5 (w / 2097152)) (BitVec.ofNat 5 (w / 65536)) (BitVec.ofNat 5 (w / 2048))
    (BitVec.ofNat 3 (w / 256)) (BitVec.ofNat 4 (w / 16))) else .error .typeCode

/-- VSRA (R231). -/
def readVsra (w : Nat) : Except Reject Instr :=
  if ((w / 16 % 16) ≤ 7) then .ok (.vsra (BitVec.ofNat 5 (w / 2097152)) (BitVec.ofNat 5 (w / 65536)) (BitVec.ofNat 5 (w / 2048))
    (BitVec.ofNat 3 (w / 256)) (BitVec.ofNat 4 (w / 16))) else .error .typeCode

/-- VAND (R231). -/
def readVand (w : Nat) : Except Reject Instr :=
  if ((w / 16 % 16) ≤ 7) then .ok (.vand (BitVec.ofNat 5 (w / 2097152)) (BitVec.ofNat 5 (w / 65536)) (BitVec.ofNat 5 (w / 2048))
    (BitVec.ofNat 3 (w / 256)) (BitVec.ofNat 4 (w / 16))) else .error .typeCode

/-- VOR (R231). -/
def readVor (w : Nat) : Except Reject Instr :=
  if ((w / 16 % 16) ≤ 7) then .ok (.vor (BitVec.ofNat 5 (w / 2097152)) (BitVec.ofNat 5 (w / 65536)) (BitVec.ofNat 5 (w / 2048))
    (BitVec.ofNat 3 (w / 256)) (BitVec.ofNat 4 (w / 16))) else .error .typeCode

/-- VXOR (R231). -/
def readVxor (w : Nat) : Except Reject Instr :=
  if ((w / 16 % 16) ≤ 7) then .ok (.vxor (BitVec.ofNat 5 (w / 2097152)) (BitVec.ofNat 5 (w / 65536)) (BitVec.ofNat 5 (w / 2048))
    (BitVec.ofNat 3 (w / 256)) (BitVec.ofNat 4 (w / 16))) else .error .typeCode

/-- VABS_INT (R231). -/
def readVabsInt (w : Nat) : Except Reject Instr :=
  if w / 2048 % 32 = 0 then (if ((w / 16 % 16) ≤ 7) then .ok (.vabsInt (BitVec.ofNat 5 (w / 2097152)) (BitVec.ofNat 5 (w / 65536))
    (BitVec.ofNat 3 (w / 256)) (BitVec.ofNat 4 (w / 16))) else .error .typeCode) else .error .reservedField

/-- VNEG_INT (R231). -/
def readVnegInt (w : Nat) : Except Reject Instr :=
  if w / 2048 % 32 = 0 then (if ((w / 16 % 16) ≤ 7) then .ok (.vnegInt (BitVec.ofNat 5 (w / 2097152)) (BitVec.ofNat 5 (w / 65536))
    (BitVec.ofNat 3 (w / 256)) (BitVec.ofNat 4 (w / 16))) else .error .typeCode) else .error .reservedField

/-- VADD_FP (R232). -/
def readVaddFp (w : Nat) : Except Reject Instr :=
  if ((8 ≤ (w / 16 % 16) ∧ (w / 16 % 16) ≤ 10)) then .ok (.vaddFp (BitVec.ofNat 5 (w / 2097152)) (BitVec.ofNat 5 (w / 65536))
    (BitVec.ofNat 5 (w / 2048)) (BitVec.ofNat 3 (w / 256)) (BitVec.ofNat 4 (w / 16))) else .error .typeCode

/-- VSUB_FP (R232). -/
def readVsubFp (w : Nat) : Except Reject Instr :=
  if ((8 ≤ (w / 16 % 16) ∧ (w / 16 % 16) ≤ 10)) then .ok (.vsubFp (BitVec.ofNat 5 (w / 2097152)) (BitVec.ofNat 5 (w / 65536))
    (BitVec.ofNat 5 (w / 2048)) (BitVec.ofNat 3 (w / 256)) (BitVec.ofNat 4 (w / 16))) else .error .typeCode

/-- VMUL_FP (R232). -/
def readVmulFp (w : Nat) : Except Reject Instr :=
  if ((8 ≤ (w / 16 % 16) ∧ (w / 16 % 16) ≤ 10)) then .ok (.vmulFp (BitVec.ofNat 5 (w / 2097152)) (BitVec.ofNat 5 (w / 65536))
    (BitVec.ofNat 5 (w / 2048)) (BitVec.ofNat 3 (w / 256)) (BitVec.ofNat 4 (w / 16))) else .error .typeCode

/-- VFMA (R232). -/
def readVfma (w : Nat) : Except Reject Instr :=
  if ((8 ≤ (w / 16 % 16) ∧ (w / 16 % 16) ≤ 10)) then .ok (.vfma (BitVec.ofNat 5 (w / 2097152)) (BitVec.ofNat 5 (w / 65536))
    (BitVec.ofNat 5 (w / 2048)) (BitVec.ofNat 3 (w / 256)) (BitVec.ofNat 4 (w / 16))) else .error .typeCode

/-- VFMS (R232). -/
def readVfms (w : Nat) : Except Reject Instr :=
  if ((8 ≤ (w / 16 % 16) ∧ (w / 16 % 16) ≤ 10)) then .ok (.vfms (BitVec.ofNat 5 (w / 2097152)) (BitVec.ofNat 5 (w / 65536))
    (BitVec.ofNat 5 (w / 2048)) (BitVec.ofNat 3 (w / 256)) (BitVec.ofNat 4 (w / 16))) else .error .typeCode

/-- VFNMA (R232). -/
def readVfnma (w : Nat) : Except Reject Instr :=
  if ((8 ≤ (w / 16 % 16) ∧ (w / 16 % 16) ≤ 10)) then .ok (.vfnma (BitVec.ofNat 5 (w / 2097152)) (BitVec.ofNat 5 (w / 65536))
    (BitVec.ofNat 5 (w / 2048)) (BitVec.ofNat 3 (w / 256)) (BitVec.ofNat 4 (w / 16))) else .error .typeCode

/-- VDIV (R232). -/
def readVdiv (w : Nat) : Except Reject Instr :=
  if ((8 ≤ (w / 16 % 16) ∧ (w / 16 % 16) ≤ 10)) then .ok (.vdiv (BitVec.ofNat 5 (w / 2097152)) (BitVec.ofNat 5 (w / 65536))
    (BitVec.ofNat 5 (w / 2048)) (BitVec.ofNat 3 (w / 256)) (BitVec.ofNat 4 (w / 16))) else .error .typeCode

/-- VSQRT (R232). -/
def readVsqrt (w : Nat) : Except Reject Instr :=
  if w / 2048 % 32 = 0 then (if ((8 ≤ (w / 16 % 16) ∧ (w / 16 % 16) ≤ 10)) then .ok (.vsqrt (BitVec.ofNat 5 (w / 2097152))
    (BitVec.ofNat 5 (w / 65536)) (BitVec.ofNat 3 (w / 256)) (BitVec.ofNat 4 (w / 16))) else .error .typeCode) else .error .reservedField

/-- VRCP (R232). -/
def readVrcp (w : Nat) : Except Reject Instr :=
  if w / 2048 % 32 = 0 then (if ((8 ≤ (w / 16 % 16) ∧ (w / 16 % 16) ≤ 10)) then .ok (.vrcp (BitVec.ofNat 5 (w / 2097152))
    (BitVec.ofNat 5 (w / 65536)) (BitVec.ofNat 3 (w / 256)) (BitVec.ofNat 4 (w / 16))) else .error .typeCode) else .error .reservedField

/-- VRSQ (R232). -/
def readVrsq (w : Nat) : Except Reject Instr :=
  if w / 2048 % 32 = 0 then (if ((8 ≤ (w / 16 % 16) ∧ (w / 16 % 16) ≤ 10)) then .ok (.vrsq (BitVec.ofNat 5 (w / 2097152))
    (BitVec.ofNat 5 (w / 65536)) (BitVec.ofNat 3 (w / 256)) (BitVec.ofNat 4 (w / 16))) else .error .typeCode) else .error .reservedField

/-- VMIN_FP (R232). -/
def readVminFp (w : Nat) : Except Reject Instr :=
  if ((8 ≤ (w / 16 % 16) ∧ (w / 16 % 16) ≤ 10)) then .ok (.vminFp (BitVec.ofNat 5 (w / 2097152)) (BitVec.ofNat 5 (w / 65536))
    (BitVec.ofNat 5 (w / 2048)) (BitVec.ofNat 3 (w / 256)) (BitVec.ofNat 4 (w / 16))) else .error .typeCode

/-- VMAX_FP (R232). -/
def readVmaxFp (w : Nat) : Except Reject Instr :=
  if ((8 ≤ (w / 16 % 16) ∧ (w / 16 % 16) ≤ 10)) then .ok (.vmaxFp (BitVec.ofNat 5 (w / 2097152)) (BitVec.ofNat 5 (w / 65536))
    (BitVec.ofNat 5 (w / 2048)) (BitVec.ofNat 3 (w / 256)) (BitVec.ofNat 4 (w / 16))) else .error .typeCode

/-- VABS_FP (R232). -/
def readVabsFp (w : Nat) : Except Reject Instr :=
  if w / 2048 % 32 = 0 then (if ((8 ≤ (w / 16 % 16) ∧ (w / 16 % 16) ≤ 10)) then .ok (.vabsFp (BitVec.ofNat 5 (w / 2097152))
    (BitVec.ofNat 5 (w / 65536)) (BitVec.ofNat 3 (w / 256)) (BitVec.ofNat 4 (w / 16))) else .error .typeCode) else .error .reservedField

/-- VNEG_FP (R232). -/
def readVnegFp (w : Nat) : Except Reject Instr :=
  if w / 2048 % 32 = 0 then (if ((8 ≤ (w / 16 % 16) ∧ (w / 16 % 16) ≤ 10)) then .ok (.vnegFp (BitVec.ofNat 5 (w / 2097152))
    (BitVec.ofNat 5 (w / 65536)) (BitVec.ofNat 3 (w / 256)) (BitVec.ofNat 4 (w / 16))) else .error .typeCode) else .error .reservedField

/-- VSCALE (R232). -/
def readVscale (w : Nat) : Except Reject Instr :=
  if ((8 ≤ (w / 16 % 16) ∧ (w / 16 % 16) ≤ 10)) then .ok (.vscale (BitVec.ofNat 5 (w / 2097152)) (BitVec.ofNat 5 (w / 65536))
    (BitVec.ofNat 5 (w / 2048)) (BitVec.ofNat 3 (w / 256)) (BitVec.ofNat 4 (w / 16))) else .error .typeCode

/-- VRND (R234). -/
def readVrnd (w : Nat) : Except Reject Instr :=
  if w / 16384 % 4 = 0 ∧ (w / 2048 % 8) ≤ 5 then (if ((8 ≤ (w / 16 % 16) ∧ (w / 16 % 16) ≤ 10)) then .ok (.vrnd
    (BitVec.ofNat 5 (w / 2097152)) (BitVec.ofNat 5 (w / 65536)) (BitVec.ofNat 3 (w / 2048)) (BitVec.ofNat 3 (w / 256))
    (BitVec.ofNat 4 (w / 16))) else .error .typeCode) else .error .reservedField

/-- VCMP_EQ (R235). -/
def readVcmpEq (w : Nat) : Except Reject Instr :=
  if (w / 2097152 % 32) ≤ 7 then (if ((w / 16 % 16) ≤ 12 ∨ (w / 16 % 16) = 14) then .ok (.vcmpEq (BitVec.ofNat 5 (w / 2097152))
    (BitVec.ofNat 5 (w / 65536)) (BitVec.ofNat 5 (w / 2048)) (BitVec.ofNat 3 (w / 256)) (BitVec.ofNat 4 (w / 16))) else .error .typeCode)
    else .error .reservedField

/-- VCMP_NE (R235). -/
def readVcmpNe (w : Nat) : Except Reject Instr :=
  if (w / 2097152 % 32) ≤ 7 then (if ((w / 16 % 16) ≤ 12 ∨ (w / 16 % 16) = 14) then .ok (.vcmpNe (BitVec.ofNat 5 (w / 2097152))
    (BitVec.ofNat 5 (w / 65536)) (BitVec.ofNat 5 (w / 2048)) (BitVec.ofNat 3 (w / 256)) (BitVec.ofNat 4 (w / 16))) else .error .typeCode)
    else .error .reservedField

/-- VCMP_LT (R235). -/
def readVcmpLt (w : Nat) : Except Reject Instr :=
  if (w / 2097152 % 32) ≤ 7 then (if ((w / 16 % 16) ≤ 12 ∨ (w / 16 % 16) = 14) then .ok (.vcmpLt (BitVec.ofNat 5 (w / 2097152))
    (BitVec.ofNat 5 (w / 65536)) (BitVec.ofNat 5 (w / 2048)) (BitVec.ofNat 3 (w / 256)) (BitVec.ofNat 4 (w / 16))) else .error .typeCode)
    else .error .reservedField

/-- VCMP_LE (R235). -/
def readVcmpLe (w : Nat) : Except Reject Instr :=
  if (w / 2097152 % 32) ≤ 7 then (if ((w / 16 % 16) ≤ 12 ∨ (w / 16 % 16) = 14) then .ok (.vcmpLe (BitVec.ofNat 5 (w / 2097152))
    (BitVec.ofNat 5 (w / 65536)) (BitVec.ofNat 5 (w / 2048)) (BitVec.ofNat 3 (w / 256)) (BitVec.ofNat 4 (w / 16))) else .error .typeCode)
    else .error .reservedField

/-- VCMP_UN (R235). -/
def readVcmpUn (w : Nat) : Except Reject Instr :=
  if (w / 2097152 % 32) ≤ 7 then (if ((8 ≤ (w / 16 % 16) ∧ (w / 16 % 16) ≤ 12) ∨ (w / 16 % 16) = 14) then .ok (.vcmpUn
    (BitVec.ofNat 5 (w / 2097152)) (BitVec.ofNat 5 (w / 65536)) (BitVec.ofNat 5 (w / 2048)) (BitVec.ofNat 3 (w / 256))
    (BitVec.ofNat 4 (w / 16))) else .error .typeCode) else .error .reservedField

/-- VSEL (R236). -/
def readVsel (w : Nat) : Except Reject Instr :=
  if ((w / 16 % 16) ≤ 12) then .ok (.vsel (BitVec.ofNat 5 (w / 2097152)) (BitVec.ofNat 5 (w / 65536)) (BitVec.ofNat 5 (w / 2048))
    (BitVec.ofNat 3 (w / 256)) (BitVec.ofNat 4 (w / 16))) else .error .typeCode

/-- MAND (R235). -/
def readMand (w : Nat) : Except Reject Instr :=
  if (w / 2097152 % 32) ≤ 7 ∧ (w / 65536 % 32) ≤ 7 ∧ (w / 2048 % 32) ≤ 7 then (if w / 16 % 16 = 0 then .ok (.mand
    (BitVec.ofNat 5 (w / 2097152)) (BitVec.ofNat 5 (w / 65536)) (BitVec.ofNat 5 (w / 2048)) (BitVec.ofNat 3 (w / 256)))
    else .error .typeCode) else .error .reservedField

/-- MOR (R235). -/
def readMor (w : Nat) : Except Reject Instr :=
  if (w / 2097152 % 32) ≤ 7 ∧ (w / 65536 % 32) ≤ 7 ∧ (w / 2048 % 32) ≤ 7 then (if w / 16 % 16 = 0 then .ok (.mor
    (BitVec.ofNat 5 (w / 2097152)) (BitVec.ofNat 5 (w / 65536)) (BitVec.ofNat 5 (w / 2048)) (BitVec.ofNat 3 (w / 256)))
    else .error .typeCode) else .error .reservedField

/-- MXOR (R235). -/
def readMxor (w : Nat) : Except Reject Instr :=
  if (w / 2097152 % 32) ≤ 7 ∧ (w / 65536 % 32) ≤ 7 ∧ (w / 2048 % 32) ≤ 7 then (if w / 16 % 16 = 0 then .ok (.mxor
    (BitVec.ofNat 5 (w / 2097152)) (BitVec.ofNat 5 (w / 65536)) (BitVec.ofNat 5 (w / 2048)) (BitVec.ofNat 3 (w / 256)))
    else .error .typeCode) else .error .reservedField

/-- MNOT (R235). -/
def readMnot (w : Nat) : Except Reject Instr :=
  if w / 2048 % 32 = 0 ∧ (w / 2097152 % 32) ≤ 7 ∧ (w / 65536 % 32) ≤ 7 then (if w / 16 % 16 = 0 then .ok (.mnot
    (BitVec.ofNat 5 (w / 2097152)) (BitVec.ofNat 5 (w / 65536)) (BitVec.ofNat 3 (w / 256))) else .error .typeCode)
    else .error .reservedField

/-- MSET (R235). -/
def readMset (w : Nat) : Except Reject Instr :=
  if w / 2048 % 1024 = 0 ∧ (w / 2097152 % 32) ≤ 7 then (if w / 16 % 16 = 0 then .ok (.mset (BitVec.ofNat 5 (w / 2097152))
    (BitVec.ofNat 3 (w / 256))) else .error .typeCode) else .error .reservedField

/-- MCLR (R235). -/
def readMclr (w : Nat) : Except Reject Instr :=
  if w / 2048 % 1024 = 0 ∧ (w / 2097152 % 32) ≤ 7 then (if w / 16 % 16 = 0 then .ok (.mclr (BitVec.ofNat 5 (w / 2097152))
    (BitVec.ofNat 3 (w / 256))) else .error .typeCode) else .error .reservedField

/-- VPOPC (R237). -/
def readVpopc (w : Nat) : Except Reject Instr :=
  if w / 2048 % 32 = 0 ∧ (w / 65536 % 32) ≤ 7 then (if w / 16 % 16 = 0 then .ok (.vpopc (BitVec.ofNat 5 (w / 2097152))
    (BitVec.ofNat 5 (w / 65536)) (BitVec.ofNat 3 (w / 256))) else .error .typeCode) else .error .reservedField

/-- VFIRST (R237). -/
def readVfirst (w : Nat) : Except Reject Instr :=
  if w / 2048 % 32 = 0 ∧ (w / 65536 % 32) ≤ 7 then (if w / 16 % 16 = 0 then .ok (.vfirst (BitVec.ofNat 5 (w / 2097152))
    (BitVec.ofNat 5 (w / 65536)) (BitVec.ofNat 3 (w / 256))) else .error .typeCode) else .error .reservedField

/-- VCVT (R239, R227). `RTZ` is accepted from a floating type to an integer type only; neither x128 nor the reserved code is a floating
type. The reserved code has no width, so the test for equal registers does not apply to it (log 45). -/
def readVcvt (w : Nat) : Except Reject Instr :=
  if ((w / 32768 % 2) = 0 ∨ ((w / 16 % 16) ≤ 7 ∧ 8 ≤ (w / 2048 % 16) ∧ (w / 2048 % 16) ≠ 13 ∧ (w / 2048 % 16) ≠ 15)) ∧
    (typeLog2 (w / 16 % 16) = typeLog2 (w / 2048 % 16) ∨ (w / 2097152 % 32) ≠ (w / 65536 % 32) ∨ (w / 16 % 16) = 15 ∨
      (w / 2048 % 16) = 15) then
    (if ((w / 16 % 16) ≤ 12 ∨ (w / 16 % 16) = 14) ∧ ((w / 2048 % 16) ≤ 12 ∨ (w / 2048 % 16) = 14) then .ok (.vcvt
    (BitVec.ofNat 5 (w / 2097152)) (BitVec.ofNat 5 (w / 65536)) (BitVec.ofNat 1 (w / 32768)) (BitVec.ofNat 4 (w / 2048))
    (BitVec.ofNat 3 (w / 256)) (BitVec.ofNat 4 (w / 16))) else .error .typeCode) else .error .reservedField

/-- VFRAC (R240). -/
def readVfrac (w : Nat) : Except Reject Instr :=
  if w / 2048 % 32 = 0 then (if ((8 ≤ (w / 16 % 16) ∧ (w / 16 % 16) ≤ 10)) then .ok (.vfrac (BitVec.ofNat 5 (w / 2097152))
    (BitVec.ofNat 5 (w / 65536)) (BitVec.ofNat 3 (w / 256)) (BitVec.ofNat 4 (w / 16))) else .error .typeCode) else .error .reservedField

/-- VCLASS (R240). -/
def readVclass (w : Nat) : Except Reject Instr :=
  if w / 2048 % 32 = 0 then (if ((8 ≤ (w / 16 % 16) ∧ (w / 16 % 16) ≤ 10)) then .ok (.vclass (BitVec.ofNat 5 (w / 2097152))
    (BitVec.ofNat 5 (w / 65536)) (BitVec.ofNat 3 (w / 256)) (BitVec.ofNat 4 (w / 16))) else .error .typeCode) else .error .reservedField

/-- VMV_V (R238). -/
def readVmvV (w : Nat) : Except Reject Instr :=
  if w / 2048 % 32 = 0 then (if ((w / 16 % 16) ≤ 12 ∨ (w / 16 % 16) = 14) then .ok (.vmvV (BitVec.ofNat 5 (w / 2097152))
    (BitVec.ofNat 5 (w / 65536)) (BitVec.ofNat 3 (w / 256)) (BitVec.ofNat 4 (w / 16))) else .error .typeCode) else .error .reservedField

/-- VMV_X (R238). -/
def readVmvX (w : Nat) : Except Reject Instr :=
  if w / 65536 % 32 = 0 then (if ((w / 16 % 16) ≤ 12 ∨ (w / 16 % 16) = 14) then .ok (.vmvX (BitVec.ofNat 5 (w / 2097152))
    (BitVec.ofNat 5 (w / 2048)) (BitVec.ofNat 3 (w / 256)) (BitVec.ofNat 4 (w / 16))) else .error .typeCode) else .error .reservedField

/-- VID (R238). -/
def readVid (w : Nat) : Except Reject Instr :=
  if w / 2048 % 1024 = 0 then (if ((w / 16 % 16) ≤ 7) then .ok (.vid (BitVec.ofNat 5 (w / 2097152)) (BitVec.ofNat 3 (w / 256))
    (BitVec.ofNat 4 (w / 16))) else .error .typeCode) else .error .reservedField

/-- VIOTA (R238). -/
def readViota (w : Nat) : Except Reject Instr :=
  if w / 2048 % 32 = 0 ∧ (w / 65536 % 32) ≤ 7 then (if ((w / 16 % 16) ≤ 7) then .ok (.viota (BitVec.ofNat 5 (w / 2097152))
    (BitVec.ofNat 5 (w / 65536)) (BitVec.ofNat 3 (w / 256)) (BitVec.ofNat 4 (w / 16))) else .error .typeCode) else .error .reservedField

/-- VREDO (R245). -/
def readVredo (w : Nat) : Except Reject Instr :=
  if w / 8192 % 8 = 0 ∧ w / 2097152 % 32 = 0 then (if ((w / 16 % 16) ≤ 10) then .ok (.vredo (BitVec.ofNat 5 (w / 65536))
    (BitVec.ofNat 2 (w / 2048)) (BitVec.ofNat 3 (w / 256)) (BitVec.ofNat 4 (w / 16))) else .error .typeCode) else .error .reservedField

/-- VREDT (R244). -/
def readVredt (w : Nat) : Except Reject Instr :=
  if w / 8192 % 8 = 0 ∧ w / 2097152 % 32 = 0 then (if ((w / 16 % 16) ≤ 10) then .ok (.vredt (BitVec.ofNat 5 (w / 65536))
    (BitVec.ofNat 2 (w / 2048)) (BitVec.ofNat 3 (w / 256)) (BitVec.ofNat 4 (w / 16))) else .error .typeCode) else .error .reservedField

/-- VREDMAX (R245). -/
def readVredmax (w : Nat) : Except Reject Instr :=
  if w / 8192 % 8 = 0 ∧ w / 2097152 % 32 = 0 then (if ((w / 16 % 16) ≤ 10) then .ok (.vredmax (BitVec.ofNat 5 (w / 65536))
    (BitVec.ofNat 2 (w / 2048)) (BitVec.ofNat 3 (w / 256)) (BitVec.ofNat 4 (w / 16))) else .error .typeCode) else .error .reservedField

/-- VREDMIN (R245). -/
def readVredmin (w : Nat) : Except Reject Instr :=
  if w / 8192 % 8 = 0 ∧ w / 2097152 % 32 = 0 then (if ((w / 16 % 16) ≤ 10) then .ok (.vredmin (BitVec.ofNat 5 (w / 65536))
    (BitVec.ofNat 2 (w / 2048)) (BitVec.ofNat 3 (w / 256)) (BitVec.ofNat 4 (w / 16))) else .error .typeCode) else .error .reservedField

/-- VREDAND (R245). -/
def readVredand (w : Nat) : Except Reject Instr :=
  if w / 8192 % 8 = 0 ∧ w / 2097152 % 32 = 0 then (if ((w / 16 % 16) ≤ 7) then .ok (.vredand (BitVec.ofNat 5 (w / 65536))
    (BitVec.ofNat 2 (w / 2048)) (BitVec.ofNat 3 (w / 256)) (BitVec.ofNat 4 (w / 16))) else .error .typeCode) else .error .reservedField

/-- VREDOR (R245). -/
def readVredor (w : Nat) : Except Reject Instr :=
  if w / 8192 % 8 = 0 ∧ w / 2097152 % 32 = 0 then (if ((w / 16 % 16) ≤ 7) then .ok (.vredor (BitVec.ofNat 5 (w / 65536))
    (BitVec.ofNat 2 (w / 2048)) (BitVec.ofNat 3 (w / 256)) (BitVec.ofNat 4 (w / 16))) else .error .typeCode) else .error .reservedField

/-- VREDXOR (R245). -/
def readVredxor (w : Nat) : Except Reject Instr :=
  if w / 8192 % 8 = 0 ∧ w / 2097152 % 32 = 0 then (if ((w / 16 % 16) ≤ 7) then .ok (.vredxor (BitVec.ofNat 5 (w / 65536))
    (BitVec.ofNat 2 (w / 2048)) (BitVec.ofNat 3 (w / 256)) (BitVec.ofNat 4 (w / 16))) else .error .typeCode) else .error .reservedField

/-- VSCAN (R246). -/
def readVscan (w : Nat) : Except Reject Instr :=
  if w / 8192 % 8 = 0 then (if ((w / 16 % 16) ≤ 10) then .ok (.vscan (BitVec.ofNat 5 (w / 2097152)) (BitVec.ofNat 5 (w / 65536))
    (BitVec.ofNat 2 (w / 2048)) (BitVec.ofNat 3 (w / 256)) (BitVec.ofNat 4 (w / 16))) else .error .typeCode) else .error .reservedField

/-- VSCANX (R246). -/
def readVscanx (w : Nat) : Except Reject Instr :=
  if w / 8192 % 8 = 0 then (if ((w / 16 % 16) ≤ 10) then .ok (.vscanx (BitVec.ofNat 5 (w / 2097152)) (BitVec.ofNat 5 (w / 65536))
    (BitVec.ofNat 2 (w / 2048)) (BitVec.ofNat 3 (w / 256)) (BitVec.ofNat 4 (w / 16))) else .error .typeCode) else .error .reservedField

/-- VHRD (R247). -/
def readVhrd (w : Nat) : Except Reject Instr :=
  if w / 256 % 8 = 0 ∧ w / 8192 % 256 = 0 then (if ((w / 16 % 16) ≤ 10) then .ok (.vhrd (BitVec.ofNat 5 (w / 2097152))
    (BitVec.ofNat 2 (w / 2048)) (BitVec.ofNat 4 (w / 16))) else .error .typeCode) else .error .reservedField

/-- VHCLR (R247). -/
def readVhclr (w : Nat) : Except Reject Instr :=
  if w / 256 % 8 = 0 ∧ w / 8192 % 8192 = 0 then (if w / 16 % 16 = 0 then .ok (.vhclr (BitVec.ofNat 2 (w / 2048))) else .error .typeCode)
    else .error .reservedField

/-- VCOMPRESS (R251). -/
def readVcompress (w : Nat) : Except Reject Instr :=
  if w / 2048 % 32 = 0 ∧ (w / 2097152 % 32) ≠ (w / 65536 % 32) then (if ((w / 16 % 16) ≤ 12 ∨ (w / 16 % 16) = 14) then .ok (.vcompress
    (BitVec.ofNat 5 (w / 2097152)) (BitVec.ofNat 5 (w / 65536)) (BitVec.ofNat 3 (w / 256)) (BitVec.ofNat 4 (w / 16))) else .error .typeCode)
    else .error .reservedField

/-- VEXPAND (R251). -/
def readVexpand (w : Nat) : Except Reject Instr :=
  if w / 2048 % 32 = 0 ∧ (w / 2097152 % 32) ≠ (w / 65536 % 32) then (if ((w / 16 % 16) ≤ 12 ∨ (w / 16 % 16) = 14) then .ok (.vexpand
    (BitVec.ofNat 5 (w / 2097152)) (BitVec.ofNat 5 (w / 65536)) (BitVec.ofNat 3 (w / 256)) (BitVec.ofNat 4 (w / 16))) else .error .typeCode)
    else .error .reservedField

/-- VSLIDEUP (R249). -/
def readVslideup (w : Nat) : Except Reject Instr :=
  if (w / 2097152 % 32) ≠ (w / 65536 % 32) then (if ((w / 16 % 16) ≤ 12 ∨ (w / 16 % 16) = 14) then .ok (.vslideup
    (BitVec.ofNat 5 (w / 2097152)) (BitVec.ofNat 5 (w / 65536)) (BitVec.ofNat 5 (w / 2048)) (BitVec.ofNat 3 (w / 256))
    (BitVec.ofNat 4 (w / 16))) else .error .typeCode) else .error .reservedField

/-- VSLIDEDN (R249). -/
def readVslidedn (w : Nat) : Except Reject Instr :=
  if (w / 2097152 % 32) ≠ (w / 65536 % 32) then (if ((w / 16 % 16) ≤ 12 ∨ (w / 16 % 16) = 14) then .ok (.vslidedn
    (BitVec.ofNat 5 (w / 2097152)) (BitVec.ofNat 5 (w / 65536)) (BitVec.ofNat 5 (w / 2048)) (BitVec.ofNat 3 (w / 256))
    (BitVec.ofNat 4 (w / 16))) else .error .typeCode) else .error .reservedField

/-- VPERM (R249). -/
def readVperm (w : Nat) : Except Reject Instr :=
  if (w / 2097152 % 32) ≠ (w / 65536 % 32) ∧ (w / 2097152 % 32) ≠ (w / 2048 % 32) then (if ((w / 16 % 16) ≤ 12 ∨ (w / 16 % 16) = 14) then
    .ok (.vperm (BitVec.ofNat 5 (w / 2097152)) (BitVec.ofNat 5 (w / 65536)) (BitVec.ofNat 5 (w / 2048)) (BitVec.ofNat 3 (w / 256))
    (BitVec.ofNat 4 (w / 16))) else .error .typeCode) else .error .reservedField

/-- VRESHAPE (R252). -/
def readVreshape (w : Nat) : Except Reject Instr :=
  if (w / 2097152 % 32) ≠ (w / 65536 % 32) then (if ((w / 16 % 16) ≤ 12 ∨ (w / 16 % 16) = 14) then .ok (.vreshape
    (BitVec.ofNat 5 (w / 2097152)) (BitVec.ofNat 5 (w / 65536)) (BitVec.ofNat 5 (w / 2048)) (BitVec.ofNat 3 (w / 256))
    (BitVec.ofNat 4 (w / 16))) else .error .typeCode) else .error .reservedField

/-- VMOVX (R253). -/
def readVmovx (w : Nat) : Except Reject Instr :=
  if w / 256 % 8 = 0 then (if ((w / 16 % 16) ≤ 12 ∨ (w / 16 % 16) = 14) then .ok (.vmovx (BitVec.ofNat 5 (w / 2097152))
    (BitVec.ofNat 5 (w / 65536)) (BitVec.ofNat 5 (w / 2048)) (BitVec.ofNat 4 (w / 16))) else .error .typeCode) else .error .reservedField

/-- VINS (R253). -/
def readVins (w : Nat) : Except Reject Instr :=
  if ((w / 16 % 16) ≤ 12 ∨ (w / 16 % 16) = 14) then .ok (.vins (BitVec.ofNat 5 (w / 2097152)) (BitVec.ofNat 5 (w / 65536))
    (BitVec.ofNat 5 (w / 2048)) (BitVec.ofNat 3 (w / 256)) (BitVec.ofNat 4 (w / 16))) else .error .typeCode

/-- VLD_UNIT (R260). -/
def readVldUnit (w : Nat) : Except Reject Instr :=
  if w / 2048 % 32 = 0 then .ok (.vldUnit (BitVec.ofNat 5 (w / 2097152)) (BitVec.ofNat 5 (w / 65536)) (BitVec.ofNat 3 (w / 256))
    (BitVec.ofNat 1 (w / 32)) (BitVec.ofNat 1 (w / 16)) (BitVec.ofNat 1 (w / 8)) (BitVec.ofNat 2 (w))) else .error .reservedField

/-- VLD_CONVERT (R266). -/
def readVldConvert (w : Nat) : Except Reject Instr :=
  if (((w % 4) = 1 ∧ ((w / 2048 % 16) = 8 ∨ (w / 2048 % 16) = 9)) ∨ ((w % 4) = 2 ∧ (w / 2048 % 16) = 10)) then .ok (.vldConvert
    (BitVec.ofNat 5 (w / 2097152)) (BitVec.ofNat 5 (w / 65536)) (BitVec.ofNat 4 (w / 2048)) (BitVec.ofNat 3 (w / 256))
    (BitVec.ofNat 1 (w / 32)) (BitVec.ofNat 1 (w / 16)) (BitVec.ofNat 1 (w / 8)) (BitVec.ofNat 2 (w))) else .error .reservedField

/-- VLD_STRIDED (R260). -/
def readVldStrided (w : Nat) : Except Reject Instr :=
  .ok (.vldStrided (BitVec.ofNat 5 (w / 2097152)) (BitVec.ofNat 5 (w / 65536)) (BitVec.ofNat 5 (w / 2048)) (BitVec.ofNat 3 (w / 256)) (BitVec.ofNat 1 (w / 32)) (BitVec.ofNat 1 (w / 16)) (BitVec.ofNat 1 (w / 8)) (BitVec.ofNat 2 (w)))

/-- VLD_INDEXED (R260). -/
def readVldIndexed (w : Nat) : Except Reject Instr :=
  .ok (.vldIndexed (BitVec.ofNat 5 (w / 2097152)) (BitVec.ofNat 5 (w / 65536)) (BitVec.ofNat 5 (w / 2048)) (BitVec.ofNat 3 (w / 256)) (BitVec.ofNat 1 (w / 32)) (BitVec.ofNat 1 (w / 16)) (BitVec.ofNat 1 (w / 8)) (BitVec.ofNat 2 (w)))

/-- VLDZ (R272). -/
def readVldz (w : Nat) : Except Reject Instr :=
  if w / 32 % 2 = 0 ∧ w / 256 % 256 = 0 then .ok (.vldz (BitVec.ofNat 5 (w / 2097152)) (BitVec.ofNat 5 (w / 65536))
    (BitVec.ofNat 1 (w / 16)) (BitVec.ofNat 1 (w / 8)) (BitVec.ofNat 2 (w))) else .error .reservedField

/-- VLDS (R269). -/
def readVlds (w : Nat) : Except Reject Instr :=
  if w / 8 % 8 = 0 ∧ w / 256 % 256 = 0 ∧ (w / 65536 % 32) ≤ 15 then .ok (.vlds (BitVec.ofNat 5 (w / 2097152)) (BitVec.ofNat 5 (w / 65536)))
    else .error .reservedField

/-- VST_UNIT (R260). -/
def readVstUnit (w : Nat) : Except Reject Instr :=
  if w / 16 % 2 = 0 ∧ w / 2048 % 32 = 0 then .ok (.vstUnit (BitVec.ofNat 5 (w / 2097152)) (BitVec.ofNat 5 (w / 65536))
    (BitVec.ofNat 3 (w / 256)) (BitVec.ofNat 1 (w / 32)) (BitVec.ofNat 1 (w / 8)) (BitVec.ofNat 2 (w))) else .error .reservedField

/-- VST_CONVERT (R267). -/
def readVstConvert (w : Nat) : Except Reject Instr :=
  if w / 16 % 2 = 0 ∧ (((w % 4) = 1 ∧ ((w / 2048 % 16) = 8 ∨ (w / 2048 % 16) = 9)) ∨ ((w % 4) = 2 ∧ (w / 2048 % 16) = 10)) then
    .ok (.vstConvert (BitVec.ofNat 5 (w / 2097152)) (BitVec.ofNat 5 (w / 65536)) (BitVec.ofNat 4 (w / 2048)) (BitVec.ofNat 3 (w / 256))
    (BitVec.ofNat 1 (w / 32)) (BitVec.ofNat 1 (w / 8)) (BitVec.ofNat 2 (w))) else .error .reservedField

/-- VST_STRIDED (R260). -/
def readVstStrided (w : Nat) : Except Reject Instr :=
  if w / 16 % 2 = 0 then .ok (.vstStrided (BitVec.ofNat 5 (w / 2097152)) (BitVec.ofNat 5 (w / 65536)) (BitVec.ofNat 5 (w / 2048))
    (BitVec.ofNat 3 (w / 256)) (BitVec.ofNat 1 (w / 32)) (BitVec.ofNat 1 (w / 8)) (BitVec.ofNat 2 (w))) else .error .reservedField

/-- VST_INDEXED (R260). -/
def readVstIndexed (w : Nat) : Except Reject Instr :=
  if w / 16 % 2 = 0 then .ok (.vstIndexed (BitVec.ofNat 5 (w / 2097152)) (BitVec.ofNat 5 (w / 65536)) (BitVec.ofNat 5 (w / 2048))
    (BitVec.ofNat 3 (w / 256)) (BitVec.ofNat 1 (w / 32)) (BitVec.ofNat 1 (w / 8)) (BitVec.ofNat 2 (w))) else .error .reservedField

/-- VSTZ (R273). -/
def readVstz (w : Nat) : Except Reject Instr :=
  if w / 16 % 4 = 0 ∧ w / 256 % 256 = 0 then .ok (.vstz (BitVec.ofNat 5 (w / 2097152)) (BitVec.ofNat 5 (w / 65536)) (BitVec.ofNat 1 (w / 8))
    (BitVec.ofNat 2 (w))) else .error .reservedField

/-- VCPST (R274). -/
def readVcpst (w : Nat) : Except Reject Instr :=
  if w / 16 % 4 = 0 ∧ w / 8192 % 8 = 0 then .ok (.vcpst (BitVec.ofNat 5 (w / 2097152)) (BitVec.ofNat 5 (w / 65536))
    (BitVec.ofNat 2 (w / 2048)) (BitVec.ofNat 3 (w / 256)) (BitVec.ofNat 1 (w / 8))) else .error .reservedField

/-- VAMO_ADD (R275). -/
def readVamoAdd (w : Nat) : Except Reject Instr :=
  if (w / 64 % 4) ≤ 2 then (if w / 8 % 4 = 0 ∧ ((w / 64 % 4) = 0 → (w / 2048 % 32) = 0) then .ok (.vamoAdd (BitVec.ofNat 5 (w / 2097152))
    (BitVec.ofNat 5 (w / 65536)) (BitVec.ofNat 5 (w / 2048)) (BitVec.ofNat 3 (w / 256)) (BitVec.ofNat 2 (w / 64)) (BitVec.ofNat 1 (w / 32)))
    else .error .reservedField) else .error .unassigned

/-- VAMO_MAX (R275). -/
def readVamoMax (w : Nat) : Except Reject Instr :=
  if (w / 64 % 4) ≤ 2 then (if w / 8 % 4 = 0 ∧ ((w / 64 % 4) = 0 → (w / 2048 % 32) = 0) then .ok (.vamoMax (BitVec.ofNat 5 (w / 2097152))
    (BitVec.ofNat 5 (w / 65536)) (BitVec.ofNat 5 (w / 2048)) (BitVec.ofNat 3 (w / 256)) (BitVec.ofNat 2 (w / 64)) (BitVec.ofNat 1 (w / 32)))
    else .error .reservedField) else .error .unassigned

/-- VAMO_MIN (R275). -/
def readVamoMin (w : Nat) : Except Reject Instr :=
  if (w / 64 % 4) ≤ 2 then (if w / 8 % 4 = 0 ∧ ((w / 64 % 4) = 0 → (w / 2048 % 32) = 0) then .ok (.vamoMin (BitVec.ofNat 5 (w / 2097152))
    (BitVec.ofNat 5 (w / 65536)) (BitVec.ofNat 5 (w / 2048)) (BitVec.ofNat 3 (w / 256)) (BitVec.ofNat 2 (w / 64)) (BitVec.ofNat 1 (w / 32)))
    else .error .reservedField) else .error .unassigned

/-- MSETM (R286). -/
def readMsetm (w : Nat) : Except Reject Instr :=
  if w / 256 % 8 = 0 ∧ w / 16777216 % 4 = 0 then (if w / 16 % 16 = 0 then .ok (.msetm (BitVec.ofNat 5 (w / 65536))
    (BitVec.ofNat 5 (w / 2048))) else .error .typeCode) else .error .reservedField

/-- MZERO (R289). -/
def readMzero (w : Nat) : Except Reject Instr :=
  if w / 256 % 8192 = 0 then (if w / 16 % 16 = 0 then .ok (.mzero (BitVec.ofNat 2 (w / 16777216))) else .error .typeCode) else .error .reservedField

/-- OPACC (R287). -/
def readOpacc (w : Nat) : Except Reject Instr :=
  if ((w / 16 % 16) = 0 ∨ (w / 16 % 16) = 4 ∨ (8 ≤ (w / 16 % 16) ∧ (w / 16 % 16) ≤ 9) ∨ (11 ≤ (w / 16 % 16) ∧ (w / 16 % 16) ≤ 12)) then
    .ok (.opacc (BitVec.ofNat 2 (w / 16777216)) (BitVec.ofNat 5 (w / 65536)) (BitVec.ofNat 5 (w / 2048)) (BitVec.ofNat 3 (w / 256))
    (BitVec.ofNat 4 (w / 16))) else .error .typeCode

/-- OPSUB (R287). -/
def readOpsub (w : Nat) : Except Reject Instr :=
  if ((w / 16 % 16) = 0 ∨ (w / 16 % 16) = 4 ∨ (8 ≤ (w / 16 % 16) ∧ (w / 16 % 16) ≤ 9) ∨ (11 ≤ (w / 16 % 16) ∧ (w / 16 % 16) ≤ 12)) then
    .ok (.opsub (BitVec.ofNat 2 (w / 16777216)) (BitVec.ofNat 5 (w / 65536)) (BitVec.ofNat 5 (w / 2048)) (BitVec.ofNat 3 (w / 256))
    (BitVec.ofNat 4 (w / 16))) else .error .typeCode

/-- MEXTR (R290). -/
def readMextr (w : Nat) : Except Reject Instr :=
  if ((w / 16 % 16) ≤ 12) then .ok (.mextr (BitVec.ofNat 2 (w / 16777216)) (BitVec.ofNat 5 (w / 65536)) (BitVec.ofNat 5 (w / 2048))
    (BitVec.ofNat 3 (w / 256)) (BitVec.ofNat 4 (w / 16)) (BitVec.ofNat 1 (w))) else .error .typeCode

/-- MEXTC (R290). -/
def readMextc (w : Nat) : Except Reject Instr :=
  if ((w / 16 % 16) ≤ 12) then .ok (.mextc (BitVec.ofNat 2 (w / 16777216)) (BitVec.ofNat 5 (w / 65536)) (BitVec.ofNat 5 (w / 2048))
    (BitVec.ofNat 3 (w / 256)) (BitVec.ofNat 4 (w / 16)) (BitVec.ofNat 1 (w))) else .error .typeCode

/-- MPUTR (R290). -/
def readMputr (w : Nat) : Except Reject Instr :=
  if ((w / 16 % 16) ≤ 12) then .ok (.mputr (BitVec.ofNat 2 (w / 16777216)) (BitVec.ofNat 5 (w / 65536)) (BitVec.ofNat 5 (w / 2048))
    (BitVec.ofNat 3 (w / 256)) (BitVec.ofNat 4 (w / 16))) else .error .typeCode

/-- BREG (R328). -/
def readBreg (w : Nat) : Except Reject Instr :=
  if w % 16 = 0 ∧ w / 256 % 32 = 0 then .ok (.breg (BitVec.ofNat 3 (w / 8388608)) (BitVec.ofNat 5 (w / 262144)) (BitVec.ofNat 5 (w / 8192)))
    else .error .reservedField

/-- CBLD (R330). -/
def readCbld (w : Nat) : Except Reject Instr :=
  if w % 16 = 0 ∧ w / 8192 % 32 = 0 ∧ (w / 256 % 32) ≤ 15 then .ok (.cbld (BitVec.ofNat 3 (w / 8388608)) (BitVec.ofNat 5 (w / 262144))
    (BitVec.ofNat 5 (w / 256))) else .error .reservedField

/-- TBLD (R332). -/
def readTbld (w : Nat) : Except Reject Instr :=
  if (w / 256 % 32) ≤ 15 ∧ ((w % 16) ≤ 1 ∨ 8 ≤ (w % 16) ∧ (w % 16) ≤ 10) then .ok (.tbld (BitVec.ofNat 3 (w / 8388608))
    (BitVec.ofNat 5 (w / 262144)) (BitVec.ofNat 5 (w / 8192)) (BitVec.ofNat 5 (w / 256)) (BitVec.ofNat 4 (w))) else .error .reservedField

/-- LKZ (R333). -/
def readLkz (w : Nat) : Except Reject Instr :=
  if w % 16 = 0 ∧ w / 256 % 32768 = 0 then .ok (.lkz (BitVec.ofNat 3 (w / 8388608))) else .error .reservedField

/-- LKA (R335). -/
def readLka (w : Nat) : Except Reject Instr :=
  if w % 16 = 0 ∧ w / 262144 % 32 = 0 ∧ (w / 256 % 32) ≤ 7 then .ok (.lka (BitVec.ofNat 3 (w / 8388608)) (BitVec.ofNat 5 (w / 8192))
    (BitVec.ofNat 5 (w / 256))) else .error .reservedField

/-- LKAB (R335). -/
def readLkab (w : Nat) : Except Reject Instr :=
  if (w / 256 % 32) ≤ 15 ∧ ((w % 16) ≤ 1 ∨ 8 ≤ (w % 16) ∧ (w % 16) ≤ 10) then .ok (.lkab (BitVec.ofNat 3 (w / 8388608))
    (BitVec.ofNat 5 (w / 262144)) (BitVec.ofNat 5 (w / 8192)) (BitVec.ofNat 5 (w / 256)) (BitVec.ofNat 4 (w))) else .error .reservedField

/-- LKX (R337). -/
def readLkx (w : Nat) : Except Reject Instr :=
  if w / 8192 % 32 = 0 ∧ (1 ≤ (w % 16) ∧ (w % 16) ≤ 2 ∨ 8 ≤ (w % 16) ∧ (w % 16) ≤ 10) then .ok (.lkx (BitVec.ofNat 3 (w / 8388608))
    (BitVec.ofNat 5 (w / 262144)) (BitVec.ofNat 5 (w / 256)) (BitVec.ofNat 4 (w))) else .error .reservedField

/-- BDOT (R340). -/
def readBdot (w : Nat) : Except Reject Instr :=
  if w % 16 = 0 ∧ w / 8388608 % 8 = 0 then .ok (.bdot (BitVec.ofNat 5 (w / 262144)) (BitVec.ofNat 5 (w / 8192)) (BitVec.ofNat 5 (w / 256)))
    else .error .reservedField

/-- BAXPY (R341). -/
def readBaxpy (w : Nat) : Except Reject Instr :=
  if w % 16 = 0 ∧ w / 8388608 % 8 = 0 then .ok (.baxpy (BitVec.ofNat 5 (w / 262144)) (BitVec.ofNat 5 (w / 8192)) (BitVec.ofNat 5 (w / 256)))
    else .error .reservedField

/-- BCOPY (R342). -/
def readBcopy (w : Nat) : Except Reject Instr :=
  if w % 16 = 0 ∧ w / 8192 % 32 = 0 ∧ w / 8388608 % 8 = 0 then .ok (.bcopy (BitVec.ofNat 5 (w / 262144)) (BitVec.ofNat 5 (w / 256)))
    else .error .reservedField

/-- BBIT (R342). -/
def readBbit (w : Nat) : Except Reject Instr :=
  if w / 8388608 % 8 = 0 ∧ (w % 16) ≤ 4 ∧ ((w % 16) = 4 → (w / 8192 % 32) = 0) then .ok (.bbit (BitVec.ofNat 5 (w / 262144))
    (BitVec.ofNat 5 (w / 8192)) (BitVec.ofNat 5 (w / 256)) (BitVec.ofNat 4 (w))) else .error .reservedField

/-- BFILL (R342). -/
def readBfill (w : Nat) : Except Reject Instr :=
  if w % 16 = 0 ∧ w / 262144 % 256 = 0 then .ok (.bfill (BitVec.ofNat 5 (w / 8192)) (BitVec.ofNat 5 (w / 256))) else .error .reservedField

/-- BSYNC (R345). -/
def readBsync (w : Nat) : Except Reject Instr :=
  if w % 16 = 0 ∧ w / 256 % 262144 = 0 then .ok .bsync else .error .reservedField

/-- CPDECL (R368). -/
def readCpdecl (w : Nat) : Except Reject Instr :=
  if w / 128 % 512 = 0 ∧ w / 2097152 % 32 = 0 then .ok (.cpdecl (BitVec.ofNat 5 (w / 65536)) (BitVec.ofNat 4 (w / 8))) else .error .reservedField

/-- CPLINK (R359). -/
def readCplink (w : Nat) : Except Reject Instr :=
  if w / 2048 % 32768 = 0 then .ok (.cplink (BitVec.ofNat 4 (w / 128)) (BitVec.ofNat 4 (w / 8))) else .error .reservedField

/-- CPSTORE (R368). -/
def readCpstore (w : Nat) : Except Reject Instr :=
  if w / 128 % 16 = 0 then .ok (.cpstore (BitVec.ofNat 5 (w / 2097152)) (BitVec.ofNat 5 (w / 65536)) (BitVec.ofNat 5 (w / 2048))
    (BitVec.ofNat 4 (w / 8))) else .error .reservedField

/-- CPWAIT_R (R369). -/
def readCpwaitR (w : Nat) : Except Reject Instr :=
  if w / 128 % 512 = 0 ∧ w / 2097152 % 32 = 0 then .ok (.cpwaitR (BitVec.ofNat 5 (w / 65536)) (BitVec.ofNat 4 (w / 8))) else .error .reservedField

/-- CPWAIT_V (R369). -/
def readCpwaitV (w : Nat) : Except Reject Instr :=
  if w / 1024 % 64 = 0 ∧ w / 2097152 % 32 = 0 ∧ (w / 128 % 8) ≤ 4 then .ok (.cpwaitV (BitVec.ofNat 5 (w / 65536)) (BitVec.ofNat 3 (w / 128))
    (BitVec.ofNat 4 (w / 8))) else .error .reservedField

/-- CPCANCEL (R370). -/
def readCpcancel (w : Nat) : Except Reject Instr :=
  if w / 128 % 524288 = 0 then .ok (.cpcancel (BitVec.ofNat 4 (w / 8))) else .error .reservedField

/-- SRD (R371). -/
def readSrd (w : Nat) : Except Reject Instr :=
  if w / 128 % 16384 = 0 then .ok (.srd (BitVec.ofNat 5 (w / 2097152)) (BitVec.ofNat 4 (w / 8))) else .error .reservedField

/-- SAVAIL (R371). -/
def readSavail (w : Nat) : Except Reject Instr :=
  if w / 128 % 16384 = 0 then .ok (.savail (BitVec.ofNat 5 (w / 2097152)) (BitVec.ofNat 4 (w / 8))) else .error .reservedField

/-- CFLUSH (R397). -/
def readCflush (w : Nat) : Except Reject Instr :=
  if w / 2097152 % 32 = 0 then .ok (.cflush (BitVec.ofNat 5 (w / 65536)) (BitVec.ofNat 5 (w / 2048)) (BitVec.ofNat 1 (w / 4)))
    else .error .reservedField

/-- CINVAL (R397). -/
def readCinval (w : Nat) : Except Reject Instr :=
  if w / 2097152 % 32 = 0 then .ok (.cinval (BitVec.ofNat 5 (w / 65536)) (BitVec.ofNat 5 (w / 2048))) else .error .reservedField

/-- CZERO (R397). -/
def readCzero (w : Nat) : Except Reject Instr :=
  if w / 2097152 % 32 = 0 then .ok (.czero (BitVec.ofNat 5 (w / 65536)) (BitVec.ofNat 5 (w / 2048))) else .error .reservedField

/-- CSEAL (R397). -/
def readCseal (w : Nat) : Except Reject Instr :=
  if w / 2097152 % 32 = 0 then .ok (.cseal (BitVec.ofNat 5 (w / 65536)) (BitVec.ofNat 5 (w / 2048))) else .error .reservedField

/-- TAP (R411). -/
def readTap (w : Nat) : Except Reject Instr :=
  if w / 2097152 % 32 = 0 then (if ((8 ≤ (w / 16 % 16) ∧ (w / 16 % 16) ≤ 10)) then .ok (.tap (BitVec.ofNat 5 (w / 65536))
    (BitVec.ofNat 5 (w / 2048)) (BitVec.ofNat 3 (w / 256)) (BitVec.ofNat 4 (w / 16))) else .error .typeCode) else .error .reservedField

/-- TAPEND (R412). -/
def readTapend (w : Nat) : Except Reject Instr :=
  if w / 256 % 256 = 0 ∧ w / 2097152 % 32 = 0 then (if w / 16 % 16 = 0 then .ok (.tapend (BitVec.ofNat 5 (w / 65536)))
    else .error .typeCode) else .error .reservedField

/-- TAPSTEER (R414). -/
def readTapsteer (w : Nat) : Except Reject Instr :=
  if w / 65536 % 32 = 0 then (if ((8 ≤ (w / 16 % 16) ∧ (w / 16 % 16) ≤ 10)) then .ok (.tapsteer (BitVec.ofNat 5 (w / 2097152))
    (BitVec.ofNat 5 (w / 2048)) (BitVec.ofNat 3 (w / 256)) (BitVec.ofNat 4 (w / 16))) else .error .typeCode) else .error .reservedField

/-- URD (R433). -/
def readUrd (w : Nat) : Except Reject Instr :=
  if w / 256 % 256 = 0 then (if ((w / 16 % 16) = 6 ∨ (w / 16 % 16) = 10) then .ok (.urd (BitVec.ofNat 5 (w / 2097152))
    (BitVec.ofNat 5 (w / 65536)) (BitVec.ofNat 4 (w / 16))) else .error .typeCode) else .error .reservedField

/-- VURD (R434). -/
def readVurd (w : Nat) : Except Reject Instr :=
  if w / 2048 % 1024 = 0 then (if ((w / 16 % 16) = 6 ∨ (w / 16 % 16) = 10) then .ok (.vurd (BitVec.ofNat 5 (w / 2097152))
    (BitVec.ofNat 3 (w / 256)) (BitVec.ofNat 4 (w / 16))) else .error .typeCode) else .error .reservedField

/-- VSHORT (R435). -/
def readVshort (w : Nat) : Except Reject Instr :=
  if ((5 ≤ (w / 16 % 16) ∧ (w / 16 % 16) ≤ 6) ∨ (8 ≤ (w / 16 % 16) ∧ (w / 16 % 16) ≤ 10)) then .ok (.vshort (BitVec.ofNat 5 (w / 2097152))
    (BitVec.ofNat 5 (w / 65536)) (BitVec.ofNat 5 (w / 2048)) (BitVec.ofNat 3 (w / 256)) (BitVec.ofNat 4 (w / 16))) else .error .typeCode

/-- VACCEPT (R438). -/
def readVaccept (w : Nat) : Except Reject Instr :=
  if w / 2048 % 32 = 0 then (if w / 16 % 16 = 0 then .ok (.vaccept (BitVec.ofNat 5 (w / 2097152)) (BitVec.ofNat 5 (w / 65536))
    (BitVec.ofNat 3 (w / 256))) else .error .typeCode) else .error .reservedField

/-- SCOMMIT (R439). -/
def readScommit (w : Nat) : Except Reject Instr :=
  if w / 256 % 256 = 0 ∧ w / 2097152 % 32 = 0 then (if w / 16 % 16 = 0 then .ok (.scommit (BitVec.ofNat 5 (w / 65536)))
    else .error .typeCode) else .error .reservedField

/-- RAMO_ADD (R460). -/
def readRamoAdd (w : Nat) : Except Reject Instr :=
  .ok (.ramoAdd (BitVec.ofNat 5 (w / 2097152)) (BitVec.ofNat 5 (w / 65536)) (BitVec.ofNat 5 (w / 2048)) (BitVec.ofNat 1 (w / 64)) (BitVec.ofNat 1 (w / 32)))

/-- RAMO_AND (R460). -/
def readRamoAnd (w : Nat) : Except Reject Instr :=
  .ok (.ramoAnd (BitVec.ofNat 5 (w / 2097152)) (BitVec.ofNat 5 (w / 65536)) (BitVec.ofNat 5 (w / 2048)) (BitVec.ofNat 1 (w / 64)) (BitVec.ofNat 1 (w / 32)))

/-- RAMO_OR (R460). -/
def readRamoOr (w : Nat) : Except Reject Instr :=
  .ok (.ramoOr (BitVec.ofNat 5 (w / 2097152)) (BitVec.ofNat 5 (w / 65536)) (BitVec.ofNat 5 (w / 2048)) (BitVec.ofNat 1 (w / 64)) (BitVec.ofNat 1 (w / 32)))

/-- RAMO_XOR (R460). -/
def readRamoXor (w : Nat) : Except Reject Instr :=
  .ok (.ramoXor (BitVec.ofNat 5 (w / 2097152)) (BitVec.ofNat 5 (w / 65536)) (BitVec.ofNat 5 (w / 2048)) (BitVec.ofNat 1 (w / 64)) (BitVec.ofNat 1 (w / 32)))

/-- RAMO_MIN (R460). -/
def readRamoMin (w : Nat) : Except Reject Instr :=
  .ok (.ramoMin (BitVec.ofNat 5 (w / 2097152)) (BitVec.ofNat 5 (w / 65536)) (BitVec.ofNat 5 (w / 2048)) (BitVec.ofNat 1 (w / 64)) (BitVec.ofNat 1 (w / 32)))

/-- RAMO_MAX (R460). -/
def readRamoMax (w : Nat) : Except Reject Instr :=
  .ok (.ramoMax (BitVec.ofNat 5 (w / 2097152)) (BitVec.ofNat 5 (w / 65536)) (BitVec.ofNat 5 (w / 2048)) (BitVec.ofNat 1 (w / 64)) (BitVec.ofNat 1 (w / 32)))

/-- RAMO_MINN (R460). -/
def readRamoMinn (w : Nat) : Except Reject Instr :=
  .ok (.ramoMinn (BitVec.ofNat 5 (w / 2097152)) (BitVec.ofNat 5 (w / 65536)) (BitVec.ofNat 5 (w / 2048)) (BitVec.ofNat 1 (w / 64)) (BitVec.ofNat 1 (w / 32)))

/-- RAMO_MAXN (R460). -/
def readRamoMaxn (w : Nat) : Except Reject Instr :=
  .ok (.ramoMaxn (BitVec.ofNat 5 (w / 2097152)) (BitVec.ofNat 5 (w / 65536)) (BitVec.ofNat 5 (w / 2048)) (BitVec.ofNat 1 (w / 64)) (BitVec.ofNat 1 (w / 32)))

/-- RAMO_SWAP (R460). -/
def readRamoSwap (w : Nat) : Except Reject Instr :=
  .ok (.ramoSwap (BitVec.ofNat 5 (w / 2097152)) (BitVec.ofNat 5 (w / 65536)) (BitVec.ofNat 5 (w / 2048)) (BitVec.ofNat 1 (w / 64)) (BitVec.ofNat 1 (w / 32)))

/-- RFENCE (R461). -/
def readRfence (w : Nat) : Except Reject Instr :=
  if w / 2048 % 32 = 0 ∧ w / 2097152 % 32 = 0 ∧ ((w / 128 % 2) = 1 ∨ (w / 65536 % 32) = 0) then .ok (.rfence (BitVec.ofNat 5 (w / 65536))
    (BitVec.ofNat 1 (w / 128))) else .error .reservedField

/-- Major 0x02, by its function code (R42, R43). -/
def decode02 (w : Nat) : Except Reject Instr :=
  match w % 64 with
  | 0 => readAdd w
  | 1 => readSub w
  | 2 => readAnd w
  | 3 => readOr w
  | 4 => readXor w
  | 5 => readAndn w
  | 6 => readSll w
  | 7 => readSrl w
  | 8 => readSra w
  | 9 => readMin w
  | 10 => readMax w
  | 11 => readMinn w
  | 12 => readMaxn w
  | 13 => readSlt w
  | 14 => readSltn w
  | 16 => readMul w
  | 17 => readMulh w
  | 18 => readMulhn w
  | 20 => readDiv w
  | 21 => readDivn w
  | 22 => readRem w
  | 23 => readRemn w
  | 24 => readClz w
  | 25 => readCtz w
  | 26 => readPopc w
  | 28 => readSextB w
  | 29 => readSextH w
  | 30 => readSextW w
  | 32 => readZextB w
  | 33 => readZextH w
  | 34 => readZextW w
  | 36 => readSel w
  | _ => .error .unassigned

/-- Major 0x09, by its function code (R42, R43). -/
def decode09 (w : Nat) : Except Reject Instr :=
  match w / 64 % 4 with
  | 0 => readSlli w
  | 1 => readSrli w
  | 2 => readSrai w
  | _ => .error .unassigned

/-- Major 0x0E, by its function code (R42, R43). -/
def decode0E (w : Nat) : Except Reject Instr :=
  if w / 128 % 16 ≠ 0 then .error .unassigned else
  match w % 16 with
  | 0 => readAmoadd w
  | 1 => readAmoand w
  | 2 => readAmoor w
  | 3 => readAmoxor w
  | 4 => readAmomin w
  | 5 => readAmomax w
  | 6 => readAmominn w
  | 7 => readAmomaxn w
  | 8 => readAmoswap w
  | 9 => readCas w
  | _ => .error .unassigned

/-- Major 0x0F, by its function code (R42, R43). -/
def decode0F (w : Nat) : Except Reject Instr :=
  match w % 4 with
  | 0 => readFence w
  | 1 => if w / 1024 % 2 ≠ 0 then .error .unassigned
    else if w / 4 % 2 = 0 then readWaiteq w else readWaitne w
  | 2 => (match w / 4 % 512 with
    | 0 => readGbar w
    | 1 => readGbarA w
    | 2 => readGbarW w
    | _ => .error .unassigned)
  | _ => .error .unassigned

/-- Major 0x19, by its function code (R42, R43). -/
def decode19 (w : Nat) : Except Reject Instr :=
  match w % 16 with
  | 0 => readSysc w
  | 1 => readBrk w
  | 2 => readEret w
  | 3 => readIdle w
  | 4 => readYield w
  | 5 => readStop w
  | 6 => readSpawn w
  | 7 => readIflush w
  | 8 => (match w / 16 % 4096 with
    | 0 => readTinvAll w
    | 1 => readTinvAs w
    | 2 => readTinvVa w
    | _ => .error .reservedField)
  | _ => .error .unassigned

/-- Major 0x1A, by its function code (R42, R43). -/
def decode1A (w : Nat) : Except Reject Instr :=
  match w % 16 with
  | 0 => readCrd w
  | 1 => readCwr w
  | 2 => readCset w
  | 3 => readCclr w
  | _ => .error .unassigned

/-- Major 0x20, by its function code (R42, R43). -/
def decode20 (w : Nat) : Except Reject Instr :=
  match w % 16 with
  | 0 => readSetvl w
  | 1 => readSettl w
  | 2 => readSetmf w
  | 3 => readSetrm w
  | 4 => readVgrant w
  | 5 => readVrel w
  | 6 => readVsave w
  | 7 => readVrst w
  | _ => .error .unassigned

/-- Major 0x21, by its function code (R42, R43). -/
def decode21 (w : Nat) : Except Reject Instr :=
  match w % 16 with
  | 0 => readVaddInt w
  | 1 => readVsubInt w
  | 2 => readVmulInt w
  | 3 => readVmulh w
  | 4 => readVminInt w
  | 5 => readVmaxInt w
  | 6 => readVsatadd w
  | 7 => readVsatsub w
  | 8 => readVshl w
  | 9 => readVshr w
  | 10 => readVsra w
  | 11 => readVand w
  | 12 => readVor w
  | 13 => readVxor w
  | 14 => readVabsInt w
  | 15 => readVnegInt w
  | _ => .error .unassigned

/-- Major 0x22, by its function code (R42, R43). -/
def decode22 (w : Nat) : Except Reject Instr :=
  match w % 16 with
  | 0 => readVaddFp w
  | 1 => readVsubFp w
  | 2 => readVmulFp w
  | 3 => readVfma w
  | 4 => readVfms w
  | 5 => readVfnma w
  | 6 => readVdiv w
  | 7 => readVsqrt w
  | 8 => readVrcp w
  | 9 => readVrsq w
  | 10 => readVminFp w
  | 11 => readVmaxFp w
  | 12 => readVabsFp w
  | 13 => readVnegFp w
  | 14 => readVscale w
  | 15 => readVrnd w
  | _ => .error .unassigned

/-- Major 0x23, by its function code (R42, R43). -/
def decode23 (w : Nat) : Except Reject Instr :=
  match w % 16 with
  | 0 => readVcmpEq w
  | 1 => readVcmpNe w
  | 2 => readVcmpLt w
  | 3 => readVcmpLe w
  | 4 => readVcmpUn w
  | 5 => readVsel w
  | 6 => readMand w
  | 7 => readMor w
  | 8 => readMxor w
  | 9 => readMnot w
  | 10 => readMset w
  | 11 => readMclr w
  | 12 => readVpopc w
  | 13 => readVfirst w
  | _ => .error .unassigned

/-- Major 0x24, by its function code (R42, R43). -/
def decode24 (w : Nat) : Except Reject Instr :=
  match w % 16 with
  | 0 => readVcvt w
  | 1 => readVfrac w
  | 2 => readVclass w
  | 3 => readVmvV w
  | 4 => readVmvX w
  | 5 => readVid w
  | 6 => readViota w
  | _ => .error .unassigned

/-- Major 0x25, by its function code (R42, R43). -/
def decode25 (w : Nat) : Except Reject Instr :=
  match w % 16 with
  | 0 => readVredo w
  | 1 => readVredt w
  | 2 => readVredmax w
  | 3 => readVredmin w
  | 4 => readVredand w
  | 5 => readVredor w
  | 6 => readVredxor w
  | 7 => readVscan w
  | 8 => readVscanx w
  | 9 => readVhrd w
  | 10 => readVhclr w
  | _ => .error .unassigned

/-- Major 0x26, by its function code (R42, R43). -/
def decode26 (w : Nat) : Except Reject Instr :=
  match w % 16 with
  | 0 => readVcompress w
  | 1 => readVexpand w
  | 2 => readVslideup w
  | 3 => readVslidedn w
  | 4 => readVperm w
  | 5 => readVreshape w
  | 6 => readVmovx w
  | 7 => readVins w
  | _ => .error .unassigned

/-- Major 0x27, by its function code (R42, R43). -/
def decode27 (w : Nat) : Except Reject Instr :=
  if w / 4 % 2 = 0 then
    (match w / 64 % 4 with
    | 0 => if w / 32768 % 2 = 0 then readVldUnit w else readVldConvert w
    | 1 => readVldStrided w
    | 2 => readVldIndexed w
    | _ => readVldz w)
  else if w % 8 = 4 ∧ w / 64 % 4 = 3 then readVlds w
  else .error .unassigned

/-- Major 0x28, by its function code (R42, R43). -/
def decode28 (w : Nat) : Except Reject Instr :=
  match w % 8 with
  | 4 => if w / 64 % 4 = 0 then readVcpst w else .error .unassigned
  | 5 => readVamoAdd w
  | 6 => readVamoMax w
  | 7 => readVamoMin w
  | _ => (match w / 64 % 4 with
    | 0 => if w / 32768 % 2 = 0 then readVstUnit w else readVstConvert w
    | 1 => readVstStrided w
    | 2 => readVstIndexed w
    | _ => readVstz w)

/-- Major 0x2C, by its function code (R42, R43). -/
def decode2C (w : Nat) : Except Reject Instr :=
  match w / 2097152 % 8 with
  | 0 => if w % 16 = 0 then readMsetm w else .error .unassigned
  | 1 => if w % 16 = 0 then readMzero w else .error .unassigned
  | 2 => if w % 16 = 0 then readOpacc w else .error .unassigned
  | 3 => if w % 16 = 0 then readOpsub w else .error .unassigned
  | 4 => if w / 2 % 8 = 0 then readMextr w else .error .unassigned
  | 5 => if w / 2 % 8 = 0 then readMextc w else .error .unassigned
  | 6 => if w % 16 = 0 then readMputr w else .error .unassigned
  | _ => .error .unassigned

/-- Major 0x30, by its function code (R42, R43). -/
def decode30 (w : Nat) : Except Reject Instr :=
  match w / 16 % 16 with
  | 0 => readBreg w
  | 1 => readCbld w
  | 2 => readTbld w
  | 3 => readLkz w
  | _ => .error .unassigned

/-- Major 0x31, by its function code (R42, R43). -/
def decode31 (w : Nat) : Except Reject Instr :=
  match w / 16 % 16 with
  | 0 => readLka w
  | 1 => readLkab w
  | 2 => readLkx w
  | _ => .error .unassigned

/-- Major 0x32, by its function code (R42, R43). -/
def decode32 (w : Nat) : Except Reject Instr :=
  match w / 16 % 16 with
  | 0 => readBdot w
  | 1 => readBaxpy w
  | 2 => readBcopy w
  | 3 => readBbit w
  | 4 => readBfill w
  | 5 => readBsync w
  | _ => .error .unassigned

/-- Major 0x34, by its function code (R42, R43). The bits of func11 above the ones that tell the eight instructions apart hold operand
fields in some rows and zero in others; a bit that is set where its row shows zero counts as a reserved field, reason 4, not as an
unassigned function code, which the spec leaves open (DESIGN CHOICE, log 45). -/
def decode34 (w : Nat) : Except Reject Instr :=
  match w % 8 with
  | 0 => readCpdecl w
  | 1 => readCplink w
  | 2 => readCpstore w
  | 3 => readCpwaitR w
  | 4 => readCpwaitV w
  | 5 => readCpcancel w
  | 6 => readSrd w
  | _ => readSavail w

/-- Major 0x35, by its function code (R42, R43). -/
def decode35 (w : Nat) : Except Reject Instr :=
  if w / 8 % 256 ≠ 0 then .error .unassigned else
  match w % 8 with
  | 0 => readCflush w
  | 4 => readCflush w
  | 1 => readCinval w
  | 2 => readCzero w
  | 3 => readCseal w
  | _ => .error .unassigned

/-- Major 0x36, by its function code (R42, R43). -/
def decode36 (w : Nat) : Except Reject Instr :=
  match w % 16 with
  | 0 => readTap w
  | 1 => readTapend w
  | 2 => readTapsteer w
  | _ => .error .unassigned

/-- Major 0x37, by its function code (R42, R43). -/
def decode37 (w : Nat) : Except Reject Instr :=
  match w % 16 with
  | 0 => readUrd w
  | 1 => readVurd w
  | 2 => readVshort w
  | 3 => readVaccept w
  | 4 => readScommit w
  | _ => .error .unassigned

/-- Major 0x38, by its function code (R42, R43). -/
def decode38 (w : Nat) : Except Reject Instr :=
  if w % 16 = 15 then
    (if w / 256 % 8 = 0 ∧ w / 16 % 8 = 0 then readRfence w else .error .unassigned)
  else if w / 128 % 16 ≠ 0 ∨ w / 16 % 2 ≠ 0 then .error .unassigned else
  match w % 16 with
  | 0 => readRamoAdd w
  | 1 => readRamoAnd w
  | 2 => readRamoOr w
  | 3 => readRamoXor w
  | 4 => readRamoMin w
  | 5 => readRamoMax w
  | 6 => readRamoMinn w
  | 7 => readRamoMaxn w
  | 8 => readRamoSwap w
  | _ => .error .unassigned

/-- Decodes a word given as a number below 2^32 (R44). -/
def decodeNat (w : Nat) : Except Reject Instr :=
  match w / 67108864 with
  | 0 => .error .zeroWord
  | 1 => readPfx w
  | 2 => decode02 w
  | 3 => readAddi w
  | 4 => readAndi w
  | 5 => readOri w
  | 6 => readXori w
  | 7 => readSlti w
  | 8 => readSltin w
  | 9 => decode09 w
  | 10 => readLhi w
  | 11 => readAddpc w
  | 12 => readLd w
  | 13 => readSt w
  | 14 => decode0E w
  | 15 => decode0F w
  | 16 => readBeq w
  | 17 => readBne w
  | 18 => readBlt w
  | 19 => readBge w
  | 20 => readBltn w
  | 21 => readBgen w
  | 22 => readCall w
  | 23 => readJump w
  | 24 => readJr w
  | 25 => decode19 w
  | 26 => decode1A w
  | 32 => decode20 w
  | 33 => decode21 w
  | 34 => decode22 w
  | 35 => decode23 w
  | 36 => decode24 w
  | 37 => decode25 w
  | 38 => decode26 w
  | 39 => decode27 w
  | 40 => decode28 w
  | 44 => decode2C w
  | 48 => decode30 w
  | 49 => decode31 w
  | 50 => decode32 w
  | 52 => decode34 w
  | 53 => decode35 w
  | 54 => decode36 w
  | 55 => decode37 w
  | 56 => decode38 w
  | 63 => readHint w
  | _ => .error .reservedMajor

/-- Decodes an instruction word: total on every word, rejecting by name (R44). -/
def decode (w : Word) : Except Reject Instr := decodeNat w.toNat

/-- The word of an instruction, from the encoding tables (R37, R42); the steps and events have none. -/
def encode : Instr → Option Word
  | .pfx i m u c => some (BitVec.ofNat 32 (67108864 + i.toNat * 33554432 + m.toNat * 4194304 + u.toNat * 2097152 + c.toNat * 65536))
  | .add d a b => some (BitVec.ofNat 32 (134217728 + d.toNat * 2097152 + a.toNat * 65536 + b.toNat * 2048))
  | .sub d a b => some (BitVec.ofNat 32 (134217729 + d.toNat * 2097152 + a.toNat * 65536 + b.toNat * 2048))
  | .and d a b => some (BitVec.ofNat 32 (134217730 + d.toNat * 2097152 + a.toNat * 65536 + b.toNat * 2048))
  | .or d a b => some (BitVec.ofNat 32 (134217731 + d.toNat * 2097152 + a.toNat * 65536 + b.toNat * 2048))
  | .xor d a b => some (BitVec.ofNat 32 (134217732 + d.toNat * 2097152 + a.toNat * 65536 + b.toNat * 2048))
  | .andn d a b => some (BitVec.ofNat 32 (134217733 + d.toNat * 2097152 + a.toNat * 65536 + b.toNat * 2048))
  | .sll d a b => some (BitVec.ofNat 32 (134217734 + d.toNat * 2097152 + a.toNat * 65536 + b.toNat * 2048))
  | .srl d a b => some (BitVec.ofNat 32 (134217735 + d.toNat * 2097152 + a.toNat * 65536 + b.toNat * 2048))
  | .sra d a b => some (BitVec.ofNat 32 (134217736 + d.toNat * 2097152 + a.toNat * 65536 + b.toNat * 2048))
  | .min d a b => some (BitVec.ofNat 32 (134217737 + d.toNat * 2097152 + a.toNat * 65536 + b.toNat * 2048))
  | .max d a b => some (BitVec.ofNat 32 (134217738 + d.toNat * 2097152 + a.toNat * 65536 + b.toNat * 2048))
  | .minn d a b => some (BitVec.ofNat 32 (134217739 + d.toNat * 2097152 + a.toNat * 65536 + b.toNat * 2048))
  | .maxn d a b => some (BitVec.ofNat 32 (134217740 + d.toNat * 2097152 + a.toNat * 65536 + b.toNat * 2048))
  | .slt d a b => some (BitVec.ofNat 32 (134217741 + d.toNat * 2097152 + a.toNat * 65536 + b.toNat * 2048))
  | .sltn d a b => some (BitVec.ofNat 32 (134217742 + d.toNat * 2097152 + a.toNat * 65536 + b.toNat * 2048))
  | .mul d a b => some (BitVec.ofNat 32 (134217744 + d.toNat * 2097152 + a.toNat * 65536 + b.toNat * 2048))
  | .mulh d a b => some (BitVec.ofNat 32 (134217745 + d.toNat * 2097152 + a.toNat * 65536 + b.toNat * 2048))
  | .mulhn d a b => some (BitVec.ofNat 32 (134217746 + d.toNat * 2097152 + a.toNat * 65536 + b.toNat * 2048))
  | .div d a b => some (BitVec.ofNat 32 (134217748 + d.toNat * 2097152 + a.toNat * 65536 + b.toNat * 2048))
  | .divn d a b => some (BitVec.ofNat 32 (134217749 + d.toNat * 2097152 + a.toNat * 65536 + b.toNat * 2048))
  | .rem d a b => some (BitVec.ofNat 32 (134217750 + d.toNat * 2097152 + a.toNat * 65536 + b.toNat * 2048))
  | .remn d a b => some (BitVec.ofNat 32 (134217751 + d.toNat * 2097152 + a.toNat * 65536 + b.toNat * 2048))
  | .clz d a => some (BitVec.ofNat 32 (134217752 + d.toNat * 2097152 + a.toNat * 65536))
  | .ctz d a => some (BitVec.ofNat 32 (134217753 + d.toNat * 2097152 + a.toNat * 65536))
  | .popc d a => some (BitVec.ofNat 32 (134217754 + d.toNat * 2097152 + a.toNat * 65536))
  | .sextB d a => some (BitVec.ofNat 32 (134217756 + d.toNat * 2097152 + a.toNat * 65536))
  | .sextH d a => some (BitVec.ofNat 32 (134217757 + d.toNat * 2097152 + a.toNat * 65536))
  | .sextW d a => some (BitVec.ofNat 32 (134217758 + d.toNat * 2097152 + a.toNat * 65536))
  | .zextB d a => some (BitVec.ofNat 32 (134217760 + d.toNat * 2097152 + a.toNat * 65536))
  | .zextH d a => some (BitVec.ofNat 32 (134217761 + d.toNat * 2097152 + a.toNat * 65536))
  | .zextW d a => some (BitVec.ofNat 32 (134217762 + d.toNat * 2097152 + a.toNat * 65536))
  | .sel d a b c => some (BitVec.ofNat 32 (134217764 + d.toNat * 2097152 + a.toNat * 65536 + b.toNat * 2048 + c.toNat * 64))
  | .addi d a i => some (BitVec.ofNat 32 (201326592 + d.toNat * 2097152 + a.toNat * 65536 + i.toNat))
  | .andi d a i => some (BitVec.ofNat 32 (268435456 + d.toNat * 2097152 + a.toNat * 65536 + i.toNat))
  | .ori d a i => some (BitVec.ofNat 32 (335544320 + d.toNat * 2097152 + a.toNat * 65536 + i.toNat))
  | .xori d a i => some (BitVec.ofNat 32 (402653184 + d.toNat * 2097152 + a.toNat * 65536 + i.toNat))
  | .slti d a i => some (BitVec.ofNat 32 (469762048 + d.toNat * 2097152 + a.toNat * 65536 + i.toNat))
  | .sltin d a i => some (BitVec.ofNat 32 (536870912 + d.toNat * 2097152 + a.toNat * 65536 + i.toNat))
  | .slli d a s => some (BitVec.ofNat 32 (603979776 + d.toNat * 2097152 + a.toNat * 65536 + s.toNat))
  | .srli d a s => some (BitVec.ofNat 32 (603979840 + d.toNat * 2097152 + a.toNat * 65536 + s.toNat))
  | .srai d a s => some (BitVec.ofNat 32 (603979904 + d.toNat * 2097152 + a.toNat * 65536 + s.toNat))
  | .lhi d i => some (BitVec.ofNat 32 (671088640 + d.toNat * 2097152 + i.toNat))
  | .addpc d i => some (BitVec.ofNat 32 (738197504 + d.toNat * 2097152 + i.toNat))
  | .ld d b s n q f => some (BitVec.ofNat 32 (805306368 + d.toNat * 2097152 + b.toNat * 65536 + s.toNat * 16384 + n.toNat * 8192 + q.toNat * 2048 + f.toNat))
  | .st s b z q f => some (BitVec.ofNat 32 (872415232 + s.toNat * 2097152 + b.toNat * 65536 + z.toNat * 16384 + q.toNat * 4096 + f.toNat))
  | .amoadd d a b z o => some (BitVec.ofNat 32 (939524096 + d.toNat * 2097152 + a.toNat * 65536 + b.toNat * 2048 + z.toNat * 64 + o.toNat * 16))
  | .amoand d a b z o => some (BitVec.ofNat 32 (939524097 + d.toNat * 2097152 + a.toNat * 65536 + b.toNat * 2048 + z.toNat * 64 + o.toNat * 16))
  | .amoor d a b z o => some (BitVec.ofNat 32 (939524098 + d.toNat * 2097152 + a.toNat * 65536 + b.toNat * 2048 + z.toNat * 64 + o.toNat * 16))
  | .amoxor d a b z o => some (BitVec.ofNat 32 (939524099 + d.toNat * 2097152 + a.toNat * 65536 + b.toNat * 2048 + z.toNat * 64 + o.toNat * 16))
  | .amomin d a b z o => some (BitVec.ofNat 32 (939524100 + d.toNat * 2097152 + a.toNat * 65536 + b.toNat * 2048 + z.toNat * 64 + o.toNat * 16))
  | .amomax d a b z o => some (BitVec.ofNat 32 (939524101 + d.toNat * 2097152 + a.toNat * 65536 + b.toNat * 2048 + z.toNat * 64 + o.toNat * 16))
  | .amominn d a b z o => some (BitVec.ofNat 32 (939524102 + d.toNat * 2097152 + a.toNat * 65536 + b.toNat * 2048 + z.toNat * 64 + o.toNat * 16))
  | .amomaxn d a b z o => some (BitVec.ofNat 32 (939524103 + d.toNat * 2097152 + a.toNat * 65536 + b.toNat * 2048 + z.toNat * 64 + o.toNat * 16))
  | .amoswap d a b z o => some (BitVec.ofNat 32 (939524104 + d.toNat * 2097152 + a.toNat * 65536 + b.toNat * 2048 + z.toNat * 64 + o.toNat * 16))
  | .cas d a b z o => some (BitVec.ofNat 32 (939524105 + d.toNat * 2097152 + a.toNat * 65536 + b.toNat * 2048 + z.toNat * 64 + o.toNat * 16))
  | .fence k s => some (BitVec.ofNat 32 (1006632960 + k.toNat * 32 + s.toNat * 4))
  | .waiteq d a b k o z => some (BitVec.ofNat 32 (1006632961 + d.toNat * 2097152 + a.toNat * 65536 + b.toNat * 2048 + k.toNat * 32 + o.toNat * 16 + z.toNat * 8))
  | .waitne d a b k o z => some (BitVec.ofNat 32 (1006632965 + d.toNat * 2097152 + a.toNat * 65536 + b.toNat * 2048 + k.toNat * 32 + o.toNat * 16 + z.toNat * 8))
  | .gbar => some (BitVec.ofNat 32 (1006632962))
  | .gbarA d => some (BitVec.ofNat 32 (1006632966 + d.toNat * 2097152))
  | .gbarW d a => some (BitVec.ofNat 32 (1006632970 + d.toNat * 2097152 + a.toNat * 65536))
  | .beq a b o => some (BitVec.ofNat 32 (1073741824 + a.toNat * 2097152 + b.toNat * 65536 + o.toNat))
  | .bne a b o => some (BitVec.ofNat 32 (1140850688 + a.toNat * 2097152 + b.toNat * 65536 + o.toNat))
  | .blt a b o => some (BitVec.ofNat 32 (1207959552 + a.toNat * 2097152 + b.toNat * 65536 + o.toNat))
  | .bge a b o => some (BitVec.ofNat 32 (1275068416 + a.toNat * 2097152 + b.toNat * 65536 + o.toNat))
  | .bltn a b o => some (BitVec.ofNat 32 (1342177280 + a.toNat * 2097152 + b.toNat * 65536 + o.toNat))
  | .bgen a b o => some (BitVec.ofNat 32 (1409286144 + a.toNat * 2097152 + b.toNat * 65536 + o.toNat))
  | .call o => some (BitVec.ofNat 32 (1476395008 + o.toNat))
  | .jump o => some (BitVec.ofNat 32 (1543503872 + o.toNat))
  | .jr d a i => some (BitVec.ofNat 32 (1610612736 + d.toNat * 2097152 + a.toNat * 65536 + i.toNat))
  | .sysc i => some (BitVec.ofNat 32 (1677721600 + i.toNat * 16))
  | .brk i => some (BitVec.ofNat 32 (1677721601 + i.toNat * 16))
  | .eret => some (BitVec.ofNat 32 (1677721602))
  | .idle a => some (BitVec.ofNat 32 (1677721603 + a.toNat * 65536))
  | .yield => some (BitVec.ofNat 32 (1677721604))
  | .stop => some (BitVec.ofNat 32 (1677721605))
  | .spawn d a q => some (BitVec.ofNat 32 (1677721606 + d.toNat * 2097152 + a.toNat * 65536 + q.toNat * 16))
  | .iflush => some (BitVec.ofNat 32 (1677721607))
  | .tinvAll => some (BitVec.ofNat 32 (1677721608))
  | .tinvAs d => some (BitVec.ofNat 32 (1677721624 + d.toNat * 2097152))
  | .tinvVa d a => some (BitVec.ofNat 32 (1677721640 + d.toNat * 2097152 + a.toNat * 65536))
  | .crd d c => some (BitVec.ofNat 32 (1744830464 + d.toNat * 2097152 + c.toNat * 16))
  | .cwr d a c => some (BitVec.ofNat 32 (1744830465 + d.toNat * 2097152 + a.toNat * 65536 + c.toNat * 16))
  | .cset d a c => some (BitVec.ofNat 32 (1744830466 + d.toNat * 2097152 + a.toNat * 65536 + c.toNat * 16))
  | .cclr d a c => some (BitVec.ofNat 32 (1744830467 + d.toNat * 2097152 + a.toNat * 65536 + c.toNat * 16))
  | .hint p => some (BitVec.ofNat 32 (4227858432 + p.toNat))
  | .setvl d a t => some (BitVec.ofNat 32 (2147483648 + d.toNat * 2097152 + a.toNat * 65536 + t.toNat * 16))
  | .settl d a => some (BitVec.ofNat 32 (2147483649 + d.toNat * 2097152 + a.toNat * 65536))
  | .setmf d a => some (BitVec.ofNat 32 (2147483650 + d.toNat * 2097152 + a.toNat * 65536))
  | .setrm d a => some (BitVec.ofNat 32 (2147483651 + d.toNat * 2097152 + a.toNat * 65536))
  | .vgrant d a => some (BitVec.ofNat 32 (2147483652 + d.toNat * 2097152 + a.toNat * 65536))
  | .vrel => some (BitVec.ofNat 32 (2147483653))
  | .vsave a b => some (BitVec.ofNat 32 (2147483654 + a.toNat * 65536 + b.toNat * 2048))
  | .vrst a => some (BitVec.ofNat 32 (2147483655 + a.toNat * 65536))
  | .vaddInt d a b m t => some (BitVec.ofNat 32 (2214592512 + d.toNat * 2097152 + a.toNat * 65536 + b.toNat * 2048 + m.toNat * 256 + t.toNat * 16))
  | .vsubInt d a b m t => some (BitVec.ofNat 32 (2214592513 + d.toNat * 2097152 + a.toNat * 65536 + b.toNat * 2048 + m.toNat * 256 + t.toNat * 16))
  | .vmulInt d a b m t => some (BitVec.ofNat 32 (2214592514 + d.toNat * 2097152 + a.toNat * 65536 + b.toNat * 2048 + m.toNat * 256 + t.toNat * 16))
  | .vmulh d a b m t => some (BitVec.ofNat 32 (2214592515 + d.toNat * 2097152 + a.toNat * 65536 + b.toNat * 2048 + m.toNat * 256 + t.toNat * 16))
  | .vminInt d a b m t => some (BitVec.ofNat 32 (2214592516 + d.toNat * 2097152 + a.toNat * 65536 + b.toNat * 2048 + m.toNat * 256 + t.toNat * 16))
  | .vmaxInt d a b m t => some (BitVec.ofNat 32 (2214592517 + d.toNat * 2097152 + a.toNat * 65536 + b.toNat * 2048 + m.toNat * 256 + t.toNat * 16))
  | .vsatadd d a b m t => some (BitVec.ofNat 32 (2214592518 + d.toNat * 2097152 + a.toNat * 65536 + b.toNat * 2048 + m.toNat * 256 + t.toNat * 16))
  | .vsatsub d a b m t => some (BitVec.ofNat 32 (2214592519 + d.toNat * 2097152 + a.toNat * 65536 + b.toNat * 2048 + m.toNat * 256 + t.toNat * 16))
  | .vshl d a b m t => some (BitVec.ofNat 32 (2214592520 + d.toNat * 2097152 + a.toNat * 65536 + b.toNat * 2048 + m.toNat * 256 + t.toNat * 16))
  | .vshr d a b m t => some (BitVec.ofNat 32 (2214592521 + d.toNat * 2097152 + a.toNat * 65536 + b.toNat * 2048 + m.toNat * 256 + t.toNat * 16))
  | .vsra d a b m t => some (BitVec.ofNat 32 (2214592522 + d.toNat * 2097152 + a.toNat * 65536 + b.toNat * 2048 + m.toNat * 256 + t.toNat * 16))
  | .vand d a b m t => some (BitVec.ofNat 32 (2214592523 + d.toNat * 2097152 + a.toNat * 65536 + b.toNat * 2048 + m.toNat * 256 + t.toNat * 16))
  | .vor d a b m t => some (BitVec.ofNat 32 (2214592524 + d.toNat * 2097152 + a.toNat * 65536 + b.toNat * 2048 + m.toNat * 256 + t.toNat * 16))
  | .vxor d a b m t => some (BitVec.ofNat 32 (2214592525 + d.toNat * 2097152 + a.toNat * 65536 + b.toNat * 2048 + m.toNat * 256 + t.toNat * 16))
  | .vabsInt d a m t => some (BitVec.ofNat 32 (2214592526 + d.toNat * 2097152 + a.toNat * 65536 + m.toNat * 256 + t.toNat * 16))
  | .vnegInt d a m t => some (BitVec.ofNat 32 (2214592527 + d.toNat * 2097152 + a.toNat * 65536 + m.toNat * 256 + t.toNat * 16))
  | .vaddFp d a b m t => some (BitVec.ofNat 32 (2281701376 + d.toNat * 2097152 + a.toNat * 65536 + b.toNat * 2048 + m.toNat * 256 + t.toNat * 16))
  | .vsubFp d a b m t => some (BitVec.ofNat 32 (2281701377 + d.toNat * 2097152 + a.toNat * 65536 + b.toNat * 2048 + m.toNat * 256 + t.toNat * 16))
  | .vmulFp d a b m t => some (BitVec.ofNat 32 (2281701378 + d.toNat * 2097152 + a.toNat * 65536 + b.toNat * 2048 + m.toNat * 256 + t.toNat * 16))
  | .vfma d a b m t => some (BitVec.ofNat 32 (2281701379 + d.toNat * 2097152 + a.toNat * 65536 + b.toNat * 2048 + m.toNat * 256 + t.toNat * 16))
  | .vfms d a b m t => some (BitVec.ofNat 32 (2281701380 + d.toNat * 2097152 + a.toNat * 65536 + b.toNat * 2048 + m.toNat * 256 + t.toNat * 16))
  | .vfnma d a b m t => some (BitVec.ofNat 32 (2281701381 + d.toNat * 2097152 + a.toNat * 65536 + b.toNat * 2048 + m.toNat * 256 + t.toNat * 16))
  | .vdiv d a b m t => some (BitVec.ofNat 32 (2281701382 + d.toNat * 2097152 + a.toNat * 65536 + b.toNat * 2048 + m.toNat * 256 + t.toNat * 16))
  | .vsqrt d a m t => some (BitVec.ofNat 32 (2281701383 + d.toNat * 2097152 + a.toNat * 65536 + m.toNat * 256 + t.toNat * 16))
  | .vrcp d a m t => some (BitVec.ofNat 32 (2281701384 + d.toNat * 2097152 + a.toNat * 65536 + m.toNat * 256 + t.toNat * 16))
  | .vrsq d a m t => some (BitVec.ofNat 32 (2281701385 + d.toNat * 2097152 + a.toNat * 65536 + m.toNat * 256 + t.toNat * 16))
  | .vminFp d a b m t => some (BitVec.ofNat 32 (2281701386 + d.toNat * 2097152 + a.toNat * 65536 + b.toNat * 2048 + m.toNat * 256 + t.toNat * 16))
  | .vmaxFp d a b m t => some (BitVec.ofNat 32 (2281701387 + d.toNat * 2097152 + a.toNat * 65536 + b.toNat * 2048 + m.toNat * 256 + t.toNat * 16))
  | .vabsFp d a m t => some (BitVec.ofNat 32 (2281701388 + d.toNat * 2097152 + a.toNat * 65536 + m.toNat * 256 + t.toNat * 16))
  | .vnegFp d a m t => some (BitVec.ofNat 32 (2281701389 + d.toNat * 2097152 + a.toNat * 65536 + m.toNat * 256 + t.toNat * 16))
  | .vscale d a b m t => some (BitVec.ofNat 32 (2281701390 + d.toNat * 2097152 + a.toNat * 65536 + b.toNat * 2048 + m.toNat * 256 + t.toNat * 16))
  | .vrnd d a r m t => some (BitVec.ofNat 32 (2281701391 + d.toNat * 2097152 + a.toNat * 65536 + r.toNat * 2048 + m.toNat * 256 + t.toNat * 16))
  | .vcmpEq d a b m t => some (BitVec.ofNat 32 (2348810240 + d.toNat * 2097152 + a.toNat * 65536 + b.toNat * 2048 + m.toNat * 256 + t.toNat * 16))
  | .vcmpNe d a b m t => some (BitVec.ofNat 32 (2348810241 + d.toNat * 2097152 + a.toNat * 65536 + b.toNat * 2048 + m.toNat * 256 + t.toNat * 16))
  | .vcmpLt d a b m t => some (BitVec.ofNat 32 (2348810242 + d.toNat * 2097152 + a.toNat * 65536 + b.toNat * 2048 + m.toNat * 256 + t.toNat * 16))
  | .vcmpLe d a b m t => some (BitVec.ofNat 32 (2348810243 + d.toNat * 2097152 + a.toNat * 65536 + b.toNat * 2048 + m.toNat * 256 + t.toNat * 16))
  | .vcmpUn d a b m t => some (BitVec.ofNat 32 (2348810244 + d.toNat * 2097152 + a.toNat * 65536 + b.toNat * 2048 + m.toNat * 256 + t.toNat * 16))
  | .vsel d a b m t => some (BitVec.ofNat 32 (2348810245 + d.toNat * 2097152 + a.toNat * 65536 + b.toNat * 2048 + m.toNat * 256 + t.toNat * 16))
  | .mand d a b m => some (BitVec.ofNat 32 (2348810246 + d.toNat * 2097152 + a.toNat * 65536 + b.toNat * 2048 + m.toNat * 256))
  | .mor d a b m => some (BitVec.ofNat 32 (2348810247 + d.toNat * 2097152 + a.toNat * 65536 + b.toNat * 2048 + m.toNat * 256))
  | .mxor d a b m => some (BitVec.ofNat 32 (2348810248 + d.toNat * 2097152 + a.toNat * 65536 + b.toNat * 2048 + m.toNat * 256))
  | .mnot d a m => some (BitVec.ofNat 32 (2348810249 + d.toNat * 2097152 + a.toNat * 65536 + m.toNat * 256))
  | .mset d m => some (BitVec.ofNat 32 (2348810250 + d.toNat * 2097152 + m.toNat * 256))
  | .mclr d m => some (BitVec.ofNat 32 (2348810251 + d.toNat * 2097152 + m.toNat * 256))
  | .vpopc d a m => some (BitVec.ofNat 32 (2348810252 + d.toNat * 2097152 + a.toNat * 65536 + m.toNat * 256))
  | .vfirst d a m => some (BitVec.ofNat 32 (2348810253 + d.toNat * 2097152 + a.toNat * 65536 + m.toNat * 256))
  | .vcvt d a r s m t => some (BitVec.ofNat 32 (2415919104 + d.toNat * 2097152 + a.toNat * 65536 + r.toNat * 32768 + s.toNat * 2048 + m.toNat * 256 + t.toNat * 16))
  | .vfrac d a m t => some (BitVec.ofNat 32 (2415919105 + d.toNat * 2097152 + a.toNat * 65536 + m.toNat * 256 + t.toNat * 16))
  | .vclass d a m t => some (BitVec.ofNat 32 (2415919106 + d.toNat * 2097152 + a.toNat * 65536 + m.toNat * 256 + t.toNat * 16))
  | .vmvV d a m t => some (BitVec.ofNat 32 (2415919107 + d.toNat * 2097152 + a.toNat * 65536 + m.toNat * 256 + t.toNat * 16))
  | .vmvX d b m t => some (BitVec.ofNat 32 (2415919108 + d.toNat * 2097152 + b.toNat * 2048 + m.toNat * 256 + t.toNat * 16))
  | .vid d m t => some (BitVec.ofNat 32 (2415919109 + d.toNat * 2097152 + m.toNat * 256 + t.toNat * 16))
  | .viota d a m t => some (BitVec.ofNat 32 (2415919110 + d.toNat * 2097152 + a.toNat * 65536 + m.toNat * 256 + t.toNat * 16))
  | .vredo a h m t => some (BitVec.ofNat 32 (2483027968 + a.toNat * 65536 + h.toNat * 2048 + m.toNat * 256 + t.toNat * 16))
  | .vredt a h m t => some (BitVec.ofNat 32 (2483027969 + a.toNat * 65536 + h.toNat * 2048 + m.toNat * 256 + t.toNat * 16))
  | .vredmax a h m t => some (BitVec.ofNat 32 (2483027970 + a.toNat * 65536 + h.toNat * 2048 + m.toNat * 256 + t.toNat * 16))
  | .vredmin a h m t => some (BitVec.ofNat 32 (2483027971 + a.toNat * 65536 + h.toNat * 2048 + m.toNat * 256 + t.toNat * 16))
  | .vredand a h m t => some (BitVec.ofNat 32 (2483027972 + a.toNat * 65536 + h.toNat * 2048 + m.toNat * 256 + t.toNat * 16))
  | .vredor a h m t => some (BitVec.ofNat 32 (2483027973 + a.toNat * 65536 + h.toNat * 2048 + m.toNat * 256 + t.toNat * 16))
  | .vredxor a h m t => some (BitVec.ofNat 32 (2483027974 + a.toNat * 65536 + h.toNat * 2048 + m.toNat * 256 + t.toNat * 16))
  | .vscan d a h m t => some (BitVec.ofNat 32 (2483027975 + d.toNat * 2097152 + a.toNat * 65536 + h.toNat * 2048 + m.toNat * 256 + t.toNat * 16))
  | .vscanx d a h m t => some (BitVec.ofNat 32 (2483027976 + d.toNat * 2097152 + a.toNat * 65536 + h.toNat * 2048 + m.toNat * 256 + t.toNat * 16))
  | .vhrd d h t => some (BitVec.ofNat 32 (2483027977 + d.toNat * 2097152 + h.toNat * 2048 + t.toNat * 16))
  | .vhclr h => some (BitVec.ofNat 32 (2483027978 + h.toNat * 2048))
  | .vcompress d a m t => some (BitVec.ofNat 32 (2550136832 + d.toNat * 2097152 + a.toNat * 65536 + m.toNat * 256 + t.toNat * 16))
  | .vexpand d a m t => some (BitVec.ofNat 32 (2550136833 + d.toNat * 2097152 + a.toNat * 65536 + m.toNat * 256 + t.toNat * 16))
  | .vslideup d a b m t => some (BitVec.ofNat 32 (2550136834 + d.toNat * 2097152 + a.toNat * 65536 + b.toNat * 2048 + m.toNat * 256 + t.toNat * 16))
  | .vslidedn d a b m t => some (BitVec.ofNat 32 (2550136835 + d.toNat * 2097152 + a.toNat * 65536 + b.toNat * 2048 + m.toNat * 256 + t.toNat * 16))
  | .vperm d a b m t => some (BitVec.ofNat 32 (2550136836 + d.toNat * 2097152 + a.toNat * 65536 + b.toNat * 2048 + m.toNat * 256 + t.toNat * 16))
  | .vreshape d a b m t => some (BitVec.ofNat 32 (2550136837 + d.toNat * 2097152 + a.toNat * 65536 + b.toNat * 2048 + m.toNat * 256 + t.toNat * 16))
  | .vmovx d a b t => some (BitVec.ofNat 32 (2550136838 + d.toNat * 2097152 + a.toNat * 65536 + b.toNat * 2048 + t.toNat * 16))
  | .vins d a b m t => some (BitVec.ofNat 32 (2550136839 + d.toNat * 2097152 + a.toNat * 65536 + b.toNat * 2048 + m.toNat * 256 + t.toNat * 16))
  | .vldUnit d a m u f b s => some (BitVec.ofNat 32 (2617245696 + d.toNat * 2097152 + a.toNat * 65536 + m.toNat * 256 + u.toNat * 32 + f.toNat * 16 + b.toNat * 8 + s.toNat))
  | .vldConvert d a t m u f b s => some (BitVec.ofNat 32 (2617278464 + d.toNat * 2097152 + a.toNat * 65536 + t.toNat * 2048 + m.toNat * 256 + u.toNat * 32 + f.toNat * 16 + b.toNat * 8 + s.toNat))
  | .vldStrided d a c m u f b s => some (BitVec.ofNat 32 (2617245760 + d.toNat * 2097152 + a.toNat * 65536 + c.toNat * 2048 + m.toNat * 256 + u.toNat * 32 + f.toNat * 16 + b.toNat * 8 + s.toNat))
  | .vldIndexed d a c m u f b s => some (BitVec.ofNat 32 (2617245824 + d.toNat * 2097152 + a.toNat * 65536 + c.toNat * 2048 + m.toNat * 256 + u.toNat * 32 + f.toNat * 16 + b.toNat * 8 + s.toNat))
  | .vldz d a f b s => some (BitVec.ofNat 32 (2617245888 + d.toNat * 2097152 + a.toNat * 65536 + f.toNat * 16 + b.toNat * 8 + s.toNat))
  | .vlds d k => some (BitVec.ofNat 32 (2617245892 + d.toNat * 2097152 + k.toNat * 65536))
  | .vstUnit s a m u b z => some (BitVec.ofNat 32 (2684354560 + s.toNat * 2097152 + a.toNat * 65536 + m.toNat * 256 + u.toNat * 32 + b.toNat * 8 + z.toNat))
  | .vstConvert s a t m u b z => some (BitVec.ofNat 32 (2684387328 + s.toNat * 2097152 + a.toNat * 65536 + t.toNat * 2048 + m.toNat * 256 + u.toNat * 32 + b.toNat * 8 + z.toNat))
  | .vstStrided s a c m u b z => some (BitVec.ofNat 32 (2684354624 + s.toNat * 2097152 + a.toNat * 65536 + c.toNat * 2048 + m.toNat * 256 + u.toNat * 32 + b.toNat * 8 + z.toNat))
  | .vstIndexed s a c m u b z => some (BitVec.ofNat 32 (2684354688 + s.toNat * 2097152 + a.toNat * 65536 + c.toNat * 2048 + m.toNat * 256 + u.toNat * 32 + b.toNat * 8 + z.toNat))
  | .vstz s a b z => some (BitVec.ofNat 32 (2684354752 + s.toNat * 2097152 + a.toNat * 65536 + b.toNat * 8 + z.toNat))
  | .vcpst s a w m b => some (BitVec.ofNat 32 (2684354564 + s.toNat * 2097152 + a.toNat * 65536 + w.toNat * 2048 + m.toNat * 256 + b.toNat * 8))
  | .vamoAdd s a c m o u => some (BitVec.ofNat 32 (2684354565 + s.toNat * 2097152 + a.toNat * 65536 + c.toNat * 2048 + m.toNat * 256 + o.toNat * 64 + u.toNat * 32))
  | .vamoMax s a c m o u => some (BitVec.ofNat 32 (2684354566 + s.toNat * 2097152 + a.toNat * 65536 + c.toNat * 2048 + m.toNat * 256 + o.toNat * 64 + u.toNat * 32))
  | .vamoMin s a c m o u => some (BitVec.ofNat 32 (2684354567 + s.toNat * 2097152 + a.toNat * 65536 + c.toNat * 2048 + m.toNat * 256 + o.toNat * 64 + u.toNat * 32))
  | .msetm a b => some (BitVec.ofNat 32 (2952790016 + a.toNat * 65536 + b.toNat * 2048))
  | .mzero k => some (BitVec.ofNat 32 (2954887168 + k.toNat * 16777216))
  | .opacc k a b m t => some (BitVec.ofNat 32 (2956984320 + k.toNat * 16777216 + a.toNat * 65536 + b.toNat * 2048 + m.toNat * 256 + t.toNat * 16))
  | .opsub k a b m t => some (BitVec.ofNat 32 (2959081472 + k.toNat * 16777216 + a.toNat * 65536 + b.toNat * 2048 + m.toNat * 256 + t.toNat * 16))
  | .mextr k d b m t z => some (BitVec.ofNat 32 (2961178624 + k.toNat * 16777216 + d.toNat * 65536 + b.toNat * 2048 + m.toNat * 256 + t.toNat * 16 + z.toNat))
  | .mextc k d b m t z => some (BitVec.ofNat 32 (2963275776 + k.toNat * 16777216 + d.toNat * 65536 + b.toNat * 2048 + m.toNat * 256 + t.toNat * 16 + z.toNat))
  | .mputr k s b m t => some (BitVec.ofNat 32 (2965372928 + k.toNat * 16777216 + s.toNat * 65536 + b.toNat * 2048 + m.toNat * 256 + t.toNat * 16))
  | .breg g a b => some (BitVec.ofNat 32 (3221225472 + g.toNat * 8388608 + a.toNat * 262144 + b.toNat * 8192))
  | .cbld g a c => some (BitVec.ofNat 32 (3221225488 + g.toNat * 8388608 + a.toNat * 262144 + c.toNat * 256))
  | .tbld g a b c t => some (BitVec.ofNat 32 (3221225504 + g.toNat * 8388608 + a.toNat * 262144 + b.toNat * 8192 + c.toNat * 256 + t.toNat))
  | .lkz g => some (BitVec.ofNat 32 (3221225520 + g.toNat * 8388608))
  | .lka g b j => some (BitVec.ofNat 32 (3288334336 + g.toNat * 8388608 + b.toNat * 8192 + j.toNat * 256))
  | .lkab g a b c t => some (BitVec.ofNat 32 (3288334352 + g.toNat * 8388608 + a.toNat * 262144 + b.toNat * 8192 + c.toNat * 256 + t.toNat))
  | .lkx g a v t => some (BitVec.ofNat 32 (3288334368 + g.toNat * 8388608 + a.toNat * 262144 + v.toNat * 256 + t.toNat))
  | .bdot a b c => some (BitVec.ofNat 32 (3355443200 + a.toNat * 262144 + b.toNat * 8192 + c.toNat * 256))
  | .baxpy a b c => some (BitVec.ofNat 32 (3355443216 + a.toNat * 262144 + b.toNat * 8192 + c.toNat * 256))
  | .bcopy a c => some (BitVec.ofNat 32 (3355443232 + a.toNat * 262144 + c.toNat * 256))
  | .bbit a b c o => some (BitVec.ofNat 32 (3355443248 + a.toNat * 262144 + b.toNat * 8192 + c.toNat * 256 + o.toNat))
  | .bfill b c => some (BitVec.ofNat 32 (3355443264 + b.toNat * 8192 + c.toNat * 256))
  | .bsync => some (BitVec.ofNat 32 (3355443280))
  | .cpdecl a k => some (BitVec.ofNat 32 (3489660928 + a.toNat * 65536 + k.toNat * 8))
  | .cplink j k => some (BitVec.ofNat 32 (3489660929 + j.toNat * 128 + k.toNat * 8))
  | .cpstore d a b k => some (BitVec.ofNat 32 (3489660930 + d.toNat * 2097152 + a.toNat * 65536 + b.toNat * 2048 + k.toNat * 8))
  | .cpwaitR a k => some (BitVec.ofNat 32 (3489660931 + a.toNat * 65536 + k.toNat * 8))
  | .cpwaitV a s k => some (BitVec.ofNat 32 (3489660932 + a.toNat * 65536 + s.toNat * 128 + k.toNat * 8))
  | .cpcancel k => some (BitVec.ofNat 32 (3489660933 + k.toNat * 8))
  | .srd d k => some (BitVec.ofNat 32 (3489660934 + d.toNat * 2097152 + k.toNat * 8))
  | .savail d k => some (BitVec.ofNat 32 (3489660935 + d.toNat * 2097152 + k.toNat * 8))
  | .cflush a b i => some (BitVec.ofNat 32 (3556769792 + a.toNat * 65536 + b.toNat * 2048 + i.toNat * 4))
  | .cinval a b => some (BitVec.ofNat 32 (3556769793 + a.toNat * 65536 + b.toNat * 2048))
  | .czero a b => some (BitVec.ofNat 32 (3556769794 + a.toNat * 65536 + b.toNat * 2048))
  | .cseal a b => some (BitVec.ofNat 32 (3556769795 + a.toNat * 65536 + b.toNat * 2048))
  | .tap s b m t => some (BitVec.ofNat 32 (3623878656 + s.toNat * 65536 + b.toNat * 2048 + m.toNat * 256 + t.toNat * 16))
  | .tapend a => some (BitVec.ofNat 32 (3623878657 + a.toNat * 65536))
  | .tapsteer d b m t => some (BitVec.ofNat 32 (3623878658 + d.toNat * 2097152 + b.toNat * 2048 + m.toNat * 256 + t.toNat * 16))
  | .urd d a t => some (BitVec.ofNat 32 (3690987520 + d.toNat * 2097152 + a.toNat * 65536 + t.toNat * 16))
  | .vurd d m t => some (BitVec.ofNat 32 (3690987521 + d.toNat * 2097152 + m.toNat * 256 + t.toNat * 16))
  | .vshort d s a m t => some (BitVec.ofNat 32 (3690987522 + d.toNat * 2097152 + s.toNat * 65536 + a.toNat * 2048 + m.toNat * 256 + t.toNat * 16))
  | .vaccept d a m => some (BitVec.ofNat 32 (3690987523 + d.toNat * 2097152 + a.toNat * 65536 + m.toNat * 256))
  | .scommit a => some (BitVec.ofNat 32 (3690987524 + a.toNat * 65536))
  | .ramoAdd d a b z q => some (BitVec.ofNat 32 (3758096384 + d.toNat * 2097152 + a.toNat * 65536 + b.toNat * 2048 + z.toNat * 64 + q.toNat * 32))
  | .ramoAnd d a b z q => some (BitVec.ofNat 32 (3758096385 + d.toNat * 2097152 + a.toNat * 65536 + b.toNat * 2048 + z.toNat * 64 + q.toNat * 32))
  | .ramoOr d a b z q => some (BitVec.ofNat 32 (3758096386 + d.toNat * 2097152 + a.toNat * 65536 + b.toNat * 2048 + z.toNat * 64 + q.toNat * 32))
  | .ramoXor d a b z q => some (BitVec.ofNat 32 (3758096387 + d.toNat * 2097152 + a.toNat * 65536 + b.toNat * 2048 + z.toNat * 64 + q.toNat * 32))
  | .ramoMin d a b z q => some (BitVec.ofNat 32 (3758096388 + d.toNat * 2097152 + a.toNat * 65536 + b.toNat * 2048 + z.toNat * 64 + q.toNat * 32))
  | .ramoMax d a b z q => some (BitVec.ofNat 32 (3758096389 + d.toNat * 2097152 + a.toNat * 65536 + b.toNat * 2048 + z.toNat * 64 + q.toNat * 32))
  | .ramoMinn d a b z q => some (BitVec.ofNat 32 (3758096390 + d.toNat * 2097152 + a.toNat * 65536 + b.toNat * 2048 + z.toNat * 64 + q.toNat * 32))
  | .ramoMaxn d a b z q => some (BitVec.ofNat 32 (3758096391 + d.toNat * 2097152 + a.toNat * 65536 + b.toNat * 2048 + z.toNat * 64 + q.toNat * 32))
  | .ramoSwap d a b z q => some (BitVec.ofNat 32 (3758096392 + d.toNat * 2097152 + a.toNat * 65536 + b.toNat * 2048 + z.toNat * 64 + q.toNat * 32))
  | .rfence a h => some (BitVec.ofNat 32 (3758096399 + a.toNat * 65536 + h.toNat * 128))
  | .registerWrite _ _ => none
  | .qenWrite _ => none
  | .lineMonitorFire _ => none
  | .startRecordAdmission _ => none
  | .laneGrant _ => none
  | .granuleZeroed _ _ => none
  | .completionWrite _ => none
  | .hostEventPost => none
  | .hostEventRetry => none
  | .answerResume _ => none
  | .answerKill _ => none
  | .answerAdmit _ _ => none
  | .answerReject _ _ => none
  | .answerProceed _ _ => none
  | .trapDelivery _ _ _ => none
  | .preemption _ => none
  | .strandResume _ => none
  | .timerTrap _ => none
  | .idleDeadline _ => none
  | .waitTimeout _ => none
  | .storePerformed _ _ => none
  | .readQueueWriteback _ => none
  | .tableWalk _ _ _ => none
  | .vqGroupWrite _ _ => none
  | .vqEntryRetire _ => none
  | .bankEntryComplete _ => none
  | .berrWrite _ _ => none
  | .cacheFill _ _ => none
  | .cacheEviction _ => none
  | .seal _ => none
  | .keyRotation _ => none
  | .ddrldWrite _ => none
  | .refresh _ => none
  | .activationCountMitigation _ => none
  | .patrolScrub _ _ => none
  | .centreVisit _ => none
  | .stripFetch _ _ => none
  | .writeOperationReleased _ _ => none
  | .writeOperationVisible _ _ _ => none
  | .slotDrained _ _ => none
  | .sqmWrite _ _ => none
  | .trswWrite _ => none
  | .sucWrite _ => none
  | .portEnable _ => none
  | .trainingComplete _ _ => none
  | .trainingTimeout _ => none
  | .linkErrorDetected _ => none
  | .retrainComplete _ => none
  | .retrainTimeout _ => none
  | .linkCalibration _ => none
  | .flitReceive _ _ _ => none
  | .remoteRequestArrival _ _ _ _ _ _ _ _ _ => none
  | .remoteCompletionArrival _ _ _ _ => none
  | .remoteRefusalArrival _ _ => none
  | .tagResend _ _ => none
  | .fltoExpiry _ _ => none
  | .rdmaWriteInbound _ _ _ _ => none
  | .rdmaReadInbound _ _ _ => none
  | .roceUnsupportedRequest _ => none
  | .outboundAck _ => none
  | .cnpReceive _ => none
  | .ptpMessage _ => none
  | .deviceReset => none
  | .svstartGo _ => none
  | .keytabWrite _ => none
  | .attestationRequest _ => none
  | .telemetrySample => none
  | .thermalStep _ _ => none
  | .powerCapStep _ => none
  | .ictlReqWrite _ _ => none
  | .ictlOppWrite _ _ => none
  | .operatingPointChange _ => none
  | .islandGate _ => none
  | .islandWake _ => none
  | .wordsThatAreNotInstructions _ => none
  | .loadPerformed _ _ => none
  | .accessFailure _ _ _ _ => none
  | .hostReadResponse _ _ => none
  | .uncontainedHardwareError _ => none
  | .ddrldReloadComplete => none
  | .answerWithoutSubject => none

/-- The word of an instruction as a number; zero for a step or event. -/
def wordOf (i : Instr) : Nat := ((encode i).getD 0).toNat

/-- The instruction that the decoder reads from a word given by the opcode table's bits: every row is one 32-bit word, stored
little-endian (R35); bits above the row's are zero. -/
def decodeTableWord (nbits w : Nat) : Option Instr :=
  match decode (BitVec.ofNat 32 (w % 2 ^ nbits)) with
  | .ok i => some i
  | .error _ => none

end Sys2Proof
end

