-- ==== Sys2Proof/Machine/Sm3.lean ====
section
/-! DEFINITION. The hash SM3 (R2, R69, R383, R476): the standard's compression function over 512-bit blocks. The
constants and the message schedule are those of the published standard (log 6, PRESUMED). -/

namespace Sys2Proof.Machine

/-- The padded message, as bytes (the standard's padding: a one bit, zeros, the bit length in 64 bits). -/
def sm3Pad (m : List Byte) : List Byte :=
  let n := m.length
  let z := (119 - n % 64) % 64
  m ++ [0x80#8] ++ List.replicate z 0#8 ++ (bytesLE 8 (8 * n)).reverse

/-- The 32-bit big-endian words of a byte list; the fuel bounds their number. -/
def sm3Words : Nat → List Byte → List Word
  | 0, _ => []
  | n + 1, a :: b :: c :: d :: r => BitVec.ofNat 32 (ofBytesBE [a, b, c, d]) :: sm3Words n r
  | _ + 1, _ => []

/-- The permutations P0 and P1 of the standard. -/
def sm3P0 (x : Word) : Word := x ^^^ x.rotateLeft 9 ^^^ x.rotateLeft 17
def sm3P1 (x : Word) : Word := x ^^^ x.rotateLeft 15 ^^^ x.rotateLeft 23

/-- Message expansion: `w` holds the words so far, newest first. -/
def sm3Expand : Nat → List Word → List Word
  | 0, w => w
  | n + 1, w =>
    let g := fun k => w.getD k 0
    sm3Expand n ((sm3P1 (g 15 ^^^ g 8 ^^^ (g 2).rotateLeft 15) ^^^ (g 12).rotateLeft 7 ^^^ g 5) :: w)

/-- The eight chaining words. -/
structure Sm3St where
  a : Word
  b : Word
  c : Word
  d : Word
  e : Word
  f : Word
  g : Word
  h : Word
deriving DecidableEq, Repr

/-- One round; `j` is the round number, `w` and `w4` are W[j] and W[j + 4]. -/
def sm3Round (j : Nat) (w w4 : Word) (s : Sm3St) : Sm3St :=
  let t : Word := if j < 16 then 0x79CC4519 else 0x7A879D8A
  let a12 := s.a.rotateLeft 12
  let ss1 := (a12 + s.e + t.rotateLeft (j % 32)).rotateLeft 7
  let ss2 := ss1 ^^^ a12
  let ff := if j < 16 then s.a ^^^ s.b ^^^ s.c else (s.a &&& s.b) ||| (s.a &&& s.c) ||| (s.b &&& s.c)
  let gg := if j < 16 then s.e ^^^ s.f ^^^ s.g else (s.e &&& s.f) ||| (~~~s.e &&& s.g)
  let tt1 := ff + s.d + ss2 + (w ^^^ w4)
  let tt2 := gg + s.h + ss1 + w
  { a := tt1, b := s.a, c := s.b.rotateLeft 9, d := s.c, e := sm3P0 tt2, f := s.e, g := s.f.rotateLeft 19, h := s.g }

/-- The rounds from number `j` over the remaining expanded words. -/
def sm3Rounds : Nat → Nat → List Word → Sm3St → Sm3St
  | 0, _, _, s => s
  | n + 1, j, w :: r, s => sm3Rounds n (j + 1) r (sm3Round j w (r.getD 3 0) s)
  | _ + 1, _, [], s => s

/-- The compression function: one block of 16 words. -/
def sm3Block (v : Sm3St) (blk : List Word) : Sm3St :=
  let w := (sm3Expand 52 blk.reverse).reverse
  let s := sm3Rounds 64 0 w v
  { a := s.a ^^^ v.a, b := s.b ^^^ v.b, c := s.c ^^^ v.c, d := s.d ^^^ v.d,
    e := s.e ^^^ v.e, f := s.f ^^^ v.f, g := s.g ^^^ v.g, h := s.h ^^^ v.h }

/-- All blocks in order; the fuel is the number of blocks. -/
def sm3Blocks : Nat → Sm3St → List Word → Sm3St
  | 0, v, _ => v
  | n + 1, v, w => sm3Blocks n (sm3Block v (w.take 16)) (w.drop 16)

/-- SM3 of a byte string, as a 256-bit number whose most significant byte is the digest's first byte. -/
def sm3 (m : List Byte) : BitVec 256 :=
  let p := sm3Pad m
  let w := sm3Words (p.length / 4) p
  let s := sm3Blocks (p.length / 64)
    { a := 0x7380166F, b := 0x4914B2B9, c := 0x172442D7, d := 0xDA8A0600,
      e := 0xA96F30BC, f := 0x163138AA, g := 0xE38DEE4D, h := 0xB0FB0E4E } w
  s.a ++ s.b ++ s.c ++ s.d ++ s.e ++ s.f ++ s.g ++ s.h

/-- Extends a measurement register by a digest (R478). -/
def extendMeas (m d : BitVec 256) : BitVec 256 := sm3 ((bytesLE 32 m.toNat).reverse ++ (bytesLE 32 d.toNat).reverse)

end Sys2Proof.Machine
end

