-- ==== Sys2Proof/Config.lean ====
section
/-! DEFINITION. What one S9 package fixes, and the free values: constants without a body, whose value nothing in
Lean can see. Each free value stands for a value the spec leaves open (R13); the assumption log names each. -/

namespace Sys2Proof.Config

/-- The core cycles that pass beyond one between two steps of the machine (free; log 3). -/
opaque cycleAdvance : Nat → BitVec 16

/-- The nanoseconds of `TIME` that pass between two steps of the machine, at the slew in force (free; log 3). -/
opaque timeAdvance : Nat → Int → BitVec 16

/-- The check bits of a word under the part's check matrix (free; R316; log 8). -/
opaque checkBits : BitVec 256 → BitVec 16

/-- `SYN` of `BERR`: the syndrome of the 272 stored bits of an uncorrectable word (free and not zero where used; R318; log 8). -/
opaque syndrome : BitVec 272 → BitVec 16

/-- What becomes of a word whose error lies outside the classes of R316, from its stored bits: reported uncorrectable (0), corrected (1),
or passed unreported; and the word that it is corrected to (free; log 8). -/
opaque eccClass : BitVec 272 → BitVec 2
opaque eccWord : BitVec 272 → BitVec 256

/-- A byte of a word that cannot be read, where R388 names no outcome for the reader: no agent receives the byte itself (free; R387; log 58). -/
opaque unreadable : Nat → Nat → BitVec 8

/-- `DETAIL` of a boot ROM verification that fails (free; R476; log 19). -/
opaque bootDetail : BitVec 32

/-- The gang number the Ford gives a gang, before it is made unlike every live one (free; R123; log 9). -/
opaque gangNumber : Nat → BitVec 32

/-- The digest of the machine firmware in module flash (free; R476, R478; log 19). -/
opaque firmwareDigest : BitVec 256

/-- The SM3 digest of the device configuration that a report carries, and the fused serial number (free; R480; log 19). -/
opaque configHash : BitVec 256
opaque serial : BitVec 128

/-- The device key's private number, which machine firmware derives at each boot, and the number that one signature takes (free; R480; log 19). -/
opaque deviceKey : BitVec 256
opaque signNonce : Nat → BitVec 256

/-- The fused SM3 digest of the root key (free; R476; log 19). -/
opaque rootDigest : BitVec 256

/-- The digests of the device configuration (1) and the supervisor firmware (2) where module flash does not give their bytes, and the digest that
machine firmware has under a number (free; R478; log 19). -/
opaque flashDigest : Nat → BitVec 256
opaque measured : BitVec 64 → BitVec 256

end Sys2Proof.Config
end

