-- ==== Sys2Proof/Machine/State.lean ====
section
/-! DEFINITION. The state of one S9 package: every piece of state the spec names, as plain data, and the state right
after device reset. Control registers are kept under their numbers (R46). -/

namespace Sys2Proof.Machine

/-- The reasons the machine can stop with a fault. -/
inductive Fault where
  /-- A device IO register that no chapter assigns is accessed (R73: assigned by the chapters that own them; none is).
  Raised by every access through an IO leaf outside the assigned registers. Safe: nothing is claimed of such a run. -/
  | unassignedDevice
  /-- Package power has been removed (R474), and nothing runs before a device reset. Raised by a step of a package without power. Safe. -/
  | powerRemoved
deriving DecidableEq, Repr

/-- The reasons a step can be refused. -/
inductive Refusal where
  /-- An instruction that has no meaning yet, by its mnemonic. Raised by the dispatch only. Safe. -/
  | notModelled (mnemonic : String)
deriving DecidableEq, Repr

/-- Whether a context holds a strand, and whether that strand may issue (R124). -/
inductive Run where
  /-- No strand: the context is free. -/
  | free
  /-- The strand issues its next instruction when its turn comes. -/
  | run
  /-- Asleep in `WAITEQ` or `WAITNE` until the monitor of the line fires or the deadline passes (R182). -/
  | waitLine (line : Nat)
  /-- Asleep in `IDLE`, until a trap or the deadline, if there is one (R158). -/
  | idle (deadline : Option Nat)
  /-- Parked for the host under an `FSPLIT` bit (R27, R131). -/
  | parked (bit : Nat)
deriving DecidableEq, Repr, Inhabited

/-- One entry of the synchronising read queue (R167, R169). -/
structure ReadEntry where
  dst : Nat
  /-- The `seq` of the vector-queue entry that produces it. -/
  src : Nat
  cpy : Nat
  cv : Bool
  /-- The value, once produced (it then waits for its write-back). -/
  val : Option Dword
deriving DecidableEq, Repr, Inhabited

/-- Where an access is performed (R91). -/
inductive Place where
  /-- WB stack DRAM, at the home quadrant. -/
  | home
  /-- BR stack DRAM, at the bank. -/
  | bank
  /-- PT stack DRAM, at the home quadrant, for tap-unit reads. -/
  | table
  /-- The local store of a cluster. -/
  | localStore
  /-- A device IO register. -/
  | io
  /-- Another package, under the leaf's type. -/
  | remote (pkg : Nat)
  /-- Host memory, by a connection. -/
  | host (conn : Nat)
deriving DecidableEq, Repr, Inhabited

/-- A scalar store that is issued but not yet performed (R139, R154). -/
structure StoreEntry where
  pa : Nat
  place : Place
  size : Nat
  val : Nat
  dom : Nat
  va : Nat
  /-- A release store (R101). -/
  rel : Bool
  /-- The order of issue among the strand's accesses. -/
  seq : Nat
deriving DecidableEq, Repr, Inhabited

/-- A scalar load or atomic that is issued but not yet performed (R144, R99). -/
structure LoadEntry where
  pa : Nat
  place : Place
  size : Nat
  zext : Bool
  dst : Nat
  cpy : Option Nat
  /-- An atomic: its operation, its operand and its expected value (R173). -/
  amo : Option (Nat × Nat × Nat)
  dom : Nat
  va : Nat
  seq : Nat
  /-- The instruction's address, and the latch that it has consumed (R49). -/
  pc : Nat := 0
  latch : Word := 0
  /-- The value that the location had before the final read of the plain wait just before it, where the load may be performed before that
  read (R99, R182, R192). -/
  old : Option Nat := none
deriving DecidableEq, Repr, Inhabited

/-- A translation held by a TLB (R84, R85). -/
structure TlbEntry where
  unit : Nat
  asid : Nat
  base : Nat
  size : Nat
  home : Nat
  /-- The page lies in a global window (R72). -/
  glob : Bool
  pa : Nat
  mt : Nat
  /-- Bits 0 to 3: `RD`, `WR`, `EX`, `US`. -/
  perm : Nat
deriving DecidableEq, Repr, Inhabited

/-- A trap: its cause, the value of `EVAL`, the cause-specific words, the extension of the record, and, for a trap found by
a vector-queue entry, the entry's address (R130 to R132). -/
structure Trap where
  cause : Nat
  eval : Nat
  w0 : Nat := 0
  w1 : Nat := 0
  w2 : Nat := 0
  w3 : Nat := 0
  ext : List Nat := []
  entry : Option Nat := none
  /-- The address the cause names, where it is not the program counter's; with the latch that the instruction there has consumed (R49), and its
  order of issue. -/
  epc : Option Nat := none
  latch : Option Word := none
  seq : Nat := 0
deriving DecidableEq, Repr, Inhabited

/-- A vector memory element that is performed beyond the progress index (R201, R205): its result for register `reg` at width `w` is held
in the lane; a width of 0 is a store's or an atomic's, which has no result. -/
structure HeldElem where
  elem : Nat
  reg : Nat
  w : Nat
  val : Nat
  fl : Nat
deriving DecidableEq, Repr, Inhabited

/-- An element of an unordered access that has begun and is not yet performed, while a higher one has been (R201, R205). -/
structure BegunElem where
  elem : Nat
  /-- 0 a load, 1 a store, 2 to 10 the atomics in the order of R171. -/
  op : Nat
  reg : Nat
  /-- Its bytes, cut at 32-byte words: physical address, place and length. -/
  parts : List (Nat × Place × Nat)
  val : Nat
  size : Nat
  dom : Nat
deriving DecidableEq, Repr, Inhabited

/-- One entry of the vector queue: what it captured at commit, and its progress (R18, R132, R200). -/
structure VEntry where
  /-- The instruction's address. -/
  addr : Nat
  word : Word
  /-- The lent prefix fields: bits [25:0] of the `PFX` word with the valid bit 31, or zero (R51). -/
  lent : Word
  /-- The progress index. -/
  p : Nat
  vl : Nat
  op1 : Dword
  op2 : Dword
  tl : Nat
  vstart : Nat
  /-- The entry has fixed its count (R259). -/
  fixed : Bool
  /-- The enabled floating-point flags its elements have raised, and 64 × (the lowest element that raised one, plus one) (R208). -/
  flags : Nat
  /-- Its last step has been made: its scalar result and its traps are done, and it only has to retire. -/
  finished : Bool
  /-- The stream claim of a `VLDS`: its first element (R361, R362). -/
  claim : Option Nat
  /-- `VLMAX.LW` at commit, which sets the width of a `VAMO` (R275); the record does not hold it. -/
  lw : Option Nat
  /-- The bank-queue entry number behind an `LKX` marker (R338). -/
  marker : Option Nat
  /-- The order of commit among the strand's accesses. -/
  seq : Nat
  /-- It consumes elements of a stream, or results of an engine that stood before it in the queue (R108, R440). -/
  acq : Bool := false
  /-- What its transactions to other packages are known by; an image entry that comes back unaltered keeps it. -/
  key : Nat := 0
  /-- The progress index from which it started or resumed (R262). -/
  p0 : Nat := 0
  /-- Elements performed beyond the progress index, and elements begun before one of them (R201, R205). -/
  held : List HeldElem := []
  begun : List BegunElem := []
  /-- The translations it has made: the elements of one instruction that lie on one page use one (R86, R88). -/
  pages : List TlbEntry := []
  /-- Its probe pass or its header pass has finished (R89, R268, R272). -/
  probed : Bool := false
  /-- The lowest element whose translation failed in the probe pass, with its trap (R89). -/
  faultAt : Option (Nat × Trap) := none
  /-- The blocks that a header pass has noted: address, header and first element (R272). -/
  blks : List (Nat × Nat × Nat) := []
deriving DecidableEq, Repr, Inhabited

/-- A matrix accumulator element: the exact sum and its poison tags (R281). -/
structure XElem where
  val : Int
  tag : Nat
deriving DecidableEq, Repr, Inhabited

/-- One row's tap state: its crossing count, its selection and its eight scores (R408). -/
structure TapRow where
  count : Nat
  sel : Nat
  scores : Tab XElem
deriving DecidableEq, Repr, Inhabited

/-- A LINKERR that is pending for the strand's next `RFENCE` or `STOP` (R461). -/
structure LinkErr where
  va : Nat
  w0 : Nat
  home : Nat
  tag : Nat
  w3 : Nat
deriving DecidableEq, Repr, Inhabited

/-- An error record a bank-queue entry has left for the strand (R343, R346). -/
structure BankErr where
  tag : Nat
  /-- The entry's instruction address. -/
  pc : Nat
  /-- The record's cause is FPX; otherwise BANKERR. -/
  fpx : Bool
  /-- The lowest bank with an error, and how many. -/
  low : Nat
  banks : Nat
  /-- The enabled flags of FPX. -/
  flags : Nat
  merged : Bool
  /-- The banks that its entries name. -/
  names : List Nat
  /-- The order of commit of its entry among the strand's accesses. -/
  seq : Nat := 0
deriving DecidableEq, Repr, Inhabited

/-- What a dot product has met so far (R340). -/
structure Dot where
  pz : Bool := false
  nan : Bool := false
  inv : Bool := false
  sig : Bool := false
  pinf : Bool := false
  ninf : Bool := false
  /-- The exact sum, in units of 2^−48, and whether every product so far is −0. -/
  sum : Int := 0
  neg0 : Bool := true
deriving DecidableEq, Repr, Inhabited

/-- The part of a bank-queue entry that one stack performs (R312, R313): the rows or strips it has finished, and the order in which it reached
the stack's sequencer. -/
structure BankPart where
  stack : Nat
  done : Nat
  arrived : Nat
deriving DecidableEq, Repr, Inhabited

/-- One entry of the bank queue: what it captured at commit (R18, R324), and how far it has come. -/
structure BankEntry where
  /-- The bank-queue instruction tag (R315). -/
  tag : Nat
  pc : Nat
  word : Word
  op1 : Dword
  op2 : Dword
  op3 : Dword
  /-- `GBk` and `GSk` of the region named, `NBLEN`, `NBRS` and `RM`. -/
  gb : Dword
  gs : Dword
  nblen : Nat
  nbrs : Nat
  rm : Nat
  /-- The physical address of V0 at this commit (R329). -/
  pa0 : Nat
  /-- The physical pieces of each operand, in the order a, b, c: (address, bytes). -/
  ops : List (List (Nat × Nat))
  /-- It was complete at commit (R328, R339). -/
  early : Bool
  /-- The pages that its translations at commit have used (R85, R325). -/
  pages : List TlbEntry := []
  /-- `EBASE` and `LANES`, for an `LKX` (R324). -/
  ebase : Nat := 0
  lanes : Nat := 0
  /-- The order of commit among the strand's accesses. -/
  seq : Nat := 0
  /-- The operand that `CBLD`, `TBLD` or `LKAB` has read: its bytes, and the parts that lay in uncorrectable words, by offset and length. -/
  data : Option (Nat × List (Nat × Nat)) := none
  /-- Its parts that have reached their sequencers. -/
  parts : List BankPart := []
  /-- The banks at which it has found uncorrectable words, the flags it has raised, and the dot product so far. -/
  err : List Nat := []
  fl : Nat := 0
  dot : Dot := {}
  /-- It has begun: its operand is being read, or a bank has served it (R314). -/
  begun : Bool := false
  /-- Every bank has finished: its flags and records have been left (R314). -/
  complete : Bool := false
deriving DecidableEq, Repr, Inhabited

/-- A tag of the shared cache with its line's bytes (R381, R387). -/
structure CLine where
  /-- The 64 bytes the line reads as. -/
  data : Line
  /-- 1 U unsealed, 2 S sealed, 3 Z canonical zero (a line in state I is not listed). -/
  st : Nat
  dirty : Bool
  dom : Nat
  ent : Nat
  wt : Nat
  /-- The two marks `UE`: bit i is half i. -/
  ue : Nat
  /-- The order of the last use, for least-recently-used replacement. -/
  used : Nat
deriving DecidableEq, Repr, Inhabited

/-- What a plain wait leaves for the load that follows it at once (R99, R182): the load's address, the register of the wait's result, and memory as
it was when the wait began. -/
structure Behind where
  next : Dword
  reg : Nat
  mem : Mem
  lines : Tab CLine
deriving DecidableEq, Repr, Inhabited

/-- One strand: everything R139, R195 and the later chapters give a strand context. -/
structure Strand where
  run : Run := .free
  /-- The program counter (R35). -/
  pc : Dword := 0
  /-- The current privilege level: 0 user, 1 supervisor, 2 machine (R128). -/
  pl : BitVec 2 := 0
  /-- `x1` to `x31`; `x0` is never listed (R139). -/
  x : Tab Dword := []
  /-- The prefix latch (R49). -/
  latch : Word := 0
  /-- The per-strand control registers, under their numbers (R140, R197, R282, R326, R374, R393, R417, R427, R467, R128). -/
  csr : Tab Dword := []
  readQ : List ReadEntry := []
  stores : List StoreEntry := []
  loads : List LoadEntry := []
  /-- The core cycle at which the wait in progress times out (R182). -/
  deadline : Option Nat := none
  /-- The plain wait that it is in, or has just completed. -/
  behind : Option Behind := none
  /-- The strand has just returned from a trap, and its next instruction consumes `FRTAG` (R461). -/
  resumed : Bool := false
  /-- A TIMER trap is pending (R142). -/
  timer : Bool := false
  /-- The gang's number, for a strand the Ford started. -/
  gang : Option Nat := none
  /-- The trap record of the pool that it holds; none for the boot context (R120, R477). -/
  pool : Option Nat := none
  /-- `LANES` (R193, R198). -/
  lanes : Nat := 0
  /-- Lanes a waiting `VGRANT` has asked for, and the register of its result (R221, R225). -/
  want : Option (Nat × Nat) := none
  /-- After a `YIELD`: the contexts that are to issue first, and the core cycle before which the strand is not ready (R159). -/
  yielded : Option (List Nat × Nat) := none
  v : Tab VReg := []
  m : Tab MReg := []
  h : Tab (BitVec 8192) := []
  /-- Tile elements, under tile × 4096 + row × 64 + column (R280). -/
  tiles : Tab XElem := []
  vq : List VEntry := []
  bankQ : List BankEntry := []
  bankTag : Nat := 0
  bankErrs : List BankErr := []
  /-- The address of the `BSYNC` that has taken its bank-queue entry and waits (R345). -/
  bsync : Option Dword := none
  /-- Rows of tap state (R408). -/
  rows : Tab TapRow := []
  /-- Uniforms drawn per row: `UC` (R426). -/
  uc : Tab Nat := []
  linkErrs : List LinkErr := []
  /-- Traps of accesses that were performed after their instructions, oldest first: BANKERR of a load or an atomic (R388), LINKERR of a
  store (R461). -/
  late : List Trap := []
  /-- What the engine still knows of the vector-queue entries that a trap has put into an image, latest image first, with the order number of the
  trap: an entry that comes back unaltered keeps its stream claim, its marker and the flags it has raised (R207, R208). -/
  shadow : List (Nat × List VEntry) := []
  /-- Flags that its engines have raised while it was pre-empted (R358). -/
  away : Nat := 0
deriving DecidableEq, Repr, Inhabited

/-- A tap plan bound at admission, with what the verified header of its probe image says (R404, R406). -/
structure TapBind where
  /-- The word that `TPLAN` loads. -/
  word : Nat
  /-- The physical address of the plan's first byte, and of the page that follows its first. -/
  plan : Nat
  next : Nat
  /-- The virtual address of the probe image, and its header's fields. -/
  img : Nat
  dim : Nat
  ptype : Nat
  stype : Nat
  an : Int
  proff : Nat
  thoff : Nat
  stoff : Nat
deriving DecidableEq, Repr, Inhabited

/-- A gang: what the Ford knows of one admitted start record (R120 to R126), with its barrier (R186). -/
structure Gang where
  queue : Nat := 0
  ticket : Nat := 0
  /-- 16 until it is placed. -/
  cluster : Nat := 16
  size : Nat := 0
  /-- Lanes per strand, rounded up. -/
  lanes : Nat := 0
  cls : Nat := 0
  /-- The core cycle of admission, as the Ford's island counts them (R121). -/
  age : Nat := 0
  lsBase : Nat := 0
  lsSize : Nat := 0
  asid : Nat := 0
  ddom : Nat := 0
  vceil : Nat := 0
  args : Dword := 0
  entry : Dword := 0
  compl : Dword := 0
  utag : Dword := 0
  evt : Bool := false
  /-- The contexts reserved for it, in rank order, and their trap records. -/
  ctxs : List Nat := []
  recs : List Nat := []
  /-- The address of record 0 of the pool at its placement (R129). -/
  recBase : Nat := 0
  started : Bool := false
  /-- Bit k: the member of rank k has stopped. -/
  stopped : Nat := 0
  /-- The `ECAUSE` of the trap that led to a kill. -/
  killed : Option Nat := none
  /-- An admission that failed: `STATUS` and `DETAIL` of its completion (R118, R127). -/
  failed : Option (Nat × Nat) := none
  /-- The gang barrier's P, A and W. -/
  barP : BitVec 32 := 0
  barA : BitVec 16 := 0
  barW : BitVec 16 := 0
  /-- The tap plan bound at admission. -/
  tapPlan : Option TapBind := none
  /-- Members that have been killed while accesses or bank-queue entries of theirs were unfinished: these go on (R126). -/
  rest : List Strand := []
deriving DecidableEq, Repr, Inhabited

/-- The state of a granule of eight lanes (R122); strands are named by their owner numbers. -/
inductive Gran where
  | free
  | held (s : Nat)
  | lent (q p : Nat)
  | stale (p : Nat)
  /-- Being zeroed; then Free, or Held by the strand named. -/
  | zeroing (next : Option Nat)
deriving DecidableEq, Repr, Inhabited

/-- The Ford's copy of a queue descriptor, kept while the queue is enabled (R113, R114). -/
structure Queue where
  base : Nat
  logn : Nat
  kind : Nat
  pmax : Nat
  aslo : Nat
  ashi : Nat
  ddlo : Nat
  ddhi : Nat
  head : Nat
  tail : Nat
  /-- The record in the head slot has failed, and its completion is being written (R127). -/
  taken : Bool
deriving DecidableEq, Repr, Inhabited

/-- An event record waiting for a free slot of the host event queue (R134): bytes 0x08 to 0x3F as fields. -/
structure HostEvent where
  kind : Nat
  queue : Nat
  subject : Nat
  ecause : Nat
  eval : Nat
  trec : Nat
deriving DecidableEq, Repr, Inhabited

/-- A pre-empted strand (R135, R136). -/
structure Preempted where
  strand : Strand
  cluster : Nat
  rank : Nat
  /-- The granules that it held, in ascending order (R122). -/
  grans : List Nat := []
  /-- It was parked, and the host has answered RESUME: it goes on as by `ERET` (R134, R157). -/
  eret : Bool := false
deriving DecidableEq, Repr, Inhabited

/-- A data entry of the shared cache (R381). -/
structure CEntry where
  data : Line
  c : Nat
  ix : Bool
  /-- The 64-bit hash H of its bytes under its key (R385). -/
  hash : Nat
  /-- The key identity: domain (65,536 for the public key) and generation. -/
  key : Nat × Nat
  quad : Nat
deriving DecidableEq, Repr, Inhabited

/-- A domain's key as the quadrants hold it (R383). -/
structure DomKey where
  valid : Bool
  pub : Bool
  rotp : Nat
  gen : Nat
  key : BitVec 128
  /-- `TIME` at which the rotation period ends. -/
  due : Nat
  /-- A rotation waits for the host (R392). -/
  wait : Bool
deriving DecidableEq, Repr, Inhabited

/-- A half of a strip buffer (R361). -/
inductive Half where
  | empty
  | filling (strip : Nat)
  | full (strip : Nat) (data : BitVec 262144)
  | failed (strip : Nat)
deriving DecidableEq, Repr, Inhabited

/-- An operation handed to a write stream (R363). -/
structure CopyOp where
  ticket : Nat
  src : Nat
  n : Nat
  /-- The order of its `CPSTORE` among the strand's accesses (R105). -/
  seq : Nat := 0
  released : Bool
  /-- How far its last byte has come: past `level` streams of the chain, and up to byte `mark` of the next one's input. -/
  level : Nat
  mark : Nat
deriving DecidableEq, Repr, Inhabited

/-- A failed access that a Faulted stream holds (R372). -/
structure CopyFail where
  reason : Nat
  w1 : Nat
  va : Nat
  w3 : Nat
  /-- A destination write of a write stream. -/
  out : Bool := false
deriving DecidableEq, Repr, Inhabited

/-- A stream slot of a copy engine (R355, R357, R361, R363). -/
structure Slot where
  /-- The strand's owner number and its stream register, while bound. -/
  owner : Option (Nat × Nat)
  draining : Bool
  write : Bool
  xf : Nat
  mfmt : Nat
  etype : Nat
  strip : Nat
  len : Nat
  src : Nat
  dst : Nat
  runb : Nat
  rnd : Nat
  lim : Nat
  /-- The pointer of a gather whose bytes are being read (R358). -/
  ptr : Nat
  asid : Nat
  pl : Nat
  lspart : Nat
  ddom : Nat
  /-- The slot that feeds this one, and the slot this one feeds. -/
  up : Option Nat
  down : Option Nat
  half0 : Half
  half1 : Half
  /-- Read stream: strips made available; elements claimed; elements released of the strip in each half (R362). -/
  strips : Nat
  claimed : Nat
  rel0 : Nat := 0
  rel1 : Nat := 0
  /-- Write stream: tickets given out; elements handed; operations not yet visible, oldest first. -/
  tickets : Nat
  pos : Nat
  ops : List CopyOp
  /-- Input bytes taken; bytes that are taken or made and not passed on; output bytes made. -/
  fed : Nat
  inbuf : List Byte
  written : Nat
  /-- Write stream: output bytes that are not yet written, and how many have been (R363, R374). -/
  outbuf : List Byte := []
  sent : Nat := 0
  /-- The output bytes of the destination write in progress, if there is one. -/
  sending : Nat := 0
  /-- The order of its `CPDECL` among the strand's accesses (R105). -/
  seq : Nat := 0
  /-- `FL`, and above it the flags of the strip or record in progress. -/
  fl : Nat
  fault : Option CopyFail
  /-- An instruction that has reached the failure has made the engine retry the held access, and waits for what comes of it (R372). -/
  retry : Bool := false
deriving DecidableEq, Repr, Inhabited

/-- A bank's own state (R305, R318): its eight table slots and 2,048 accumulators. -/
structure Bank where
  /-- Table entries, under slot × 256 + index: FX24 values with a poison bit 24. -/
  tables : Tab Nat
  /-- Accumulators, with poison bit 64. -/
  acc : Tab Int
  poison : Tab Bool
  /-- `BERR` (R318). -/
  berr : BitVec 128
  /-- Held by a pass or a near-bank instruction: the rows or strips that it has finished (R313). -/
  held : Option Nat := none
  /-- The last centre visit while it is held: after how many rows, and the row that it serves, once one is served (R313). -/
  visit : Option (Nat × Option Nat) := none
deriving DecidableEq, Repr, Inhabited

/-- What leaves the package: messages to other packages, to the host and to the management controller. -/
inductive OutMsg where
  /-- A request on a port: with the leaf's memory type and, for writes and atomics, the dedup domain (R453). -/
  | request (port home tag op pa mt dom size data be : Nat)
  | completion (home tag err data : Nat)
  | refusal (home tag : Nat)
  /-- The flit layer's acknowledgement of a sequence number, or its request to replay what follows it (R450). -/
  | flitAck (port seq : Nat)
  | flitNak (port seq : Nat)
  /-- An RDMA write or read of a connection, by its queue pair and Ethernet port, with the host key, at a host virtual address (R463, R464). -/
  | hostWrite (conn qpn port rkey addr size data : Nat)
  | hostRead (conn qpn port rkey addr size : Nat)
  | rdmaData (conn len data : Nat)
  | rdmaAck (conn : Nat)
  | nak (conn kind : Nat)
  | cnp (conn : Nat)
  /-- An attestation report: its bytes 0x000 to 0x18F, byte 0 lowest, and its signature (R480). -/
  | report (body sig : Nat)
deriving DecidableEq, Repr, Inhabited

/-- A fabric port (R451). -/
structure Port where
  /-- 0 Down, 1 Training, 2 Up, 3 Retrain, 4 Retrain wait, 5 Failed. -/
  st : Nat
  peer : Nat
  nrt : Nat
  rxSeq : Nat
  /-- `TIME` at which the state was entered. -/
  since : Nat
  /-- The sequence number of the last flit sent; the flits that are not acknowledged, oldest first, at most 256; and the messages that wait for
  room among them (R24, R449, R450). -/
  txSeq : Nat := 0
  replay : List (Nat × OutMsg) := []
  backlog : List OutMsg := []
  /-- The Ford island's core cycles when the port last went Up (R456). -/
  upAt : Nat := 0
  /-- Messages that accepted flits have brought and that are not yet acted on (R450). -/
  ready : Nat := 0
deriving DecidableEq, Repr, Inhabited

/-- A transaction to another package or to the host (R454, R456). -/
structure Txn where
  home : Nat
  tag : Nat
  /-- 0 read, 1 write, 2 to 10 the atomics in the order of R171, 11 compare and swap. -/
  op : Nat
  pa : Nat
  mt : Nat
  size : Nat
  data : Nat
  be : Nat
  dom : Nat
  va : Nat
  /-- The strand's owner number, and whether the access is posted. -/
  sid : Nat
  posted : Bool
  /-- 0 waiting for an Up port, 1 Sent, 2 Resent. -/
  st : Nat
  port : Nat
  /-- The core cycle at which it was sent. -/
  since : Nat
  /-- `TIME` since when it waits for an Up port (R452), if it does. -/
  waitAt : Option Nat
  /-- What it came to: none while outstanding; the error code (0 none) and the data. -/
  done : Option (Nat × Nat)
  /-- The order of its access among the strand's. -/
  seq : Nat := 0
  /-- A scalar store that its strand does not wait for: the store's address (R102), and the latch that it has consumed (R49). -/
  late : Option Nat := none
  latch : Word := 0
  /-- The elements of a vector entry that it serves, in ascending order (R454). -/
  elems : List Nat := []
deriving DecidableEq, Repr, Inhabited

/-- A slot of a home's delivery window (R457). -/
structure WinSlot where
  tag : Nat
  fin : Bool
  data : Nat
  err : Nat
deriving DecidableEq, Repr, Inhabited

/-- A request that has arrived from another package (R453, R454): an access to `size` bytes (as a power of two) at `pa`, of bank memory or not,
under the tag of its source, with the domain of its writes, its data and the bytes that it marks. -/
structure Req where
  src : Nat
  tag : Nat
  /-- 0 a read, 1 a write, 2 and above an atomic. -/
  op : Nat
  size : Nat
  pa : Nat
  br : Bool
  dom : Nat
  data : Nat
  be : Nat
deriving DecidableEq, Repr, Inhabited

/-- A message that waits in arrival order: an admitted request at its port (R453), or an inbound access of a connection (R465). -/
inductive Inbound where
  | request (port : Nat) (r : Req)
  | write (conn va data be : Nat)
  | read (conn va len : Nat)
deriving DecidableEq, Repr, Inhabited

/-- A power island (R471 to R473). -/
structure Island where
  /-- 0 On, 1 clock-gated, 2 power-gated. -/
  st : Nat
  req : Nat
  /-- The operating point in force, and that of `OPP`. -/
  opp : Nat
  oppReq : Nat
  temp : Nat
  /-- The points that R474 and R475 impose; 0 imposes none. -/
  thermal : Nat
  cap : Nat
  /-- `TIME` from which the thermal point may be lowered again (R474). -/
  stepAt : Nat := 0
deriving DecidableEq, Repr, Inhabited

/-- What the machine does next, when something outside decides: an event, or a turn of one context. -/
inductive Act where
  | event (i : Instr)
  | turn (ctx : Nat)
deriving DecidableEq, Repr

/-- Steps that the machine itself has raised: each is performed as the event of its name, oldest first, before any strand's next turn,
unless the agenda names another act first. -/
inductive Task where
  | qenWrite (v : Nat)
  | lineFire (line : Nat)
  | admission (q : Nat)
  | laneGrant (cl : Nat)
  | granuleZeroed (cl g : Nat)
  | completionWrite (gid : Nat)
  | preempt (ctx : Nat)
  | hostEventPost
  | hostEventRetry
  /-- A trap of an access that was performed after its instruction, for a strand that sleeps. -/
  | lateTrap (ctx : Nat)
  | telemetry
  /-- The head slot of the answer queue: the answer in it (R134). -/
  | answer (action qsel subject : Nat)
  | timerTrap (ctx : Nat)
  | idleDeadline (ctx : Nat)
  | waitTimeout (ctx : Nat)
  | ddrldWrite (v : Nat)
  | ddrldDone
  | keyRotation (dom : Nat)
  | slotDrained (eng k : Nat)
  | svstartGo (v : Nat)
  | keytabWrite (v : Nat)
  | ictlReq (isl req : Nat)
  | ictlOpp (isl opp : Nat)
  | opPoint (isl : Nat)
  | islandGate (isl : Nat)
  | islandWake (isl : Nat)
  | trainingTimeout (p : Nat)
  | retrainTimeout (p : Nat)
  | fltoExpiry (home tag : Nat)
  | tagResend (home tag : Nat)
  /-- A message that waits first at its port or connection, by `Inbound.lane`. -/
  | inbound (lane : Nat)
deriving DecidableEq, Repr

/-- An entry of the key table as machine firmware loaded it (R479). -/
structure KeyEntry where
  id : Nat
  x : Nat
  y : Nat
  /-- Its permitted uses. -/
  flags : Nat
deriving DecidableEq, Repr, Inhabited

/-- An image whose verification the Ford keeps (R119, R406), with the key that verified it (R479). -/
structure VImage where
  /-- Physical address of its header. -/
  hdr : Nat
  digest : Nat
  key : KeyEntry
  /-- A probe image; otherwise a kernel image. -/
  probe : Bool
  /-- The physical 64 KiB granules it covers. -/
  watch : List Nat
deriving DecidableEq, Repr, Inhabited

/-- What module flash holds for the boot (R476): machine firmware, the device configuration and supervisor firmware as bytes, the root key, and
the keys that the root key's certificate names. -/
structure Flash where
  firmware : List Byte
  config : List Byte
  supervisor : List Byte
  rootX : Nat
  rootY : Nat
  keys : List KeyEntry
deriving DecidableEq, Repr

/-- A slot held under `FSPLIT.ADM` (R27): its queue and ticket, and the gang that its record's checks have resolved (R118, R479). -/
structure HeldSlot where
  queue : Nat
  ticket : Nat
  gang : Gang
deriving DecidableEq, Repr

/-- The state of one S9 package. -/
structure State where
  /-- The bytes of stack DRAM and of the local stores, by physical address (R73). -/
  mem : Mem := []
  /-- Stack words of 32 bytes with errors, by pa / 32: which of the 272 stored bits are wrong, the word's own bits lowest (R316). `mem` holds the
  bits as stored. -/
  wordErr : Tab Nat := []
  /-- The shared cache: tags by line address, data entries, hash-index buckets (oldest first) by
  quadrant × 2^19 + bucket (R380, R381, R385). -/
  lines : Tab CLine := []
  entries : Tab CEntry := []
  buckets : Tab (List Nat) := []
  entNext : Nat := 0
  useClock : Nat := 0
  /-- `KUNSH` (R394). -/
  kunsh : Dword := 0
  /-- The domain keys the quadrants hold (R383). -/
  domKeys : Tab DomKey := []
  /-- A reload of the domain table is in progress: `DDRLD.BSY` (R394). -/
  ddrldBusy : Option Nat := none
  /-- Instruction-cache lines, by core × 2^46 + line address, each with the order of its last use (R145, R146). -/
  icache : Tab (Nat × Line) := []
  /-- The translations all TLBs hold, newest first (R84). -/
  tlb : List TlbEntry := []
  /-- The strand contexts, by cluster × 16 + core × 4 + context (R15). -/
  strands : Tab Strand := []
  preempted : List Preempted := []
  gangs : Tab Gang := []
  /-- Granules by cluster × 8 + granule; an unlisted granule is Free (R122). -/
  grans : Tab Gran := []
  /-- Package-wide control registers, under their numbers. -/
  pk : Tab Dword := []
  queues : Tab Queue := []
  /-- The full slots of enabled start and answer queues, in the order in which their full tickets were performed: the step, the queue and the
  ticket (R116). -/
  fulls : List (Nat × Nat × Nat) := []
  /-- The slots held under `FSPLIT.ADM` (R27, R118). -/
  held : List HeldSlot := []
  /-- Kept verifications, the most recently reused first. -/
  images : List VImage := []
  hostEvents : List HostEvent := []
  /-- `TIME` at which the Ford reads the host event ticket again (R134). -/
  evRetry : Option Nat := none
  /-- `QSTAT` (R129). -/
  qstat : Dword := 0
  banks : Tab Bank := []
  /-- Codebook values, under die × 256 + slot × 16 + index: CSD24 bits with a poison bit 24 (R308, R330). -/
  codebooks : Tab Nat := []
  slots : Tab Slot := []
  ports : Tab Port := []
  nextTag : Tab Nat := []
  txns : List Txn := []
  window : Tab WinSlot := []
  /-- Requests and inbound accesses that wait to be performed, in the order in which they arrived (R453, R465). -/
  inbox : List Inbound := []
  islands : Tab Island := []
  /-- The measurement registers M0 to M7 (R476, R478). -/
  meas : Tab (BitVec 256) := []
  keys : List KeyEntry := []
  /-- Telemetry counters (R481), by number. -/
  counters : Tab Nat := []
  /-- The number of the next telemetry sample, and the `TIME` at which it is due (R481). -/
  sample : Nat := 0
  sampleAt : Nat := 0
  /-- The package power of the last ten milliseconds in watts, newest first, and the cap (R475). -/
  watts : List Nat := []
  /-- `TIME` at which power is measured next (R475). -/
  wattsAt : Nat := 0
  powerCap : Nat := 2400
  /-- The average has exceeded the cap, and has not been below it since (R475). -/
  capping : Bool := false
  /-- The package has power. -/
  powered : Bool := true
  /-- The removals of power that module flash records: `TIME`, island and temperature, newest first (R474). -/
  thermalLog : List (Nat × Nat × Nat) := []
  /-- The send rate of a connection after its last CNP, in units of 2^-16 of the full rate, and the `TIME` of that CNP (R463). -/
  rates : Tab (Nat × Nat) := []
  /-- The `TIME` of the last congestion notification returned on a connection (R463). -/
  cnpAt : Tab Nat := []
  /-- The slew of `TIME` in parts per million, −1,000 to 1,000 (R466). -/
  slew : Int := 0
  /-- What module flash holds, where its bytes are given; and, where they are not, whether the machine firmware in it verifies (R476; log 19). -/
  flash : Option Flash := none
  bootOk : Bool := true
  /-- Stack-link modules that do not train with their lane repair (R304). -/
  untrained : List Nat := []
  /-- The management controller's status: the boot stage that has failed, and its `DETAIL` or the module's number (R304, R476). -/
  bootStatus : Option (Nat × Nat) := none
  /-- Core cycles of each core-clock island, by number; those of cluster c are its `CYCLE` (R141, R473). -/
  cycle : Tab Dword := []
  /-- `TIME` (R141). -/
  time : Dword := 0
  out : List OutMsg := []
  /-- The context of each core that comes first in the order of issue (R143). -/
  order : Tab Nat := []
  /-- The model's own: the context whose turn it is. -/
  cur : Nat := 0
  /-- The model's own: steps taken, which number the free values. -/
  tick : Nat := 0
  /-- The model's own: steps the machine itself has raised and not yet performed, oldest first. -/
  due : List Task := []
  /-- The model's own: what the outside and the order of performance decide comes next, first to come first. -/
  agenda : List Act := []
  /-- The model's own: false, work handed to a queue or buffer is performed within the instruction that hands it over;
  true, it stays there until its event. -/
  defer : Bool := false
deriving DecidableEq, Repr

/-- The package right after device reset (R10, R477): context 0 of core 0 of cluster 0 holds the boot context at machine level,
`MTREC` = 0, every other context is free, the boot ROM has measured the machine firmware into M0 (R478), and every register is at its
reset value. -/
def State.reset : State :=
  { strands := [(0, { run := .run, pl := 2 })], meas := [(0, extendMeas 0 Config.firmwareDigest)] }

end Sys2Proof.Machine
end

