-- ==== Sys2Proof/Machine/Base.lean ====
section
/-! DEFINITION. How a meaning is written: a computation over the state that either goes on or stops with a trap, a wait,
a fault or a refusal, keeping the state it has reached (R54). With it, the accessors of the strand whose turn it is and of
the control registers. -/

namespace Sys2Proof.Machine

/-- Why a computation does not go on. -/
inductive Stop where
  /-- The strand takes a trap. -/
  | trap (t : Trap)
  /-- The strand is not ready: it stays at its instruction, which is executed again at its next turn (R124). -/
  | wait
  | fault (f : Fault)
  | refuse (r : Refusal)
deriving DecidableEq, Repr

/-- A computation over the state. -/
abbrev M := EStateM Stop State

/-- Cause codes (R130). -/
abbrev cILL : Nat := 0x01
abbrev cPRIV : Nat := 0x02
abbrev cALIGN : Nat := 0x03
abbrev cTFAULT : Nat := 0x04
abbrev cPROT : Nat := 0x05
abbrev cVGRANT : Nat := 0x06
abbrev cVOWN : Nat := 0x07
abbrev cSYSC : Nat := 0x08
abbrev cBRK : Nat := 0x09
abbrev cFPX : Nat := 0x0A
abbrev cBANKERR : Nat := 0x0B
abbrev cCOLOC : Nat := 0x0C
abbrev cUNDERRUN : Nat := 0x0D
abbrev cSEQTRAP : Nat := 0x0E
abbrev cTAPCOV : Nat := 0x0F
abbrev cSTREAM : Nat := 0x10
abbrev cLINKERR : Nat := 0x11
abbrev cMCHK : Nat := 0x12
abbrev cTIMER : Nat := 0x13
abbrev cQUEUE : Nat := 0x14
abbrev cPREEMPT : Nat := 0x15

/-- Ends the instruction with a trap (R54). -/
def trap {α : Type} (cause eval : Nat) (w0 : Nat := 0) (w1 : Nat := 0) (w2 : Nat := 0) (w3 : Nat := 0) : M α :=
  throw (.trap { cause := cause, eval := eval, w0 := w0, w1 := w1, w2 := w2, w3 := w3 })

/-- The strand is not ready. -/
def wait {α : Type} : M α := throw .wait

/-- The strand of context `c`. -/
def State.strandAt (s : State) (c : Nat) : Strand := Tab.getD s.strands c {}

/-- The strand whose turn it is. -/
def State.st (s : State) : Strand := s.strandAt s.cur

/-- Replaces the strand of context `c`. -/
def State.setStrand (s : State) (c : Nat) (st : Strand) : State := { s with strands := Tab.set s.strands c st }

/-- Replaces the strand whose turn it is. -/
def State.setSt (s : State) (st : Strand) : State := s.setStrand s.cur st

/-- Changes the strand whose turn it is. -/
def State.mapSt (s : State) (f : Strand → Strand) : State := s.setSt (f s.st)

/-- The strand whose turn it is. -/
def getSt : M Strand := do return (← get).st

/-- Changes the strand whose turn it is. -/
def modSt (f : Strand → Strand) : M Unit := modify (fun s => s.mapSt f)

/-- The cluster of a context, and its strand core (R15). -/
def clusterOf (c : Nat) : Nat := c / 16
def coreOf (c : Nat) : Nat := c / 4

/-- The core cycles of a core-clock island (R473): of a cluster, of a quadrant (16 and above), and of the centre fabric, by which the Ford and
the fabric count (72). -/
def State.cyclesOf (s : State) (isl : Nat) : Nat := (Tab.get s.cycle isl).toNat
def State.fordNow (s : State) : Nat := s.cyclesOf 72

/-- A strand's `CYCLE` (R141). -/
def State.now (s : State) : Nat := (Tab.get s.cycle (clusterOf s.cur)).toNat

/-- The value of a scalar register; `x0` reads zero (R139). -/
def Strand.xr (st : Strand) (r : Nat) : Dword := if r = 0 then 0 else Tab.get st.x r

/-- Writes a scalar register; a write of `x0` is ignored (R139). -/
def Strand.setX (st : Strand) (r : Nat) (v : Dword) : Strand :=
  if r = 0 then st else { st with x := Tab.set st.x r v }

/-- The reset value of a per-strand control register: zero but for `TCMP` (R141) and `NBRS` (R327). -/
def crReset (n : Nat) : Dword :=
  if n = 0x807 then BitVec.allOnes 64 else if n = 0x291 then 1 else 0

/-- A per-strand control register as stored. -/
def Strand.cr (st : Strand) (n : Nat) : Dword := Tab.getD st.csr n (crReset n)

/-- Sets a per-strand control register as stored. -/
def Strand.setCr (st : Strand) (n : Nat) (v : Dword) : Strand := { st with csr := Tab.set st.csr n v }

/-- Sets a per-strand control register from a number. -/
def Strand.setCrN (st : Strand) (n v : Nat) : Strand := st.setCr n (BitVec.ofNat 64 v)

/-- The reset value of a package register: zero but for `FORDCTL` (R129) and `FLTO` (R468). -/
def pkReset (n : Nat) : Dword :=
  if n = 0x823 then 0x114 else if n = 0x853 then 100000000 else 0

/-- A package register as stored. -/
def State.pkr (s : State) (n : Nat) : Dword := Tab.getD s.pk n (pkReset n)

/-- Sets a package register as stored. -/
def State.setPk (s : State) (n : Nat) (v : Dword) : State := { s with pk := Tab.set s.pk n v }

/-- A strand's `ASID`, `DDOM`, `SID`, `VL`, `TL`, `VSTART`, `EBASE` and `FFLAGS`. -/
def Strand.asid (st : Strand) : Nat := (st.cr 0x004).toNat % 65536
def Strand.ddom (st : Strand) : Nat := (st.cr 0x380).toNat % 65536
def Strand.sid (st : Strand) : Nat := (st.cr 0x000).toNat % 4096
/-- The number that granules, stream slots and transactions know a strand by: its trap record of the pool, which is its `SID`
(R123); 4,096 for the boot context, which holds none. -/
def Strand.owner (st : Strand) : Nat := st.pool.getD 4096
/-- The number under which an entry of the strand's vector queue makes its transactions. -/
def Strand.entryOwner (st : Strand) (e : VEntry) : Nat := st.owner + 16384 * (e.key + 1)
/-- The number of the entry that is being processed, which stands in front (R202). -/
def Strand.vowner (st : Strand) : Nat := st.entryOwner (st.vq.headD default)
/-- A requester's number belongs to the strand: to its scalar path or to an entry of its vector queue. -/
def Strand.owns (st : Strand) (sid : Nat) : Bool := sid % 16384 == st.owner
def Strand.vl (st : Strand) : Nat := (st.cr 0x100).toNat % 65536
def Strand.tl (st : Strand) : Nat := (st.cr 0x102).toNat % 512
def Strand.vstart (st : Strand) : Nat := (st.cr 0x104).toNat % 65536
def Strand.ebase (st : Strand) : Nat := (st.cr 0x105).toNat
def Strand.fflags (st : Strand) : Nat := (st.cr 0x109).toNat % 64

/-- The entry accesses memory under the order of the strand's own accesses (R96, R255): `VLD`, `VLDZ`, `VST`, `VSTZ`, `VCPST`, `VAMO`, `VSAVE`
and `VRST`, not `VLDS`. -/
def VEntry.isMem (e : VEntry) : Bool :=
  let w := e.word.toNat
  w / 2 ^ 26 == 0x28 || (w / 2 ^ 26 == 0x27 && w % 8 != 4) || (w / 2 ^ 26 == 0x20 && (w % 16 == 6 || w % 16 == 7))

/-- The fields of a bank-queue word (R37, F-K), and an `LKX`. -/
def BankEntry.major (e : BankEntry) : Nat := e.word.toNat / 2 ^ 26
def BankEntry.func (e : BankEntry) : Nat := fld e.word.toNat 4 4
def BankEntry.isLkx (e : BankEntry) : Bool := e.major == 0x31 && e.func == 2

/-- The strands that are on no context and still have work: those pre-empted (R20), and members of killed gangs (R126). -/
def State.away (s : State) : List Strand := s.preempted.map (fun p => p.strand) ++ s.gangs.flatMap (fun g => g.2.rest)

/-- Changes the strand on no context that has an owner number. -/
def State.mapAway (s : State) (who : Nat) (f : Strand → Strand) : State :=
  { s with
    preempted := s.preempted.map (fun p => if p.strand.owner = who then { p with strand := f p.strand } else p)
    gangs := s.gangs.map (fun g => (g.1, { g.2 with rest := g.2.rest.map (fun st => if st.owner = who then f st else st) })) }

/-- Runs work of the strand on no context that has an owner number, in a place of its own while it lasts; flags that the work raises wait for
the strand (R20, R358). -/
def onAway (who : Nat) (f : Nat → State → State) (s : State) : State :=
  match s.away.find? (fun st => st.owner == who) with
  | none => s
  | some st =>
    let c := 256 + who
    let s := f c (s.setStrand c (st.setCrN 0x109 0))
    let t := s.strandAt c
    ({ s with strands := Tab.erase s.strands c } : State).mapAway who (fun _ =>
      { t.setCr 0x109 (st.cr 0x109) with away := t.away ||| t.fflags })

/-- `MVL` of a strand (R283). -/
def Strand.mvl (st : Strand) : Nat := (st.cr 0x200).toNat % 128

/-- Adds flags to `FFLAGS` (R208, R217). -/
def Strand.accrue (st : Strand) (fl : Nat) : Strand := st.setCrN 0x109 (st.fflags ||| fl)

/-- Adds one to a telemetry counter (R33, R481). -/
def State.count (s : State) (n : Nat) : State := { s with counters := Tab.set s.counters n (Tab.get s.counters n + 1) }

/-- Work reaches a gated island, which returns to On (R472). -/
def State.wake (s : State) (i : Nat) : State :=
  match Tab.find s.islands i with
  | some x => if x.st = 0 then s else { s with islands := Tab.set s.islands i { x with st := 0 } }
  | none => s

/-- Raises a step of the machine's own, to be performed before any strand's next turn. -/
def State.raise (s : State) (t : Task) : State := { s with due := s.due ++ [t] }

/-- Sends a message out of the package. -/
def State.send (s : State) (m : OutMsg) : State := { s with out := s.out ++ [m] }

/-- Runs `f` on `k`, `k + 1`, …, `n` of them, in order; stops where `f` stops. -/
def forElems (n k : Nat) (f : Nat → M Unit) : M Unit :=
  match n with
  | 0 => pure ()
  | j + 1 => do
    f k
    forElems j (k + 1) f

/-- Runs `f` on each member of a list, in order. -/
def forList {α : Type} (l : List α) (f : α → M Unit) : M Unit :=
  match l with
  | [] => pure ()
  | a :: r => do
    f a
    forList r f

end Sys2Proof.Machine
end

