-- ==== Sys2Proof/Machine/Cache.lean ====
section
/-! DEFINITION. Physical memory: stack DRAM with its check marks, the local stores, and the shared cache that is the point
of performance of every WB access (R73, R91, R316 to R318, R380 to R392). -/

namespace Sys2Proof.Machine

/-- Stack DRAM: 512 GiB from address 0 (R73). -/
def isDram (pa : Nat) : Bool := decide (pa < 0x8000000000)

/-- The local stores: 128 MiB (R73). -/
def isLocal (pa : Nat) : Bool := decide (0x10000000000 ≤ pa) && decide (pa < 0x10008000000)

/-- The device IO registers: 4 GiB (R73). -/
def isIo (pa : Nat) : Bool := decide (0x20000000000 ≤ pa) && decide (pa < 0x20100000000)

/-- An address that exists (R73). -/
def populated (pa : Nat) : Bool := isDram pa || isLocal pa || isIo pa

/-- The bank number of a stack DRAM address: stack × 512 + die × 32 + bank in die (R301, R302). -/
def bankOf (pa : Nat) : Nat := fld pa 36 3 * 512 + fld pa 10 9

/-- Row and column word of a stack DRAM address (R302). -/
def rowOf (pa : Nat) : Nat := fld pa 19 17
def colOf (pa : Nat) : Nat := fld pa 5 5

/-- A fresh bank. -/
def Bank.fresh : Bank := { tables := [], acc := [], poison := [], berr := 0 }

def State.bank (s : State) (n : Nat) : Bank := Tab.getD s.banks n Bank.fresh
def State.setBank (s : State) (n : Nat) (b : Bank) : State := { s with banks := Tab.set s.banks n b }

/-! ### Check bits (R316 to R318) -/

/-- The wrong bits of a word that is marked uncorrectable (R342): two of its check bits. -/
abbrev markBits : Nat := 3 * 2 ^ 256

/-- A single wrong bit. -/
def oneBit (e : Nat) : Bool := (range' 0 272).any (fun i => e == 2 ^ i)

/-- Two wrong bits, or an error confined to one aligned nibble of the 272 stored bits. -/
def detected (e : Nat) : Bool :=
  (range' 0 68).any (fun i => e % 2 ^ (4 * i) == 0 && decide (e / 2 ^ (4 * i) < 16))
    || (range' 0 272).any (fun i => bitOf e i && oneBit (setFld e i 1 0))

/-- The bits of stack word `w` as stored, without its check bits, and with them. -/
def State.rawWord (s : State) (w : Nat) : Nat := Mem.readLE s.mem (32 * w) 32
def State.storedBits (s : State) (w : Nat) : BitVec 272 :=
  let e := Tab.get s.wordErr w
  let raw := s.rawWord w
  BitVec.ofNat 272 (raw + ((Config.checkBits (BitVec.ofNat 256 (raw ^^^ e % 2 ^ 256))).toNat ^^^ e / 2 ^ 256 % 2 ^ 16) * 2 ^ 256)

/-- What the check of stack word `w` finds (R316): 0 nothing, 1 a corrected error, 2 an uncorrectable one; and the word that is delivered. -/
def State.eccOf (s : State) (w : Nat) : Nat × Nat :=
  match Tab.find s.wordErr w with
  | none => (0, s.rawWord w)
  | some e =>
    let raw := s.rawWord w
    if oneBit e then (1, raw ^^^ e % 2 ^ 256)
    else if detected e then (2, raw)
    else
      let b := s.storedBits w
      if Config.eccClass b = 0 then (2, raw)
      else if Config.eccClass b = 1 then (1, (Config.eccWord b).toNat)
      else (0, raw)

/-- Stack word `w` is uncorrectable. -/
def State.wordBad (s : State) (w : Nat) : Bool := (s.eccOf w).1 == 2

/-- `n` bytes of one stack word, as they are delivered. -/
def State.dramRead (s : State) (pa n : Nat) : Nat :=
  match Tab.find s.wordErr (pa / 32) with
  | none => Mem.readLE s.mem pa n
  | some _ => fld (s.eccOf (pa / 32)).2 (8 * (pa % 32)) (8 * n)

/-- The 64 bytes of a line, as they are delivered. -/
def State.dramLine (s : State) (line : Nat) : Line :=
  BitVec.ofNat 512 (match Tab.find s.wordErr (line * 2), Tab.find s.wordErr (line * 2 + 1) with
    | none, none => Mem.readLE s.mem (line * 64) 64
    | _, _ => s.dramRead (line * 64) 32 + s.dramRead (line * 64 + 32) 32 * 2 ^ 256)

/-- Records an uncorrectable word in `BERR` of its bank, or sets `OVF` when `V` is set already (R318). -/
def recordBerr (s : State) (pa src tag sid : Nat) : State :=
  let n := bankOf pa
  let b := s.bank n
  let v := b.berr.toNat
  let syn := let y := (Config.syndrome (s.storedBits (pa / 32))).toNat; if y = 0 then 1 else y
  let v' :=
    if bitOf v 0 then setFld v 1 1 1
    else
      let ce := fld v 112 16
      setFld (1 + fld v 1 1 * 2 + src * 4 + rowOf pa * 2 ^ 8 + colOf pa * 2 ^ 25 + syn * 2 ^ 32
        + (if src = 0 then tag * 2 ^ 64 + sid * 2 ^ 80 else 0)) 112 16 ce
  s.setBank n { b with berr := BitVec.ofNat 128 v' }

/-- Counts a corrected error in `BERR.CE`, saturating (R317, R318). -/
def countCorrected (s : State) (pa : Nat) : State :=
  let n := bankOf pa
  let b := s.bank n
  let v := b.berr.toNat
  s.setBank n { b with berr := BitVec.ofNat 128 (setFld v 112 16 (min (fld v 112 16 + 1) 0xFFFF)) }

/-- The check of one stack word as it is read: true when it is uncorrectable. A corrected error is counted; an uncorrectable
one is recorded with the reader's `SRC` (R316 to R318). -/
def checkWord (s : State) (pa src tag sid : Nat) : State × Bool :=
  match Tab.find s.wordErr (pa / 32) with
  | none => (s, false)
  | some _ => match (s.eccOf (pa / 32)).1 with
    | 0 => (s, false)
    | 1 => (countCorrected s pa, false)
    | _ => (recordBerr s pa src tag sid, true)

/-- The stack word at `pa` has been written whole: with fresh check bits (R316), or marked uncorrectable (R342). -/
def markWord (s : State) (pa : Nat) (bad : Bool) : State :=
  { s with wordErr := if bad then Tab.set s.wordErr (pa / 32) markBits else Tab.erase s.wordErr (pa / 32) }

/-- A word that is corrected is stored corrected, before part of it is written. -/
def correctWord (s : State) (pa : Nat) : State :=
  match Tab.find s.wordErr (pa / 32) with
  | none => s
  | some _ => { s with mem := Mem.writeLE s.mem (pa / 32 * 32) 32 (s.eccOf (pa / 32)).2 }

/-! ### Centre visits (R313) -/

/-- A centre access to a row of a bank may be served now: the bank is not held, or this visit is the first in four rows of the pass, or the visit
that serves the row. -/
def Bank.open (b : Bank) (row : Nat) : Bool :=
  match b.held, b.visit with
  | none, _ => true
  | some _, none => true
  | some k, some (j, r) => decide (j / 4 < k / 4) || (j == k && (r.isNone || r == some row))

/-- The visit that serves a row. -/
def Bank.served (b : Bank) (row : Option Nat) : Bank :=
  match b.held with
  | none => b
  | some k => { b with visit := some (k, row) }

/-- A centre access to the word at `pa` may be served now. -/
def centreOpen (s : State) (pa : Nat) : Bool := (s.bank (bankOf pa)).open (rowOf pa)

/-- It is served. -/
def centreVisit (s : State) (pa : Nat) : State :=
  let b := s.bank (bankOf pa)
  if b.held.isNone then s else s.setBank (bankOf pa) (b.served (some (rowOf pa)))

/-- The home quadrant of a line: the XOR of its 2-bit fields (R380). -/
def quadOf (line : Nat) : Nat := forUp 23 0 (fun i q => q ^^^ fld line (2 * i) 2)

/-- The set of a line within its quadrant (R380). -/
def setOf (line : Nat) : Nat := fld line 0 18 ^^^ fld line 18 18

/-- Removes an entry from the hash index (R385, R386). -/
def unindex (s : State) (e : Nat) : State :=
  match Tab.find s.entries e with
  | none => s
  | some en =>
    if en.ix then
      let b := en.quad * 2 ^ 19 + en.hash % 2 ^ 19
      { s with
        entries := Tab.set s.entries e { en with ix := false }
        buckets := Tab.set s.buckets b ((Tab.get s.buckets b).filter (· != e)) }
    else s

/-- Release: lowers an entry's count by one, and at zero removes it from the index and frees it (R386). -/
def releaseEntry (s : State) (e : Nat) : State :=
  match Tab.find s.entries e with
  | none => s
  | some en =>
    if en.c ≤ 1 then
      let s := unindex s e
      { s with entries := Tab.erase s.entries e }
    else { s with entries := Tab.set s.entries e { en with c := en.c - 1 } }

/-- Writes a line's 64 bytes to stack DRAM, marking the halves that `ue` marks (R386, R387). -/
def writeLineToDram (s : State) (line : Nat) (d : Line) (ue : Nat) : State :=
  let s := { s with mem := Mem.writeLE s.mem (line * 64) 64 d.toNat }
  markWord (markWord s (line * 64) (bitOf ue 0)) (line * 64 + 32) (bitOf ue 1)

/-- Eviction, and `CFLUSH.inv`: the home copy goes to stack DRAM when it differs, and the tag to I (R386, R387). -/
def evictLine (s : State) (line : Nat) : State :=
  match Tab.find s.lines line with
  | none => s
  | some ln =>
    let s := if ln.dirty then writeLineToDram s line ln.data ln.ue else s
    let s := if ln.st = 3 then s else releaseEntry s ln.ent
    { s with lines := Tab.erase s.lines line }

/-- The least recently used line among `l`. -/
def lruOf : List (Nat × CLine) → Option (Nat × CLine)
  | [] => none
  | a :: r => match lruOf r with
    | none => some a
    | some b => if a.2.used ≤ b.2.used then some a else some b

/-- Evicts least-recently-used tags of the quadrant until 256 data entries are free (R390); the fuel bounds the tags. -/
def refill (s : State) (q : Nat) : Nat → State
  | 0 => s
  | n + 1 =>
    if (s.entries.filter (fun e => e.2.quad == q)).length + 256 ≤ 1572864 then s
    else match lruOf (s.lines.filter (fun l => quadOf l.1 == q)) with
      | none => s
      | some l => refill (evictLine s l.1) q n

/-- A free data entry with count 1 and the bytes given (R386, R390). -/
def newEntry (s : State) (q : Nat) (d : Line) : State × Nat :=
  let s := refill s q s.lines.length
  let e := s.entNext
  ({ s with
      entNext := e + 1
      entries := Tab.set s.entries e { data := d, c := 1, ix := false, hash := 0, key := (0, 0), quad := q } }, e)

/-- Makes a way free in the line's set: the least recently used tag of a full set is evicted (R380, R390). -/
def makeWay (s : State) (line : Nat) : State :=
  let q := quadOf line
  let t := setOf line
  let same := s.lines.filter (fun l => setOf l.1 == t && quadOf l.1 == q)
  if same.length < 12 then s
  else match lruOf same with
    | none => s
    | some l => evictLine s l.1

/-- The byte at a physical address as its point of performance holds it: the home copy of a valid tag, else the bytes of
stack DRAM or of the local store (R91, R93). A byte of a marked half or of an uncorrectable word is a free value, since no agent receives it
(R387; log 58). -/
def State.peek (s : State) (pa : Nat) : Byte :=
  if isDram pa then
    match Tab.find s.lines (pa / 64) with
    | some ln => if bitOf ln.ue (pa % 64 / 32) then Config.unreadable s.tick pa else BitVec.ofNat 8 (ln.data.toNat / 2 ^ (8 * (pa % 64)))
    | none => if s.wordBad (pa / 32) then Config.unreadable s.tick pa else BitVec.ofNat 8 (s.dramRead pa 1)
  else Mem.read s.mem pa

/-- `n` bytes from a physical address as a little-endian number, without any effect on the cache. -/
def State.peekLE (s : State) (pa : Nat) : Nat → Nat
  | 0 => 0
  | n + 1 => (s.peek pa).toNat + 256 * s.peekLE (pa + 1) n

/-- A read, by the hardware itself, of a table that the device follows: every stack word that no home copy covers is checked (R316, R317). -/
def noteRead (s : State) (pa n : Nat) : State :=
  (range' (pa / 32) ((pa + n + 31) / 32 - pa / 32)).foldl (fun s w =>
    if isDram (32 * w) && (Tab.find s.lines (w / 2)).isNone then (checkWord s (32 * w) 1 0 0).1 else s) s

/-- The key of an entry of the domain table: the first 16 bytes of SM3 of the secret, the domain and the generation (R383). -/
def domainKey (secret dom gen : Nat) : BitVec 128 :=
  (sm3 (bytesLE 32 secret ++ bytesLE 2 dom ++ bytesLE 4 gen)).extractLsb' 128 128

/-- The address of entry `d` of the domain table. -/
def domainAt (s : State) (d : Nat) : Nat := (s.pkr 0x830).toNat / 65536 * 65536 + 64 * d

/-- Entry `d` of the domain table (R383): an entry whose reserved bytes are not zero is read as `V` = 0. -/
def domainEntry (s : State) (d : Nat) : DomKey :=
  let a := domainAt s d
  let fl := s.peekLE (a + 0x20) 1
  let rotp := s.peekLE (a + 0x21) 1
  let gen := s.peekLE (a + 0x24) 4
  let ok := fl / 4 == 0 && s.peekLE (a + 0x22) 2 == 0 && s.peekLE (a + 0x28) 24 == 0
  let r := if rotp = 0 then 0 else if rotp < 20 then 20 else if 40 < rotp then 40 else rotp
  { valid := ok && bitOf fl 0 && s.pkr 0x830 / 65536 != 0,
    pub := bitOf fl 1 || d == 0xFFFF, rotp := r, gen := gen,
    key := domainKey (s.peekLE a 32) d gen,
    due := if r = 0 then 0 else s.time.toNat + 2 ^ r, wait := false }

/-- The quadrants read a domain's entry (R383); a rotation that waits for the host goes on waiting (R392). -/
def readDomain (s : State) (d : Nat) : State :=
  let s := noteRead s (domainAt s d) 64
  { s with domKeys := Tab.set s.domKeys d { domainEntry s d with wait := ((Tab.find s.domKeys d).map DomKey.wait).getD false } }

/-- `DDTBASE.BASE` is not zero: domains may have keys (R394). -/
def hasDomains (s : State) : Bool := s.pkr 0x830 / 65536 != 0

/-- Reads a domain's entry at its first use (R383). -/
def loadDomain (s : State) (d : Nat) : State :=
  match Tab.find s.domKeys d with
  | some _ => s
  | none => readDomain s d

/-- The key of a domain, with its identity, when it has one (R383, R384). -/
def keyOf (s : State) (d : Nat) : State × Option ((Nat × Nat) × BitVec 128) :=
  if s.pkr 0x830 / 65536 = 0 then (s, none)
  else
    let s := loadDomain s d
    match Tab.find s.domKeys d with
    | none => (s, none)
    | some k =>
      if !k.valid then (s, none)
      else if k.pub then
        let s := loadDomain s 0xFFFF
        match Tab.find s.domKeys 0xFFFF with
        | some p => (s, if p.valid then some ((65536, p.gen), p.key) else none)
        | none => (s, none)
      else (s, some ((d, k.gen), k.key))

/-- The hash of a line under a key: the first 8 bytes of SM3(key ‖ bytes), big-endian (R385). -/
def lineHash (key : BitVec 128) (d : Line) : Nat :=
  ((sm3 ((bytesLE 16 key.toNat).reverse ++ bytesLE 64 d.toNat)).extractLsb' 192 64).toNat

/-- The oldest way of a bucket that matches (R385). -/
def matchWay (s : State) (id : Nat × Nat) (h : Nat) (d : Line) : List Nat → Option Nat
  | [] => none
  | e :: r =>
    match Tab.find s.entries e with
    | some en =>
      if en.key == id && en.hash / 2 ^ 19 == h / 2 ^ 19 && decide (en.c < 255) && en.data == d then some e
      else matchWay s id h d r
    | none => matchWay s id h d r

/-- Insert: a full bucket of four ways gives up its oldest (R385). -/
def insertEntry (s : State) (e : Nat) (id : Nat × Nat) (h : Nat) (d : Line) : State :=
  match Tab.find s.entries e with
  | none => s
  | some en =>
    let b := en.quad * 2 ^ 19 + h % 2 ^ 19
    let s := match Tab.get s.buckets b with
      | o :: _ :: _ :: _ :: _ => unindex s o
      | _ => s
    { s with
      entries := Tab.set s.entries e { en with ix := true, key := id, hash := h, data := d }
      buckets := Tab.set s.buckets b (Tab.get s.buckets b ++ [e]) }

/-- Lookup, and what its result does to the tag (R385, R386): the state of the tag and its entry. `own` is the entry the line
already holds (a seal), if any. -/
def lookupShare (s : State) (q dom : Nat) (d : Line) (own : Option Nat) : State × Nat × Nat :=
  if d = 0 then
    (match own with | some e => releaseEntry s e | none => s, 3, 0)
  else
    let (s, k) := keyOf s dom
    match k with
    | none =>
      match own with
      | some e => (s, 2, e)
      | none => let (s, e) := newEntry s q d; (s, 2, e)
    | some (id, key) =>
      let h := lineHash key d
      match matchWay s id h d (Tab.get s.buckets (q * 2 ^ 19 + h % 2 ^ 19)) with
      | some e =>
        let s := match Tab.find s.entries e with
          | some en => { s with entries := Tab.set s.entries e { en with c := en.c + 1 } }
          | none => s
        (match own with | some o => releaseEntry s o | none => s, 2, e)
      | none =>
        match own with
        | some o => (insertEntry s o id h d, 2, o)
        | none =>
          let (s, e) := newEntry s q d
          (insertEntry s e id h d, 2, e)

/-- A line's turn in the order of use. -/
def touch (s : State) (line : Nat) : State :=
  match Tab.find s.lines line with
  | none => s
  | some ln => { s with
      useClock := s.useClock + 1
      lines := Tab.set s.lines line { ln with used := s.useClock } }

/-- A fill (R386, R387): a line that has no valid tag is read from stack DRAM, both words are checked, and the tag is installed
after Lookup, or in state U with its marks when a word is uncorrectable. -/
def fillLine (s : State) (line dom : Nat) : State :=
  match Tab.find s.lines line with
  | some _ => touch s line
  | none =>
    let s := makeWay s line
    let q := quadOf line
    let (s, u0) := checkWord s (line * 64) 1 0 0
    let (s, u1) := checkWord s (line * 64 + 32) 1 0 0
    let ue := (if u0 then 1 else 0) + (if u1 then 2 else 0)
    let d := s.dramLine line
    let (s, st, e) :=
      if ue = 0 then lookupShare s q dom d none
      else let (s, e) := newEntry s q d; (s, 1, e)
    { s with
      useClock := s.useClock + 1
      lines := Tab.set s.lines line
        { data := d, st := st, dirty := false, dom := dom, ent := e, wt := s.cyclesOf (16 + q), ue := ue, used := s.useClock } }

/-- A seal of a line in state U, unless a half is marked or its domain's rotation waits (R386, R387, R389, R392). -/
def sealLine (s : State) (line : Nat) : State :=
  match Tab.find s.lines line with
  | none => s
  | some ln =>
    let waits := match Tab.find s.domKeys ln.dom with | some k => k.wait | none => false
    if ln.st = 1 ∧ ln.ue = 0 ∧ !waits then
      let (s, st, e) := lookupShare s (quadOf line) ln.dom ln.data (some ln.ent)
      { s with lines := Tab.set s.lines line { ln with st := st, ent := e } }
    else s

/-- A seal, which is counted when it leaves the line sealed (R481). -/
def sealCounted (s : State) (line : Nat) : State :=
  let t := sealLine s line
  match Tab.find s.lines line, Tab.find t.lines line with
  | some a, some b => if a.st = 1 ∧ b.st ≠ 1 then t.count 6 else t
  | _, _ => t

/-- The head slot's line of an enabled start or answer queue (R113, R116). -/
def Queue.headLine (q : Queue) : Nat := (q.base + 64 * (q.head % 2 ^ q.logn)) / 64

/-- The slot of a queue that a line is. -/
def Queue.slotAt (q : Queue) (line : Nat) : Option Nat :=
  if q.base ≤ 64 * line ∧ 64 * line < q.base + 64 * 2 ^ q.logn then some (line - q.base / 64) else none

/-- The ticket that slot `i` serves when its `TICKET` is `v`, if it is full (R115). -/
def Queue.fullTicket (q : Queue) (i v : Nat) : Option Nat :=
  let t := v % 2 ^ 63
  if bitOf v 63 ∧ t % 2 ^ q.logn = i ∧ q.head ≤ t ∧ t < q.head + 2 ^ q.logn then some t else none

/-- A full slot takes its place: behind those whose tickets were performed in an earlier step, and, within a step, behind lower queues (R116). -/
def putFull (f : Nat × Nat × Nat) : List (Nat × Nat × Nat) → List (Nat × Nat × Nat)
  | [] => [f]
  | g :: r => if f.1 < g.1 ∨ (f.1 = g.1 ∧ f.2.1 < g.2.1) then f :: g :: r else g :: putFull f r

/-- The ticket for which slot `i` of a queue is full. A `TICKET` in a word that cannot be read hides which: the slot counts as full for the ticket
that it serves next (R388; DESIGN CHOICE, log 58). -/
def Queue.slotFull (s : State) (q : Queue) (i : Nat) : Option Nat :=
  let a := q.base + 64 * i
  let marked := match Tab.find s.lines (a / 64) with
    | some ln => bitOf ln.ue 0
    | none => isDram a && s.wordBad (a / 32)
  if marked then some (q.head + (i + 2 ^ q.logn - q.head % 2 ^ q.logn) % 2 ^ q.logn) else q.fullTicket i (s.peekLE a 8)

/-- A write has been performed at a line: where it is a slot of an enabled start or answer queue, the slot is full now, or it is not (R115,
R116). -/
def noteFull (s : State) (line : Nat) : State :=
  s.queues.foldl (fun s p =>
    match if p.2.kind = 3 then none else p.2.slotAt line with
    | none => s
    | some i =>
      let rest := s.fulls.filter (fun f => !(f.2.1 == p.1 && f.2.2 % 2 ^ p.2.logn == i))
      match p.2.slotFull s i with
      | some t =>
        if s.fulls.any (fun f => f.2.1 == p.1 && f.2.2 == t) then s else { s with fulls := putFull (s.tick, p.1, t) rest }
      | none => { s with fulls := rest }) s

/-- A write performed in a watched granule drops every verified image that covers it (R119). -/
def dropImages (s : State) (pa : Nat) : State :=
  { s with images := s.images.filter (fun v => !(v.watch.contains (pa / 65536))) }

/-- What every write performed at a line brings about besides its bytes: its monitors fire (R116, R183), and every verified image
that covers the written granule is dropped (R119). -/
def noteWrite (s : State) (line : Nat) : State :=
  let armed := s.strands.any (fun p => p.2.run == .waitLine line)
    || s.queues.any (fun p => p.2.kind != 3 && p.2.headLine == line)
  let s := if armed then s.raise (.lineFire line) else s
  dropImages (noteFull s line) (line * 64)

/-- A write or atomic at the home (R386, R387): `size` bytes at offset `off` of the line receive the low bytes of `val`. -/
def homeWrite (s : State) (line dom off size val : Nat) : State :=
  let full := off = 0 ∧ size = 64
  let q := quadOf line
  let s :=
    if full ∧ (Tab.find s.lines line).isNone then
      let s := makeWay s line
      let (s, e) := newEntry s q 0
      let ln : CLine := { data := 0, st := 1, dirty := true, dom := dom, ent := e, wt := 0, ue := 0, used := 0 }
      { s with lines := Tab.set s.lines line ln }
    else fillLine s line dom
  let s := match Tab.find s.lines line with
    | none => s
    | some ln =>
      let d : Line := BitVec.ofNat 512 (setFld ln.data.toNat (8 * off) (8 * size) val)
      let ue := if off = 0 ∧ 32 ≤ size then setFld ln.ue 0 1 0 else ln.ue
      let ue := if off ≤ 32 ∧ 64 ≤ off + size then setFld ue 1 1 0 else ue
      let (s, e) :=
        if ln.st = 1 then (s, ln.ent)
        else if ln.st = 3 then newEntry s q 0
        else match Tab.find s.entries ln.ent with
          | some en =>
            if 2 ≤ en.c then
              let (s, e) := newEntry s q ln.data
              let s := releaseEntry s ln.ent
              ({ s with kunsh := s.kunsh + 1 }, e)
            else (unindex s ln.ent, ln.ent)
          | none => newEntry s q ln.data
      { s with
        useClock := s.useClock + 1
        lines := Tab.set s.lines line
          { data := d, st := 1, dirty := true, dom := dom, ent := e, wt := s.cyclesOf (16 + q), ue := ue, used := s.useClock } }
  noteWrite s line

/-- `CZERO` of a line: Z with `D` = 1, from any state (R386, R387, R397). -/
def zeroLine (s : State) (line dom : Nat) : State :=
  let s := match Tab.find s.lines line with
    | some ln => if ln.st = 3 then s else releaseEntry s ln.ent
    | none => makeWay s line
  let s := { s with
    useClock := s.useClock + 1
    lines := Tab.set s.lines line
      { data := 0, st := 3, dirty := true, dom := dom, ent := 0, wt := s.cyclesOf (16 + quadOf line), ue := 0, used := s.useClock } }
  noteWrite s line

/-- `CINVAL` of a line: to I without write-back (R386, R397). -/
def invalLine (s : State) (line : Nat) : State :=
  let s := match Tab.find s.lines line with
    | some ln => if ln.st = 3 then s else releaseEntry s ln.ent
    | none => s
  noteWrite { s with lines := Tab.erase s.lines line } line

/-- `CFLUSH` of a line: a dirty home copy is written to stack DRAM and becomes clean (R397). -/
def flushLine (s : State) (line : Nat) : State :=
  match Tab.find s.lines line with
  | none => s
  | some ln =>
    if ln.dirty then
      let s := writeLineToDram s line ln.data ln.ue
      { s with lines := Tab.set s.lines line { ln with dirty := false } }
    else s

/-- A read at the home: the bytes, and whether one of them lies in a marked half (R387). -/
def homeRead (s : State) (line dom off size : Nat) : State × Nat × Bool :=
  let s := fillLine s line dom
  match Tab.find s.lines line with
  | none => (s, 0, false)
  | some ln =>
    let bad := (bitOf ln.ue 0 && decide (off < 32)) || (bitOf ln.ue 1 && decide (32 < off + size))
    (s, fld ln.data.toNat (8 * off) (8 * size), bad)

/-- A read at the bank, of bytes within one column word (R91, R313, R388). -/
def bankRead (s : State) (pa size : Nat) : State × Nat × Bool :=
  let (s, bad) := checkWord (centreVisit s pa) pa 1 0 0
  (s, s.dramRead pa size, bad)

/-- A write at the bank, of bytes within one column word: a whole word stores fresh check bits; a part is merged into the word, which is
checked as it is read, and an uncorrectable one stays marked (R316 to R318, R388). -/
def bankWrite (s : State) (pa size val : Nat) : State :=
  let s := centreVisit s pa
  let (s, bad) := if size < 32 then checkWord s pa 1 0 0 else (s, false)
  let s := if bad then s else correctWord s pa
  dropImages (markWord { s with mem := Mem.writeLE s.mem pa size val } pa bad) pa

/-- A write in a local store (R119). -/
def localWrite (s : State) (pa size val : Nat) : State := dropImages { s with mem := Mem.writeLE s.mem pa size val } pa

/-- A read by the hardware itself of bytes of one line, by physical address: of domain 0 for the walker and the Ford, of the strand's for its
tap unit (R382). -/
def physRead (s : State) (pa size : Nat) (dom : Nat := 0) : State × Nat × Bool :=
  if isDram pa then homeRead s (pa / 64) dom (pa % 64) size
  else if isLocal pa then (s, Mem.readLE s.mem pa size, false)
  else (s, 0, false)

/-- A read by the hardware itself for which R388 names no outcome: a byte of a marked half is a free value (log 58). -/
def physReadFree (s : State) (pa size : Nat) (dom : Nat := 0) : State × Nat :=
  let (s, v, bad) := physRead s pa size dom
  (s, if bad then s.peekLE pa size else v)

/-- A write by the hardware itself of bytes of one line, by physical address. -/
def physWrite (s : State) (pa size val : Nat) : State :=
  if isDram pa then homeWrite s (pa / 64) 0 (pa % 64) size val
  else if isLocal pa then localWrite s pa size val
  else s

/-- A write by the hardware itself of a whole number of lines. -/
def physWriteLines (s : State) (pa : Nat) : List Nat → State
  | [] => s
  | v :: r => physWriteLines (physWrite s pa 64 v) (pa + 64) r

end Sys2Proof.Machine
end

