-- ==== Sys2Proof/Machine/Xlate.lean ====
section
/-! DEFINITION. Translation and protection (R55, R71 to R90, R147), and the transactions that leave the package
(R452 to R456, R464). -/

namespace Sys2Proof.Machine

/-- Who translates: the access kind, what it needs, the memory types and windows it may use (the rows of R82), and the
strand's address space, level, cluster and local-store partition. -/
structure Acc where
  kind : Nat
  rd : Bool := false
  wr : Bool := false
  ex : Bool := false
  wb : Bool := false
  br : Bool := false
  pt : Bool := false
  io : Bool := false
  /-- A local-store address is accepted (every row but the waits of R183). -/
  ls : Bool := true
  remWb : Bool := false
  remBr : Bool := false
  host : Bool := false
  /-- Only a BR leaf is accepted, local or remote (R263). -/
  brOnly : Bool := false
  /-- No global window is accepted (R183). -/
  noGlob : Bool := false
  asid : Nat := 0
  pl : Nat := 0
  cluster : Nat := 0
  lspart : Nat := 0
  dom : Nat := 0
  /-- Who its transactions belong to: a strand's owner number, or 8,192 and a stream slot's key. -/
  who : Nat := 0
  /-- The TLB it looks in first. -/
  unit : Nat := 0

/-- The rows of R82. -/
def Acc.fetch : Acc := { kind := 0, ex := true, wb := true }
def Acc.load : Acc :=
  { kind := 1, rd := true, wb := true, br := true, io := true, remWb := true, remBr := true, host := true }
def Acc.store : Acc :=
  { kind := 2, wr := true, wb := true, br := true, io := true, remWb := true, remBr := true, host := true }
def Acc.amo : Acc := { kind := 3, rd := true, wr := true, wb := true, remWb := true }
def Acc.vload : Acc := { kind := 4, rd := true, wb := true, br := true, remWb := true, remBr := true }
def Acc.vstore : Acc := { kind := 5, wr := true, wb := true, br := true, remWb := true, remBr := true }
def Acc.vamo : Acc := { kind := 6, rd := true, wr := true, wb := true, remWb := true }
def Acc.bank (rd wr : Bool) : Acc := { kind := 7, rd := rd, wr := wr, br := true }
def Acc.copyRead : Acc :=
  { kind := 8, rd := true, wb := true, br := true, remWb := true, remBr := true, host := true }
def Acc.copyWrite : Acc :=
  { kind := 9, wr := true, wb := true, br := true, remWb := true, remBr := true, host := true }
def Acc.tap : Acc := { kind := 10, rd := true, pt := true }
def Acc.sampler (rd wr : Bool) : Acc := { kind := 11, rd := rd, wr := wr, wb := true }
/-- `WAITEQ` and `WAITNE`: a WB leaf in the package's own stack DRAM only (R183). -/
def Acc.waitLine : Acc := { kind := 1, rd := true, wb := true, ls := false, noGlob := true }

/-- The TLBs, by number: cluster TLBs, fetch TLBs, data TLBs, lane banks, copy engines, bank TLBs (R84, R325, R356). -/
def unitCluster (cl : Nat) : Nat := cl
def unitFetch (core : Nat) : Nat := 16 + core
def unitData (core : Nat) : Nat := 80 + core
def unitLane (cl lane : Nat) : Nat := 144 + cl * 64 + lane
def unitCopy (e : Nat) : Nat := 1168 + e
def unitBank (core : Nat) : Nat := 1184 + core

/-- A copy engine's TLB, which the walker fills directly (R356); the cluster TLB serves the others (R84, R325). -/
def isCopyUnit (u : Nat) : Bool := decide (1168 ≤ u) && decide (u < 1184)

/-- How many translations each structure holds (R84, R325, R356). -/
def unitCap (u : Nat) : Nat :=
  if u < 16 then 4096 else if u < 80 then 32 else if u < 144 then 64 else if u < 1168 then 16
  else if u < 1184 then 256 else 32

/-- The accessor as the strand of the current context. -/
def Acc.forStrand (a : Acc) (s : State) : Acc :=
  let st := s.st
  { a with
    asid := st.asid, pl := st.pl.toNat, cluster := clusterOf s.cur, lspart := (st.cr 0x005).toNat, dom := st.ddom,
    who := if a.kind < 4 ∨ a.kind = 8 then st.owner else st.vowner,
    unit := if a.kind = 0 then unitFetch (coreOf s.cur)
      else if a.kind < 4 then unitData (coreOf s.cur)
      else if a.kind = 7 then unitBank (coreOf s.cur)
      else if a.kind = 8 ∨ a.kind = 9 then unitCopy (clusterOf s.cur)
      else unitCluster (clusterOf s.cur) }

/-- The translation of one byte: its physical address and where its access is performed. -/
structure Xl where
  pa : Nat
  place : Place
  mt : Nat
  size : Nat
  base : Nat
  who : Nat
  /-- In a global window (R72). -/
  glob : Bool
deriving DecidableEq, Repr, Inhabited

/-- The level that leaf faults report: 3 for a page, 2 for a block (R80). -/
def leafLevel (size : Nat) : Nat := if size < 2 ^ 29 then 3 else 2

/-- The R80 word of a fault. -/
def faultWord (reason level kind : Nat) : Nat := reason + level * 16 + kind * 256

/-- `Place` of R80: a table lies in the package's stack DRAM. -/
def placeTable (va t bytes level kind : Nat) : M Unit :=
  if t + bytes ≤ 0x8000000000 then pure () else trap cTFAULT va (faultWord 5 level kind)

/-- A read of a table entry by the walker, a plain load of domain 0 at the home quadrant (R86); an uncorrectable word makes the
access being translated trap BANKERR (R388). -/
def readEntry (va a level : Nat) : M Nat := do
  let (s, v, bad) := physRead (← get) a 8
  set s
  if bad then trap cBANKERR va 0x13 level (a / 32 * 32) (bankOf a) else pure v

/-- A root entry or a table pointer (R77): invalid and malformed entries fault. -/
def checkPointer (va level kind e : Nat) : M Unit := do
  if e % 4 = 0 then trap cTFAULT va (faultWord 3 level kind)
  if e % 4 ≠ 1 ∨ fld e 2 4 ≠ 0 ∨ fld e 7 9 ≠ 0 ∨ fld e 52 12 ≠ 0 ∨ (level ≠ 1 ∧ fld e 6 1 ≠ 0) then
    trap cTFAULT va (faultWord 4 level kind)

/-- A page or block entry (R78, R79): invalid and malformed entries fault. `unitBits` is 16 for a page, 29 for a block. -/
def checkLeaf (va level kind e unitBits maxSpan : Nat) : M Unit := do
  if e % 4 = 0 then trap cTFAULT va (faultWord 3 level kind)
  let span := fld e 12 4
  if e % 4 ≠ 2 ∨ fld e 6 1 ≠ 0 ∨ fld e 9 3 ≠ 0 ∨ fld e 52 12 ≠ 0 ∨ (fld e 3 1 = 1 ∧ fld e 2 1 = 0)
      ∨ maxSpan < span ∨ fld e 16 36 * 65536 % 2 ^ (unitBits + span) ≠ 0 then
    trap cTFAULT va (faultWord 4 level kind)

/-- The walk of R80 for an address below 2^55, up to the leaf. -/
def walk (asid va kind : Nat) : M TlbEntry := do
  let s ← get
  let atb := (s.pkr 0x810).toNat
  let asz := fld atb 0 5
  if 2 ^ asz ≤ asid then trap cTFAULT va (faultWord 2 0 kind)
  let root := fld atb 16 36 * 65536
  placeTable va root (8 * 2 ^ asz) 0 kind
  let e0 ← readEntry va (root + asid * 8) 0
  checkPointer va 0 kind e0
  let t1 := fld e0 16 36 * 65536
  placeTable va t1 65536 1 kind
  let e1 ← readEntry va (t1 + fld va 42 13 * 8) 1
  checkPointer va 1 kind e1
  let t2 := fld e1 16 36 * 65536
  placeTable va t2 65536 2 kind
  let e2 ← readEntry va (t2 + fld va 29 13 * 8) 2
  let own := (s.pkr 0x440).toNat % 128
  let home := if fld e1 6 1 = 1 then fld va 48 7 else own
  let mk := fun (e size : Nat) =>
    ({ unit := 0, asid := asid, base := va / size * size, size := size, home := home, glob := fld e1 6 1 == 1, pa := fld e 16 36 * 65536,
       mt := fld e 7 2, perm := fld e 2 4 } : TlbEntry)
  if e2 % 4 = 1 then
    checkPointer va 2 kind e2
    let t3 := fld e2 16 36 * 65536
    placeTable va t3 65536 3 kind
    let e3 ← readEntry va (t3 + fld va 16 13 * 8) 3
    checkLeaf va 3 kind e3 16 12
    pure (mk e3 (2 ^ (16 + fld e3 12 4)))
  else
    checkLeaf va 2 kind e2 29 7
    pure (mk e2 (2 ^ (29 + fld e2 12 4)))

/-- A translation that the unit holds for the address (R84, R85). -/
def tlbFind (tlb : List TlbEntry) (unit asid va : Nat) : Option TlbEntry :=
  tlb.find? (fun e => e.unit == unit && e.asid == asid && decide (e.base ≤ va) && decide (va < e.base + e.size))

/-- Keeps the first `cap` entries of a unit. -/
def tlbTrim (unit : Nat) : Nat → List TlbEntry → List TlbEntry
  | _, [] => []
  | cap, e :: r =>
    if e.unit = unit then
      match cap with
      | 0 => tlbTrim unit 0 r
      | k + 1 => e :: tlbTrim unit k r
    else e :: tlbTrim unit cap r

/-- Puts a translation into a unit. The spec does not say which one a full unit gives up: it is the one inserted longest ago (DESIGN CHOICE,
log 67). -/
def tlbInsert (tlb : List TlbEntry) (unit : Nat) (e : TlbEntry) : List TlbEntry :=
  tlbTrim unit (unitCap unit) ({ e with unit := unit } :: tlb)

/-- The checks that follow the table entries (R80, R81): a populated address of the package, and a type that fits it. -/
def checkRegion (own va kind : Nat) (e : TlbEntry) : M Unit := do
  let pa := e.pa + (va - e.base)
  let lvl := leafLevel e.size
  if e.home = own then
    if !populated pa then trap cTFAULT va (faultWord 5 lvl kind)
    let fits := if isDram pa then e.mt ≠ 3 else if isLocal pa then e.mt = 0 else e.mt = 3
    if !fits then trap cTFAULT va (faultWord 4 lvl kind)

/-- The translation of an address: its unit's TLB, the cluster's, or a walk (R80, R84, R85). The last two checks of R80 are made at a hit too,
for a page that reaches past its populated region (DESIGN CHOICE, log 67). -/
def lookupXl (a : Acc) (va : Nat) : M TlbEntry := do
  if va / 2 ^ 55 ≠ 0 then trap cTFAULT va (faultWord 1 0 a.kind)
  let s ← get
  let own := (s.pkr 0x440).toNat % 128
  match tlbFind s.tlb a.unit a.asid va with
  | some e =>
    checkRegion own va a.kind e
    pure e
  | none =>
    match if isCopyUnit a.unit then none else tlbFind s.tlb (unitCluster a.cluster) a.asid va with
    | some e =>
      checkRegion own va a.kind e
      modify (fun s => { s with tlb := tlbInsert s.tlb a.unit e })
      pure e
    | none =>
      let e ← walk a.asid va a.kind
      checkRegion own va a.kind e
      modify (fun s =>
        let t := if isCopyUnit a.unit then s.tlb else tlbInsert s.tlb (unitCluster a.cluster) e
        { s with tlb := if a.unit = unitCluster a.cluster then t else tlbInsert t a.unit e })
      pure e

/-- The entry of connection `c` in the connection table (R464). -/
def connEntry (s : State) (c : Nat) : Nat := (s.pkr 0x856).toNat / 65536 * 65536 + 64 * c

/-- `HBASE` and `HLEN` of connection `c` (R464). -/
def hostBase (s : State) (c : Nat) : Nat := s.peekLE (connEntry s c + 0x20) 8
def hostLen (s : State) (c : Nat) : Nat := s.peekLE (connEntry s c + 0x28) 8

/-- `QPN`, the Ethernet port and `RKEY` of connection `c` (R464). -/
def hostKey (s : State) (c : Nat) : Nat × Nat × Nat :=
  (s.peekLE (connEntry s c) 3, fld (s.peekLE (connEntry s c + 4) 1) 3 1, s.peekLE (connEntry s c + 0x0C) 4)

/-- The host connection a host-window address names can be used (R464): `V`, `OUT` and an offset below `HLEN`. -/
def hostOk (s : State) (pa : Nat) : Bool :=
  let c := fld pa 40 8
  let fl := s.peekLE (connEntry s c + 4) 1
  (s.pkr 0x856).toNat / 65536 != 0 && bitOf fl 0 && bitOf fl 2 && decide (fld pa 0 40 < hostLen s c)

/-- The protection checks, in the order of R83 and R147: reason 2, then 3 or 4, then 1, then 5, then 6. -/
def protect (a : Acc) (va : Nat) (e : TlbEntry) : M Xl := do
  let s ← get
  let own := (s.pkr 0x440).toNat % 128
  let pa := e.pa + (va - e.base)
  let w := fun r => faultWord r (leafLevel e.size) a.kind
  if a.pl = 0 ∧ !bitOf e.perm 3 then trap cPROT va (w 2)
  if a.brOnly ∧ e.mt ≠ 1 then trap cPROT va (w 3)
  if a.noGlob ∧ e.glob then trap cPROT va (w 4)
  if e.home = own then
    let ok := match e.mt with
      | 0 => a.wb && (a.ls || !isLocal pa)
      | 1 => a.br
      | 2 => a.pt
      | _ => a.io
    if !ok then trap cPROT va (w 3)
  else if e.home = 127 then
    if !(a.host && e.mt == 3) then trap cPROT va (w 4)
    modify (fun s => noteRead s (connEntry s (fld pa 40 8)) 64)
    if !hostOk s pa then trap cPROT va (w 4)
  else
    if !((a.remWb && e.mt == 0) || (a.remBr && e.mt == 1)) then trap cPROT va (w 4)
  if (a.rd ∧ !bitOf e.perm 0) ∨ (a.wr ∧ !bitOf e.perm 1) ∨ (a.ex ∧ !bitOf e.perm 2) then trap cPROT va (w 1)
  let place : Place :=
    if e.home = own then
      (if isLocal pa then .localStore else if isIo pa then .io
       else if e.mt = 1 then .bank else if e.mt = 2 then .table else .home)
    else if e.home = 127 then .host (fld pa 40 8) else .remote e.home
  if place = .localStore then
    if (pa - 0x10000000000) / 0x800000 ≠ a.cluster then trap cPROT va (w 5)
    let g := pa % 0x800000 / 65536
    let lo := fld a.lspart 0 7
    if a.pl = 0 ∧ ¬(lo ≤ g ∧ g < lo + fld a.lspart 8 8) then trap cPROT va (w 6)
  pure { pa := pa, place := place, mt := e.mt, size := e.size, base := e.base, who := a.who, glob := e.glob }

/-- `Translate` of one byte, its translation coming from `look` (R55, R80, R83). -/
def xlate1By (look : Nat → M TlbEntry) (a : Acc) (va : Nat) : M Xl := do
  let e ← look va
  protect a va e

/-- `Translate` of one byte (R55, R80, R83). -/
def xlate1 (a : Acc) (va : Nat) : M Xl := xlate1By (lookupXl a) a va

/-- The bytes of a host-window piece that lie beyond its first end below `HLEN` too (R464): the lowest that does not faults. -/
def hostSpan (a : Acc) (va : Nat) (x : Xl) (size : Nat) : M Unit := do
  match x.place with
  | .host c =>
    let n := hostLen (← get) c - fld x.pa 0 40
    if n < size then trap cPROT ((va + n) % 2 ^ 64) (faultWord 4 (leafLevel x.size) a.kind)
  | _ => pure ()

/-- `Translate` of a range within one page (R55). -/
def xlateInBy (look : Nat → M TlbEntry) (a : Acc) (va size : Nat) : M Xl := do
  let x ← xlate1By look a va
  hostSpan a va x size
  pure x

def xlateIn (a : Acc) (va size : Nat) : M Xl := xlateInBy (lookupXl a) a va size

/-- `Translate` of a byte range: a list of pieces, none across a 64 KiB boundary; the lowest faulting byte traps (R55). -/
def xlateBy (look : Nat → M TlbEntry) (a : Acc) (va size : Nat) : M (List (Xl × Nat)) := do
  let va := va % 2 ^ 64
  let first := min size (65536 - va % 65536)
  let x ← xlateInBy look a va first
  if first = size then pure [(x, size)]
  else
    let y ← xlateInBy look a ((va + first) % 2 ^ 64) (size - first)
    pure [(x, first), (y, size - first)]

def xlate (a : Acc) (va size : Nat) : M (List (Xl × Nat)) := xlateBy (lookupXl a) a va size

/-- An error met after translation: an uncorrectable word (its W2 and W3, R388), or a failed remote access (W0 to W3, R461). -/
inductive AccErr where
  | bank (pa w3 : Nat)
  | link (w0 w1 w2 w3 : Nat)
deriving DecidableEq, Repr

/-- The address of a home's entry in the route table (R452). -/
def routeAt (s : State) (home : Nat) : Nat := (s.pkr 0x850).toNat / 65536 * 65536 + 16 * home

/-- The Up ports wired to a home (R452). -/
def upPorts (s : State) (home : Nat) : List Nat :=
  let mask := s.peekLE (routeAt s home) 16
  (range' 0 128).filter (fun p => bitOf mask p &&
    match Tab.find s.ports p with | some po => po.st == 2 | none => false)

/-- A message goes out on a port as a flit, which stays in the replay buffer until it is acknowledged; with 256 flits there, it waits (R24,
R449, R450). -/
def sendFlit (p : Nat) (m : OutMsg) (s : State) : State :=
  match Tab.find s.ports p with
  | none => s.send m
  | some q =>
    if 256 ≤ q.replay.length ∨ !q.backlog.isEmpty then { s with ports := Tab.set s.ports p { q with backlog := q.backlog ++ [m] } }
    else
      let n := (q.txSeq + 1) % 256
      ({ s with ports := Tab.set s.ports p { q with txSeq := n, replay := q.replay ++ [(n, m)] } } : State).send m

/-- The port of a message to a package: the one whose rank among the Up ports is the tag modulo their count (R452). -/
def portFor (s : State) (pkg tag : Nat) : Option Nat := let l := upPorts s pkg; l[tag % l.length]?

/-- Sends a transaction on the port R452 selects, or leaves it waiting when no port is Up. -/
def sendTxn (s : State) (t : Txn) : State × Txn :=
  let s := if t.home = 127 then noteRead s (connEntry s (fld t.pa 40 8)) 64 else noteRead s (routeAt s t.home) 16
  if t.home = 127 then
    let c := fld t.pa 40 8
    let h := (hostBase s c + fld t.pa 0 40) % 2 ^ 64
    let (qpn, port, rkey) := hostKey s c
    (s.send (if t.op = 0 then .hostRead c qpn port rkey h t.size else .hostWrite c qpn port rkey h t.size t.data),
      { t with st := 1, since := s.fordNow })
  else match portFor s t.home t.tag with
    | none => (s, { t with waitAt := some (t.waitAt.getD s.time.toNat) })
    | some p =>
      (sendFlit p (.request p t.home t.tag t.op t.pa t.mt (if t.op = 0 then 0 else t.dom) t.size t.data t.be) s,
        { t with st := if t.st = 0 then 1 else 2, port := p, since := s.fordNow, waitAt := none })

/-- The transaction of strand `sid` for this access, if it has one (R454). -/
def findTxn (s : State) (sid op va size : Nat) : Option Txn :=
  s.txns.find? (fun t => t.sid == sid && t.op == op && t.va == va && t.size == size && !t.posted && t.late.isNone && t.elems.isEmpty)

/-- Replaces or removes transactions by home and tag. -/
def dropTxn (s : State) (home tag : Nat) : State :=
  { s with txns := s.txns.filter (fun t => !(t.home == home && t.tag == tag)) }

/-- The next tag of a home: one that is 4,096 behind it must have completed (R456). -/
def takeTag (home : Nat) : M Nat := do
  let s ← get
  let t := Tab.get s.nextTag home % 65536
  let old := (t + 65536 - 4096) % 65536
  if s.txns.any (fun x => x.home == home && x.tag == old && x.done.isNone) then wait
  set { s with nextTag := Tab.set s.nextTag home ((t + 1) % 65536) }
  pure t

/-- Which tag an access takes: the one `FRTAG` holds when the strand has just returned from a trap and the access goes to that
home (R461), else the next of its home. -/
def tagFor (home : Nat) (reuse : Bool) : M Nat := do
  let st ← getSt
  let f := (st.cr 0x441).toNat
  if reuse ∧ st.resumed ∧ bitOf f 23 ∧ fld f 16 7 = home then
    modSt (fun st => { st.setCrN 0x441 (setFld f 23 1 0) with resumed := false })
    pure (f % 65536)
  else
    if reuse ∧ st.resumed then modSt (fun st => { st.setCrN 0x441 (setFld f 23 1 0) with resumed := false })
    takeTag home

/-- The requester's answered transactions have served their access, and are forgotten. -/
def State.endAccess (s : State) (who : Nat) : State :=
  { s with txns := s.txns.filter (fun t => t.sid != who || t.posted || t.late.isSome || t.done.isNone) }

/-- What a transaction has come to, for the access that it serves (R456, R461); the access waits for it. -/
def txnAnswer (t : Txn) (reuse : Bool) : M (Except AccErr Nat) := do
  match t.done with
  | none => wait
  | some (err, d) =>
    if err = 0 then pure (.ok d)
    else if err = 1 then pure (.error (.link 1 t.home t.tag 2))
    else if err = 2 then
      if reuse then modSt (fun st => st.setCrN 0x441 (t.tag + t.home * 65536 + 2 ^ 23))
      pure (.error (.link 2 t.home t.tag 1))
    else pure (.error (.bank (d % 2 ^ 52) (d / 2 ^ 52 % 4096 + t.home * 65536 + 2 ^ 31)))

/-- Sends a transaction under a tag of its home, and adds it to those outstanding (R456). -/
def openTxn (reuse : Bool) (t : Txn) : M Unit := do
  let tag ← tagFor t.home reuse
  let s ← get
  let (s, t) := sendTxn s { t with tag := tag, seq := s.tick * 64 + 63 }
  set { s with txns := s.txns ++ [t] }

/-- A transaction that has not been sent. -/
def newTxn (who dom home op pa mt size data be va : Nat) : Txn :=
  { home := home, tag := 0, op := op, pa := pa, mt := mt, size := size, data := data, be := be, dom := dom,
    va := va, sid := who, posted := false, st := 0, port := 0, since := 0, waitAt := none, done := none }

/-- An access performed outside the package for requester `who` (R454, R464): its transaction is sent at the first attempt, and the
requester waits until its completion, refusal or failure has come. The answer stands until the whole access is complete, so that an
access of several transactions performs each once. `reuse`: a scalar store, atomic or `RAMO`, which `FRTAG` covers. -/
def remoteAccess (who dom home op pa mt size data be va : Nat) (reuse : Bool) : M (Except AccErr Nat) := do
  let s ← get
  match findTxn s who op va size with
  | some t => txnAnswer t reuse
  | none =>
    openTxn reuse (newTxn who dom home op pa mt size data be va)
    wait

/-- Device IO registers begin here: `BERR` of bank n at base + 16 × n (R318). -/
abbrev berrBase : Nat := 0x20000100000

/-- An IO read: `BERR`, by naturally aligned doublewords only (R318); no chapter assigns any other register (R73). -/
def ioRead (pa size : Nat) : M Nat := do
  if berrBase ≤ pa ∧ pa < berrBase + 65536 then
    if size ≠ 8 ∨ pa % 8 ≠ 0 then pure 0
    else
      let s ← get
      let n := (pa - berrBase) / 16
      let b := s.bank n
      let v := b.berr.toNat
      if pa % 16 = 0 then pure (v % 2 ^ 64)
      else
        set (s.setBank n { b with berr := BitVec.ofNat 128 (setFld v 112 16 0) })
        pure (v / 2 ^ 64)
  else throw (.fault .unassignedDevice)

/-- The bits of `BERR` that a write of 1 clears (R318). -/
def berrClear (s : State) (n v : Nat) : State :=
  let b := s.bank n
  let o := b.berr.toNat
  let o := if bitOf v 0 then setFld o 0 1 0 else o
  let o := if bitOf v 1 then setFld o 1 1 0 else o
  s.setBank n { b with berr := BitVec.ofNat 128 o }

/-- An IO write (R318). -/
def ioWrite (pa size v : Nat) : M Unit := do
  if berrBase ≤ pa ∧ pa < berrBase + 65536 then
    if size = 8 ∧ pa % 16 = 0 then modify (fun s => berrClear s ((pa - berrBase) / 16) v)
  else throw (.fault .unassignedDevice)

/-- A read of bytes that lie in one 32-byte word, at their point of performance (R91). -/
def readWordAt (x : Xl) (size dom va : Nat) : M (Except AccErr Nat) := do
  match x.place with
  | .home | .table =>
    let (s, v, bad) := homeRead (← get) (x.pa / 64) dom (x.pa % 64) size
    set s
    if bad then pure (.error (.bank (x.pa / 32 * 32) (bankOf x.pa))) else pure (.ok v)
  | .bank =>
    if !centreOpen (← get) x.pa then wait
    let (s, v, bad) := bankRead (← get) x.pa size
    set s
    if bad then pure (.error (.bank (x.pa / 32 * 32) (bankOf x.pa))) else pure (.ok v)
  | .localStore => do return .ok (Mem.readLE (← get).mem x.pa size)
  | .io => do return .ok (← ioRead x.pa size)
  | .remote h => remoteAccess x.who dom h 0 x.pa x.mt size 0 (2 ^ size - 1) va false
  | .host _ => remoteAccess x.who dom 127 0 x.pa x.mt size 0 (2 ^ size - 1) va false

/-- A write of bytes that lie in one 32-byte word, at their point of performance (R91, R387, R388). -/
def writeWordAt (x : Xl) (size dom va v : Nat) (reuse : Bool) : M (Except AccErr Unit) := do
  match x.place with
  | .home | .table =>
    modify (fun s => homeWrite s (x.pa / 64) dom (x.pa % 64) size v)
    pure (.ok ())
  | .bank =>
    if !centreOpen (← get) x.pa then wait
    modify (fun s => bankWrite s x.pa size v)
    pure (.ok ())
  | .localStore =>
    modify (fun s => localWrite s x.pa size v)
    pure (.ok ())
  | .io => do
    ioWrite x.pa size v
    pure (.ok ())
  | .remote h => do
    match ← remoteAccess x.who dom h 1 x.pa x.mt size v (2 ^ size - 1) va reuse with
    | .ok _ => pure (.ok ())
    | .error e => pure (.error e)
  | .host _ => do
    match ← remoteAccess x.who dom 127 1 x.pa x.mt size v (2 ^ size - 1) va reuse with
    | .ok _ => pure (.ok ())
    | .error e => pure (.error e)

/-- The pieces of a range of bytes that lie in single 32-byte words: (offset from the start, length); the fuel bounds them. -/
def wordPieces (pa size : Nat) : Nat → List (Nat × Nat)
  | 0 => []
  | n + 1 =>
    if size = 0 then []
    else
      let k := min size (32 - pa % 32)
      (0, k) :: (wordPieces (pa + k) (size - k) n).map (fun p => (p.1 + k, p.2))

/-- The same for 64-byte lines. -/
def linePieces (pa size : Nat) : Nat → List (Nat × Nat)
  | 0 => []
  | n + 1 =>
    if size = 0 then []
    else
      let k := min size (64 - pa % 64)
      (0, k) :: (linePieces (pa + k) (size - k) n).map (fun p => (p.1 + k, p.2))

/-- The address of an error in a piece at `va`: its first byte in the failing word (R264, R388). -/
def AccErr.atByte (e : AccErr) (x : Xl) (va : Nat) : Nat :=
  match e with
  | .bank pa _ => va + (pa - x.pa)
  | .link _ _ _ _ => va

/-- Reads the translated pieces in ascending order into one little-endian value; the first error ends it, with the address of
the first byte of the failing word's part. -/
def readPieces (dom : Nat) : List (Xl × Nat) → Nat → M (Except (AccErr × Nat) Nat)
  | [], _ => pure (.ok 0)
  | (x, k) :: r, va => do
    match ← readWordAt x k dom va with
    | .error e => pure (.error (e, e.atByte x va))
    | .ok v =>
      match ← readPieces dom r (va + k) with
      | .error e => pure (.error e)
      | .ok w => pure (.ok (v % 2 ^ (8 * k) + w * 2 ^ (8 * k)))

/-- Writes the translated pieces in ascending order. -/
def writePieces (dom : Nat) (reuse : Bool) : List (Xl × Nat) → Nat → Nat → M (Except (AccErr × Nat) Unit)
  | [], _, _ => pure (.ok ())
  | (x, k) :: r, va, v => do
    match ← writeWordAt x k dom va (v % 2 ^ (8 * k)) reuse with
    | .error e => pure (.error (e, va))
    | .ok _ => writePieces dom reuse r (va + k) (v / 2 ^ (8 * k))

/-- How a range is cut at its place: at 32-byte words in the package, and at 64-byte lines outside it, where each piece is one
transaction (R454). -/
def Place.pieces (pl : Place) (pa size : Nat) : List (Nat × Nat) :=
  match pl with
  | .remote _ | .host _ => linePieces pa size (size + 1)
  | .home | .table | .bank | .localStore | .io => wordPieces pa size (size + 1)

/-- Cuts translated pieces so that each is performed as one. -/
def splitPieces (l : List (Xl × Nat)) : List (Xl × Nat) :=
  l.flatMap (fun p => (p.1.place.pieces p.1.pa p.2).map (fun q => ({ p.1 with pa := p.1.pa + q.1 }, q.2)))

/-- A translated read of any range (R55, R91). -/
def readRange (a : Acc) (va size : Nat) : M (Except (AccErr × Nat) Nat) := do
  let l ← xlate a va size
  readPieces a.dom (splitPieces l) va

/-- A translated write of any range (R55, R91). -/
def writeRange (a : Acc) (va size v : Nat) (reuse : Bool) : M (Except (AccErr × Nat) Unit) := do
  let l ← xlate a va size
  writePieces a.dom reuse (splitPieces l) va v

end Sys2Proof.Machine
end

