-- ==== Sys2Proof/Machine/Ops.lean ====
section
/-! DEFINITION. The shared operations of every meaning: the start of an instruction (prefix, privilege, interlocks), its
results and its end; taking a trap (R131, R132) and returning from one (R157). -/

namespace Sys2Proof.Machine

/-! ### Events of the Ford's own -/

/-- Posts an event record for the host (R134): it waits on the device until the host event queue has a free slot (R28). Events of
kinds 2, 5, 6 and 7 coalesce by subject (R28). -/
def postEvent (s : State) (e : HostEvent) : State :=
  let dup := (e.kind == 2 || e.kind == 5 || e.kind == 6 || e.kind == 7)
    && s.hostEvents.any (fun h => h.kind == e.kind && h.subject == e.subject)
  if dup then s
  else
    let s := { s with hostEvents := s.hostEvents ++ [e] }
    s.raise .hostEventPost

/-! ### Scalar accesses that are issued and not yet performed -/

/-- The bytes of two accesses overlap. -/
def overlaps (a m b n : Nat) : Bool := decide (a < b + n) && decide (b < a + m)

/-- The place keeps its bytes under physical addresses of the package: overlap of two accesses is overlap of their addresses. -/
def samePlace (x y : Place) (a m b n : Nat) : Bool := x == y && overlaps a m b n

/-- A transaction of the strand, on any of its paths, that was made before `seq` and is not complete (R101). -/
def openBefore (s : State) (st : Strand) (seq : Nat) : Bool :=
  s.txns.any (fun t => st.owns t.sid && t.done.isNone && decide (t.seq < seq))

/-- The entry is performed, or is not an access that was committed before `seq`. -/
def VEntry.cleared (seq : Nat) (v : VEntry) : Bool := decide (seq ≤ v.seq) || v.finished || !v.isMem

/-- The entry has consumed what it consumes, or was not committed before `seq` (R108, R440). -/
def VEntry.consumed (seq : Nat) (v : VEntry) : Bool := decide (seq ≤ v.seq) || v.finished || !v.acq

/-- Every access of a strand, on every path, that was issued or committed before `seq` has been performed (R101, R105), and what its entries
consume before then is consumed (R108); an entry that a trap has put into an image is performed when it has come back. -/
def earlierDoneOf (s : State) (st : Strand) (seq : Nat) : Bool :=
  st.loads.all (fun l => decide (seq ≤ l.seq)) && st.stores.all (fun o => decide (seq ≤ o.seq))
    && st.vq.all (fun v => v.cleared seq && v.consumed seq) && st.shadow.all (fun h => decide (h.1 < seq) || h.2.all (VEntry.cleared seq))
    && !openBefore s st seq

def earlierDone (s : State) (c seq : Nat) : Bool := earlierDoneOf s (s.strandAt c) seq

/-- An access to the place may be performed now: a bank that is held serves one centre visit in four rows (R313). -/
def Place.isOpen (pl : Place) (s : State) (pa : Nat) : Bool :=
  match pl with
  | .bank => centreOpen s pa
  | _ => true

/-- Store `e` of the buffer may be performed now: every earlier load and atomic has been (R99), no earlier store overlaps it
(R93), and a release store follows every earlier access on every path (R101). -/
def storeReady (s : State) (c : Nat) (e : StoreEntry) : Bool :=
  let st := s.strandAt c
  st.loads.all (fun l => decide (e.seq < l.seq))
    && st.stores.all (fun o => decide (e.seq ≤ o.seq) || !samePlace o.place e.place o.pa o.size e.pa e.size)
    && (!e.rel || earlierDone s c e.seq) && e.place.isOpen s e.pa

/-- Reads bytes of one 32-byte word in the package at their point of performance (R91), and says whether the word is uncorrectable
(R388). -/
def Place.readAt (pl : Place) (pa size dom : Nat) (s : State) : State × Nat × Bool :=
  match pl with
  | .home | .table => homeRead s (pa / 64) dom (pa % 64) size
  | .bank => bankRead s pa size
  | _ => (s, Mem.readLE s.mem pa size, false)

/-- Writes bytes of one 32-byte word in the package at their point of performance (R91). -/
def Place.writeAt (pl : Place) (pa size dom val : Nat) (s : State) : State :=
  match pl with
  | .home | .table => homeWrite s (pa / 64) dom (pa % 64) size val
  | .bank => bankWrite s pa size val
  | .localStore => localWrite s pa size val
  | _ => s

/-- Writes a buffered store's bytes at its point of performance (R91). -/
def StoreEntry.write (e : StoreEntry) (s : State) : State := e.place.writeAt e.pa e.size e.dom e.val s

/-- Performs store `k` of the buffer, when it may be (R92, R101, R154). -/
def performStore (c k : Nat) (s : State) : State :=
  let st := s.strandAt c
  match st.stores[k]? with
  | none => s
  | some e =>
    if storeReady s c e then e.write (s.setStrand c { st with stores := st.stores.eraseIdx k }) else s

/-- The value a load writes: sign- or zero-extended from its size (R154). -/
def extendLoad (zext : Bool) (size v : Nat) : Dword :=
  if zext then BitVec.ofNat 64 v else sext64 (8 * size) v

/-- What an atomic stores for the old value, the operand and the expected value, all of `size` bytes (R173). Operations are
numbered as in R171. -/
def amoNew (op size old opnd expd : Nat) : Nat :=
  let w := 8 * size
  let m := 2 ^ w
  let lt := decide (toSigned w old < toSigned w opnd)
  if op = 0 then (old + opnd) % m
  else if op = 1 then old &&& opnd
  else if op = 2 then old ||| opnd
  else if op = 3 then old ^^^ opnd
  else if op = 4 then (if lt then old else opnd)
  else if op = 5 then (if lt then opnd else old)
  else if op = 6 then min old opnd
  else if op = 7 then max old opnd
  else if op = 8 then opnd
  else if old = expd then opnd else old

/-- Load or atomic `e` may be performed now: no earlier load or atomic of its bytes is still to be performed (R95), no earlier store of its
bytes (R92), and, for an atomic, no earlier load or atomic at all (R99). -/
def loadReady (s : State) (c : Nat) (e : LoadEntry) : Bool :=
  let st := s.strandAt c
  st.loads.all (fun o => decide (e.seq ≤ o.seq) || (e.amo.isNone
      && !samePlace o.place e.place o.pa o.size e.pa e.size))
    && st.stores.all (fun o => decide (e.seq < o.seq) || !samePlace o.place e.place o.pa o.size e.pa e.size)
    && e.place.isOpen s e.pa

/-- The value of a performed load or atomic reaches its register, and the copy register (R154, R173). -/
def Strand.loaded (st : Strand) (e : LoadEntry) (v : Dword) : Strand :=
  match e.cpy with
  | some y => (st.setX e.dst v).setX y v
  | none => st.setX e.dst v

/-- The trap of a scalar load or atomic that has read an uncorrectable word after its instruction (R388). -/
def LoadEntry.bankTrap (e : LoadEntry) : Trap :=
  { cause := cBANKERR, eval := e.va, w0 := 0x11, w2 := e.pa / 32 * 32, w3 := bankOf e.pa, epc := some e.pc, latch := some e.latch, seq := e.seq }

/-- A trap found after its instruction joins the others, in the order of their instructions. -/
def insertLate (t : Trap) : List Trap → List Trap
  | [] => [t]
  | a :: r => if t.seq < a.seq then t :: a :: r else a :: insertLate t r

/-- Performs load or atomic `k` of those issued and not yet performed, when it may be: its value reaches `x[d]`, and the copy
register (R92, R93, R144, R154, R173). One that reads an uncorrectable word leaves both as they are, writes nothing, and traps (R388). -/
def performLoad (c k : Nat) (s : State) : State :=
  let st := s.strandAt c
  match st.loads[k]? with
  | none => s
  | some e =>
    if !loadReady s c e then s
    else
      let (s, v, bad) := e.place.readAt e.pa e.size e.dom s
      let st := { st with loads := st.loads.eraseIdx k }
      if bad then s.setStrand c { st with late := insertLate e.bankTrap st.late }
      else
        let s := match e.amo with
          | none => s
          | some (op, opnd, expd) => e.place.writeAt e.pa e.size e.dom (amoNew op e.size v opnd expd) s
        s.setStrand c (st.loaded e (extendLoad e.zext e.size v))

/-- Load `k` is performed before the final read of the plain wait that stands just before it (R99, R192), where it may be. -/
def performEarly (c k : Nat) (s : State) : State :=
  let st := s.strandAt c
  match st.loads[k]? with
  | none => s
  | some e => match e.old with
    | none => s
    | some v =>
      if loadReady s c e then s.setStrand c (({ st with loads := st.loads.eraseIdx k } : Strand).loaded e (extendLoad e.zext e.size v)) else s

/-- Performs the loads, atomics and stores that are issued and not yet performed, as far as they may be, in the order of issue. -/
def drainAll (c : Nat) : Nat → State → State
  | 0, s => s
  | n + 1, s =>
    let st := s.strandAt c
    match st.loads.findIdx? (loadReady s c), st.stores.findIdx? (storeReady s c) with
    | some k, some j =>
      match st.loads[k]?, st.stores[j]? with
      | some l, some o => drainAll c n (if l.seq < o.seq then performLoad c k s else performStore c j s)
      | _, _ => s
    | some k, none => drainAll c n (performLoad c k s)
    | none, some j => drainAll c n (performStore c j s)
    | none, none => s

/-- Performs every scalar access of the strand in context `c` that is still outstanding and may be performed. -/
def drainScalar (c : Nat) (s : State) : State :=
  drainAll c ((s.strandAt c).loads.length + (s.strandAt c).stores.length) s

/-- The current strand's earlier scalar accesses are performed before it goes on, as far as they may be (R101 to R103). -/
def settleStores : M Unit := modify (fun s => drainScalar s.cur s)

/-- The current strand goes on when all its earlier scalar accesses are performed. -/
def settleScalar : M Unit := do
  settleStores
  let st ← getSt
  if !st.loads.isEmpty || !st.stores.isEmpty then wait

/-- An access of `size` bytes at `pa` follows every earlier scalar access of the strand to one of its bytes (R92, R93, R95), and, for a
store or an atomic, every earlier load and atomic (R99). -/
def settleFor (place : Place) (pa size : Nat) (write : Bool) : M Unit := do
  let hit := fun (st : Strand) => (write && !st.loads.isEmpty)
    || st.loads.any (fun e => samePlace e.place place e.pa e.size pa size)
    || st.stores.any (fun e => samePlace e.place place e.pa e.size pa size)
  if hit (← getSt) then
    settleStores
    if hit (← getSt) then wait

/-! ### Elements of vector accesses that are under way (R201, R205) -/

/-- The fields of a valid latch (R47, R49). -/
def latchV (l : Word) : Bool := bitOf l.toNat 31
def latchInv (l : Word) : Bool := bitOf l.toNat 25
def latchMask (l : Word) : Nat := fld l.toNat 22 3
def latchDup (l : Word) : Bool := bitOf l.toNat 21
def latchCopy (l : Word) : Nat := fld l.toNat 16 5

/-- Element `e` of width `w` bytes of a vector register (R193). -/
def Strand.velem (st : Strand) (r w e : Nat) : Nat := fld (Tab.get st.v r).toNat (8 * w * e) (8 * w)

/-- Writes an element of a vector register. -/
def Strand.setVelem (st : Strand) (r w e v : Nat) : Strand :=
  { st with v := Tab.set st.v r (BitVec.ofNat 131072 (setFld (Tab.get st.v r).toNat (8 * w * e) (8 * w) v)) }

/-- Writes an element of the destination of entry `en`, and of the lent copy (R51). -/
def Strand.putOn (st : Strand) (en : VEntry) (vd w e v : Nat) : Strand :=
  let st := st.setVelem vd w e v
  if latchV en.lent && latchDup en.lent then st.setVelem (latchCopy en.lent) w e v else st

/-- An entry remembers the enabled flags that element `e` raises, and the lowest element that raised one (R208); `te` is `RM.TE`. -/
def VEntry.noteFlags (en : VEntry) (te fl e : Nat) : VEntry :=
  if fl &&& te = 0 then en
  else { en with flags := ((en.flags % 64) ||| (fl &&& te)) + 64 * (if en.flags / 64 = 0 then e + 1 else en.flags / 64) }

/-- `RM.TE`. -/
def Strand.trapEnable (st : Strand) : Nat := fld (st.cr 0x107).toNat 8 6

/-- A held result becomes visible, with its flags (R201, R208). -/
def showOne (a : Strand × VEntry) (h : HeldElem) : Strand × VEntry :=
  if h.w = 0 then a
  else ((a.1.putOn a.2 h.reg h.w h.elem h.val).accrue h.fl, a.2.noteFlags a.1.trapEnable h.fl h.elem)

/-- The held results of the elements below `q` become visible in ascending order, and the progress index goes to `q` (R201). -/
def showHeld (q : Nat) (st : Strand) (en : VEntry) : Strand × VEntry :=
  let (st, en) := (en.held.filter (fun h => decide (h.elem < q))).foldl showOne (st, en)
  (st, { en with p := q, held := en.held.filter (fun h => decide (q ≤ h.elem)) })

/-- A performed element joins those held, which stand in ascending order. -/
def holdElem (h : HeldElem) : List HeldElem → List HeldElem
  | [] => [h]
  | a :: r => if h.elem < a.elem then h :: a :: r else a :: holdElem h r

/-- Reads the parts of a begun element: the value, and whether a word of it is uncorrectable. -/
def readBegun (dom : Nat) : List (Nat × Place × Nat) → State → State × Nat × Bool
  | [], s => (s, 0, false)
  | (pa, pl, k) :: r, s =>
    let (s, v, bad) := pl.readAt pa k dom s
    if bad then (s, 0, true)
    else
      let (s, w, bad) := readBegun dom r s
      (s, v % 2 ^ (8 * k) + w * 2 ^ (8 * k), bad)

/-- Writes the parts of a begun element. -/
def writeBegun (dom : Nat) : List (Nat × Place × Nat) → Nat → State → State
  | [], _, s => s
  | (pa, pl, k) :: r, v, s => writeBegun dom r (v / 2 ^ (8 * k)) (pl.writeAt pa k dom (v % 2 ^ (8 * k)) s)

/-- At a halt, an unordered access finishes the elements it has begun, in ascending order (R205): the entry, and the element at which it
met an uncorrectable word, if it did. -/
def finishBegun : List BegunElem → State → VEntry → State × VEntry × Option Nat
  | [], s, en => (s, en, none)
  | b :: r, s, en =>
    let (s, old, bad) := if b.op = 1 then (s, 0, false) else readBegun b.dom b.parts s
    if bad then (s, en, some b.elem)
    else
      let s :=
        if b.op = 0 then s
        else writeBegun b.dom b.parts (if b.op = 1 then b.val else amoNew (b.op - 2) b.size old b.val 0) s
      let h : HeldElem := { elem := b.elem, reg := b.reg, w := if b.op = 0 then b.size else 0, val := old, fl := 0 }
      finishBegun r s { en with held := holdElem h en.held }

/-- Entry `k` of the vector queue of context `c` comes to a prefix (R205): what it has performed is visible, and its progress index
stands behind it. -/
def haltEntry (c : Nat) (s : State) (k : Nat) : State :=
  match (s.strandAt c).vq[k]? with
  | none => s
  | some en =>
    let (s, en, bad) := finishBegun en.begun s en
    let q := match bad, en.held.getLast? with
      | some f, _ => f
      | none, some h => h.elem + 1
      | none, none => en.p
    let (st, en) := showHeld q (s.strandAt c) en
    s.setStrand c { st with vq := st.vq.set k { en with held := [], begun := [] } }

/-- Every entry of the vector queue of context `c` comes to a prefix (R205). -/
def haltEntries (c : Nat) (s : State) : State := (range' 0 (s.strandAt c).vq.length).foldl (haltEntry c) s

/-! ### Taking a trap -/

/-- The `FSPLIT` bit of a cause, if it has one (R130). -/
def fsplitBit (cause : Nat) : Option Nat :=
  if cause = cTFAULT ∨ cause = cPROT then some 0
  else if cause = cSEQTRAP then some 3
  else if cause = cBANKERR then some 4
  else none

/-- The four doublewords of a vector-queue image entry (R132). -/
def imageWords (e : VEntry) : List Nat :=
  [e.addr, e.word.toNat + e.lent.toNat * 2 ^ 32, e.p % 2 ^ 32 + e.vl % 2 ^ 32 * 2 ^ 32,
    e.op1.toNat % 2 ^ 32 + e.op2.toNat % 2 ^ 32 * 2 ^ 32]

/-- The two doublewords of its extension (R132). -/
def imageExtWords (e : VEntry) : List Nat :=
  [e.op1.toNat / 2 ^ 32 + e.op2.toNat / 2 ^ 32 * 2 ^ 32,
    e.tl % 65536 + e.vstart % 65536 * 2 ^ 16 + (if e.fixed then 2 ^ 32 else 0)]

/-- The doubleword of a saved read-queue entry (R169); `SRC` is the index of the producing entry in the image. -/
def readQWord (vq : List VEntry) (e : ReadEntry) : Nat :=
  e.dst + (vq.findIdx (fun v => v.seq == e.src)) % 32 * 2 ^ 8 + 2 ^ 15 + (if e.cv then e.cpy * 2 ^ 16 + 2 ^ 21 else 0)

/-- What a trap record holds besides the strand's own state. -/
structure RecordHead where
  epc : Nat
  ecause : Nat
  eval : Nat
  estat : Nat
  w : List Nat
  rpc : Nat
  /-- The trapping entry is the head of the image. -/
  entry : Bool
  ext : List Nat
  /-- At pre-emption: the user-visible control registers (R132). -/
  crs : Option (List Nat)

/-- Doubleword `k` of the trap record (R132). -/
def recordWord (st : Strand) (r : RecordHead) (k : Nat) : Nat :=
  if k = 0 then r.epc
  else if k = 1 then r.ecause
  else if k = 2 then r.eval
  else if k = 3 then r.estat
  else if k < 8 then r.w.getD (k - 4) 0
  else if k = 8 then
    st.latch.toNat + (st.vq.length % 64 + st.readQ.length % 16 * 2 ^ 8 + (if r.entry then 2 ^ 16 else 0)) * 2 ^ 32
  else if k = 9 then (match st.vq with | [] => st.vstart | e :: _ => e.p)
  else if k = 10 then r.rpc
  else if k < 32 then 0
  else if k < 64 then (st.xr (k - 32)).toNat
  else if k < 72 then (match st.readQ[k - 64]? with | some e => readQWord st.vq e | none => 0)
  else if k < 128 then 0
  else if k < 256 then (match st.vq[(k - 128) / 4]? with | some e => (imageWords e).getD ((k - 128) % 4) 0 | none => 0)
  else if k < 320 then (match r.crs with | some l => l.getD (k - 256) 0 | none => 0)
  else if k < 384 then r.ext.getD (k - 320) 0
  else if k < 448 then (match st.vq[(k - 384) / 2]? with | some e => (imageExtWords e).getD ((k - 384) % 2) 0 | none => 0)
  else 0

/-- Line `j` of the record as a number of 64 bytes. -/
def recordLine (st : Strand) (r : RecordHead) (j : Nat) : Nat :=
  (range' 0 8).foldr (fun i v => recordWord st r (8 * j + i) + v * 2 ^ 64) 0

/-- Writes the record of `st` at physical address `a`; bytes 0x800 to 0x9FF stay as they are but at a pre-emption (R132). -/
def writeRecord (s : State) (a : Nat) (st : Strand) (r : RecordHead) : State :=
  (range' 0 64).foldl (fun s j =>
    if 32 ≤ j ∧ j < 40 ∧ r.crs.isNone then s else physWrite s (a + 64 * j) 64 (recordLine st r j)) s

/-- The image and the read queue as the record has taken them: the queue is emptied; values that were produced are in the
registers (R131, R169), and `VSTART` holds the head's progress index (R206). -/
def haltQueue (st : Strand) : Strand :=
  let st := st.readQ.foldl (fun st e =>
    match e.val with
    | some v => (if e.cv then (st.setX e.dst v).setX e.cpy v else st.setX e.dst v)
    | none => st) st
  let st := { st with readQ := st.readQ.filter (fun e => e.val.isNone), want := none }
  match st.vq with
  | [] => st
  | e :: _ => st.setCrN 0x104 (e.p % 65536)

/-- The order number of what the current step issues or commits. -/
def State.seqNow (s : State) : Nat := s.tick * 64 + 63

/-- The queue has been put into a record: the engine keeps what the image cannot show (R207, R208), and an `LKX` leaves its place at the
sequencers (R313, R338). -/
def clearQueue (seq : Nat) (st : Strand) : Strand :=
  { st with
    vq := [], readQ := [], bsync := none, behind := none, shadow := (seq, st.vq) :: st.shadow
    bankQ := st.bankQ.map (fun e => if e.isLkx then { e with parts := [] } else e) }

/-- `ESTAT` or `MSTAT` as read: the current level is one value per context (R128, R129). -/
def Strand.stat (st : Strand) (n : Nat) : Nat := setFld (st.cr n).toNat 0 2 st.pl.toNat

/-- Sets `PPL`, `INH` and `DFR` of `ESTAT` or `MSTAT`. -/
def Strand.setStat (st : Strand) (n ppl : Nat) (inh dfr : Bool) : Strand :=
  st.setCrN n (ppl * 4 + (if inh then 16 else 0) + (if dfr then 32 else 0))

/-- The physical address of the trap record that `TREC` or `MTREC` names. -/
def Strand.recordAt (st : Strand) (n : Nat) : Nat := fld (st.cr n).toNat 12 40 * 4096

/-- A TIMER trap is pending, and can be delivered (R142): at user level, at supervisor level with `INH` = 0, or in `IDLE`. DEDUCED (log 62): at
machine level outside `IDLE`, which R142 does not name, it stays pending. -/
def Strand.timerDue (st : Strand) (now : Dword) : Bool :=
  (st.timer || decide (st.cr 0x807 ≤ now))
    && (st.pl == 0 || (st.pl == 1 && !bitOf (st.stat 0x804) 4) || (match st.run with | .idle _ => true | _ => false))

/-- A trap ends an `IDLE`, which has then completed (R158). -/
def Strand.woken (st : Strand) : Strand :=
  match st.run with
  | .idle _ => { st with pc := st.pc + 4, latch := 0, resumed := false, behind := none, run := .run }
  | _ => st

/-- The strand's vector entries forget the transactions that have failed: an element that has trapped is sent again when it is resumed
(R461). -/
def dropFailed (s : State) : State :=
  { s with txns := s.txns.filter (fun t => !(decide (16384 ≤ t.sid) && s.st.owns t.sid && (match t.done with
      | some (e, _) => e != 0
      | none => false))) }

/-- What becomes of the other traps of a strand when one of those found after their instructions is taken: the instructions that follow are
executed again; a hardware error stays. The trap of a store that may have been performed leaves its tag in `FRTAG` (R461). -/
def Strand.tookLate (t : Trap) (st : Strand) : Strand :=
  let st := { st with late := st.late.tail.filter (fun x => x.cause == cMCHK) }
  if t.epc.isSome && t.cause == cLINKERR && t.w0 == 2 then st.setCrN 0x441 (t.w2 + t.w1 * 65536 + 2 ^ 23) else st

/-- Takes a trap (R131). The strand's outstanding accesses are performed first; the trap of one that fails then comes before (log 56). The
record's latch is the one that the instruction at `EPC` has consumed, where that is not the next instruction (R49, R132). -/
def deliver (s : State) (t : Trap) : State :=
  let s := drainScalar s.cur (s.mapSt Strand.woken)
  let t := s.st.late.headD t
  let s := s.mapSt (Strand.tookLate t)
  let s := haltEntries s.cur (dropFailed (s.endAccess s.st.owner))
  let st := haltQueue s.st
  let st := match t.latch with
    | some l => { st with latch := l }
    | none => st
  let epc := match t.entry, t.epc with
    | some a, _ => a
    | none, some a => a
    | none, none => st.pc.toNat
  let dfr := t.entry.isSome
  let estat := st.stat 0x804
  let parks := match fsplitBit t.cause with
    | some b => bitOf (s.pkr 0x800).toNat b && st.pl == 0
    | none => false
  let nested := st.pl.toNat ≥ 1 && bitOf estat 4
  if parks then
    let st := ((st.setCrN 0x801 epc).setCrN 0x802 t.cause).setCrN 0x803 t.eval
    let st := st.setStat 0x804 (fld estat 2 2) (bitOf estat 4) dfr
    let bit := (fsplitBit t.cause).getD 0
    let r : RecordHead :=
      { epc := epc, ecause := t.cause, eval := t.eval, estat := st.stat 0x804, w := [t.w0, t.w1, t.w2, t.w3],
        rpc := st.pc.toNat, entry := dfr, ext := t.ext, crs := none }
    let trec := st.recordAt 0x805
    let s := writeRecord s trec st r
    let st := { clearQueue s.seqNow st with run := .parked bit, latch := 0, deadline := none }
    postEvent (s.setSt st)
      { kind := bit, queue := 0, subject := st.sid, ecause := t.cause, eval := t.eval, trec := trec }
  else if t.cause = cMCHK ∨ nested then
    let conv := t.cause ≠ cMCHK
    let meval := if conv then 0x0200 + t.cause else t.eval
    let st := ((st.setCrN 0xC01 epc).setCrN 0xC02 cMCHK).setCrN 0xC03 meval
    let st := st.setStat 0xC04 st.pl.toNat true dfr
    let r : RecordHead :=
      { epc := epc, ecause := cMCHK, eval := meval, estat := st.stat 0xC04,
        w := if conv then [] else [t.w0, t.w1, t.w2, t.w3], rpc := st.pc.toNat, entry := dfr,
        ext := if conv then [t.eval, t.w0, t.w1, t.w2, t.w3] else t.ext, crs := none }
    let s := writeRecord s (st.recordAt 0xC05) st r
    s.setSt { clearQueue s.seqNow st with
      pl := 2, pc := st.cr 0xC06, latch := 0, run := .run, deadline := none, resumed := false }
  else
    let st := ((st.setCrN 0x801 epc).setCrN 0x802 t.cause).setCrN 0x803 t.eval
    let st' := st.setStat 0x804 st.pl.toNat (bitOf estat 4) dfr
    let r : RecordHead :=
      { epc := epc, ecause := t.cause, eval := t.eval, estat := setFld (setFld estat 5 1 (if dfr then 1 else 0)) 0 2 st.pl.toNat,
        w := [t.w0, t.w1, t.w2, t.w3], rpc := st.pc.toNat, entry := dfr, ext := t.ext, crs := none }
    let s := writeRecord s (st.recordAt 0x805) st r
    let st' := st'.setStat 0x804 st.pl.toNat true dfr
    s.setSt { clearQueue s.seqNow st' with
      pl := 1, pc := st.cr 0x806, latch := 0, run := .run, deadline := none, resumed := false }

/-- The current strand's instruction has begun an access outside the package, which is performed once (R458). -/
def begunAccess (s : State) : Bool := s.txns.any (fun t => t.sid == s.st.owner && !t.posted && t.late.isNone)

/-- The current strand's instruction has begun something that it finishes before a trap is taken between instructions. -/
def underWay (s : State) : Bool := s.st.bsync.isSome || begunAccess s

/-- A trap of the current strand waits for the transactions of its vector queue and of its stores, and for loads that a held bank delays: an
access that has begun is finished (R205, R313), and a store's LINKERR comes at its instruction (R461). -/
def haltWaits (s : State) : Bool :=
  (!s.st.loads.isEmpty && !(drainScalar s.cur s).st.loads.isEmpty) || s.txns.any (fun t => t.done.isNone && (t.late.isSome && t.sid == s.st.owner || decide (16384 ≤ t.sid) && s.st.owns t.sid))

/-- A trap is taken, or, while it waits, nothing has happened: it is found again. -/
def trapOr (before after : State) (t : Trap) : State := if haltWaits before then before else deliver after t

/-- Ends a meaning: the next state, a trap taken, a strand that is not ready and stays, a fault or a refusal. -/
def finish (m : M Unit) (s : State) : Host.Outcome State Fault Refusal :=
  match m s with
  | .ok _ s' => .next s'
  | .error (.trap t) s' => .next (trapOr s s' t)
  | .error .wait s' => .next s'
  | .error (.fault f) _ => .fault f
  | .error (.refuse r) _ => .refused r

/-- Ends the meaning of an instruction that may reach outside the package: when it is complete or traps, the strand's answered
transactions have served it. -/
def finishAccess (m : M Unit) (s : State) : Host.Outcome State Fault Refusal :=
  match m s with
  | .ok _ s' => .next (s'.endAccess s'.st.owner)
  | .error (.trap t) s' => .next (trapOr s s' t)
  | .error .wait s' => .next s'
  | .error (.fault f) _ => .fault f
  | .error (.refuse r) _ => .refused r

/-- The trap of an access that was performed after its instruction, if there is one, comes before what follows (log 56). -/
def deliverLate : M Unit := do
  match (← getSt).late with
  | [] => pure ()
  | t :: _ => throw (.trap t)

/-! ### The start and the end of an instruction -/

/-- The kinds of register a prefix can name or meet (R50). -/
inductive RegKind where
  | x
  | v
  | m
deriving DecidableEq, Repr

/-- What the start of an instruction must know (R44, R50, R168). -/
structure Info where
  reads : List (RegKind × Nat) := []
  dest : Option (RegKind × Nat) := none
  /-- The mask field, for an instruction that has a mask operand. -/
  mask : Option Nat := none
  /-- Supervisor and machine level only. -/
  priv : Bool := false
  /-- A base register that a vector entry writes back, through the read queue and without a lent copy (R272, R273). -/
  back : Option Nat := none
  /-- A scalar store, an atomic or `RAMO`: it consumes `FRTAG` itself (R461). -/
  tagged : Bool := false
  /-- `PFX`, to which no prefix may be lent. -/
  pfx : Bool := false

/-- The prefix lent to the instruction is permitted for it (R50). The lent predicate and the mask register that its own mask field names
count among the registers it reads. -/
def prefixOk (l : Word) (i : Info) : Bool :=
  if !latchV l then true
  else
    let k := latchMask l
    let c := latchCopy l
    let predOk := k = 0 ∨ i.mask = some 0
    let dupOk := match i.dest with
      | none => false
      | some (kind, d) =>
        let masks := (if k = 0 then [] else [k]) ++ (match i.mask with | some f => if f = 0 then [] else [f] | none => [])
        let reads := masks.map (fun k => (RegKind.m, k)) ++ i.reads
        !(kind == .x && c == 0) && !(kind == .m && (c == 0 || decide (7 < c))) && c != d
          && !(reads.contains (kind, c))
    !i.pfx && decide predOk && (!latchDup l || dupOk)

/-- The scalar registers whose results are pending for an instruction: those of loads not yet performed (R144), and, for a scalar
instruction, those of the read queue (R168); an instruction of another queue captures the register as it stands (R300). -/
def pendingX (st : Strand) (scalar : Bool) : List Nat :=
  (if scalar then st.readQ.flatMap (fun e => if e.cv then [e.dst, e.cpy] else [e.dst]) else [])
    ++ st.loads.flatMap (fun e => match e.cpy with | some c => [e.dst, c] | none => [e.dst])

/-- An instruction that the strand itself executes, by its word: majors 0x00 to 0x1A and 0x3F (R18, R168). -/
def isScalarWord (word : Nat) : Bool := word / 2 ^ 26 ≤ 0x1A || word / 2 ^ 26 == 0x3F

/-- The scalar registers that the instruction reads or writes, a lent copy with them (R168). -/
def touchedX (l : Word) (i : Info) : List Nat :=
  let d := match i.dest with
    | some (.x, d) => if latchV l && latchDup l then [d, latchCopy l] else [d]
    | _ => []
  d ++ i.back.toList ++ i.reads.filterMap (fun r => if r.1 = .x then some r.2 else none)

/-- A scalar register that the instruction touches has a pending result. -/
def hazard (st : Strand) (word : Nat) (i : Info) : Bool :=
  (touchedX st.latch i).any (fun r => r != 0 && (pendingX st (isScalarWord word)).contains r)

/-- Checks 7 and 8 of R44, in order: the cause and the reason of the trap, if one fails. -/
def admitFails (st : Strand) (i : Info) : Option (Nat × Nat) :=
  if !prefixOk st.latch i then some (cILL, 6)
  else if i.priv && st.pl == 0 then some (cPRIV, 0)
  else none

/-- An instruction other than those `FRTAG` covers clears `FRTAG.V` when it is the one at which `ERET` resumed (R461). -/
def dropTag (i : Info) (st : Strand) : Strand :=
  if st.resumed && !i.tagged then { st.setCrN 0x441 (setFld (st.cr 0x441).toNat 23 1 0) with resumed := false } else st

/-- The start of every instruction: the checks on the prefix and on privilege (R44, R50), then the interlock with pending
results (R144, R168). -/
def start (word : Nat) (i : Info) : M Unit := do
  let st ← getSt
  match admitFails st i with
  | some (c, r) => trap c word r
  | none =>
    if hazard st word i then wait
    modSt (dropTag i)

/-- The end of an instruction: the latch is consumed and `PC` advances (R36, R49). -/
def Strand.advance (st : Strand) : Strand := { st with pc := st.pc + 4, latch := 0, resumed := false, behind := none }

def advance : M Unit := modSt Strand.advance

/-- Writes the d result, and the copy register when one is lent (R51). -/
def Strand.putX (st : Strand) (d : Nat) (v : Dword) : Strand :=
  if latchV st.latch && latchDup st.latch then (st.setX d v).setX (latchCopy st.latch) v else st.setX d v

/-- Ends an instruction whose result goes to `x[d]`. -/
def Strand.result (st : Strand) (d : Nat) (v : Dword) : Strand := (st.putX d v).advance

/-- An access of the strand met an error after translation: BANKERR of a scalar access (R388), or LINKERR (R461). -/
def scalarErr {α : Type} (e : AccErr) (va : Nat) : M α :=
  match e with
  | .bank pa w3 => trap cBANKERR va 0x11 0 pa w3
  | .link w0 w1 w2 w3 => trap cLINKERR va w0 w1 w2 w3

/-! ### Returning from a trap -/

/-- A doubleword of a record in memory; the words of one that cannot be read are free values (log 58). -/
def recRead (s : State) (a : Nat) : State × Nat := physReadFree s a 8

/-- Reads `n` doublewords from address `a`. -/
def recReads (s : State) (a : Nat) : Nat → State × List Nat
  | 0 => (s, [])
  | n + 1 =>
    let (s, v) := recRead s a
    let (s, l) := recReads s (a + 8) n
    (s, v :: l)

/-- An image entry from its four doublewords and its extension's two (R132, R207). The record does not hold `VLMAX`, which sets the width
of a `VAMO`; an entry that the engine does not know again takes the strand's (R275). -/
def entryOfImage (st : Strand) (w : List Nat) (x : List Nat) : VEntry :=
  let g := fun k => w.getD k 0
  let h := fun k => x.getD k 0
  { addr := g 0, word := BitVec.ofNat 32 (g 1), lent := BitVec.ofNat 32 (g 1 / 2 ^ 32),
    p := g 2 % 2 ^ 32, vl := g 2 / 2 ^ 32,
    op1 := BitVec.ofNat 64 (g 3 % 2 ^ 32 + h 0 % 2 ^ 32 * 2 ^ 32),
    op2 := BitVec.ofNat 64 (g 3 / 2 ^ 32 + h 0 / 2 ^ 32 * 2 ^ 32),
    tl := fld (h 1) 0 16, vstart := fld (h 1) 16 16, fixed := bitOf (h 1) 32, flags := 0, finished := false,
    claim := none, lw := some (fld (st.cr 0x101).toNat 16 3), marker := none, seq := 0, acq := true }

/-- An entry that was complete when it was put into an image is complete when it comes back, where its index and counts are unaltered (R207). -/
def VEntry.stillDone (h e : VEntry) : Bool := h.finished && h.p == e.p && h.vl == e.vl && h.vstart == e.vstart

/-- The image's entries in their places: one whose word and address are those the engine knows keeps what it holds for it (R207,
R208, R269). -/
def reattach : List VEntry → List VEntry → List VEntry
  | h :: hs, e :: es =>
    (if h.word == e.word && h.addr == e.addr then
      { e with flags := h.flags, finished := h.stillDone e, claim := h.claim, lw := h.lw, marker := h.marker, key := h.key, seq := h.seq, acq := h.acq }
    else if h.word == e.word then { e with claim := h.claim }
    else e) :: reattach hs es
  | _, es => es

/-- The claims of the latest image (R269). -/
def claimsOf (l : List VEntry) : List (Word × Nat × Nat) :=
  l.filterMap (fun e => e.claim.map (fun c => (e.word, c, e.vl)))

/-- The image of `n` entries in the record at `a`. -/
def readImage (s : State) (st : Strand) (a : Nat) (k : Nat) : Nat → State × List VEntry
  | 0 => (s, [])
  | n + 1 =>
    let (s, w) := recReads s (a + 0x400 + 32 * k) 4
    let (s, x) := recReads s (a + 0xC00 + 16 * k) 2
    let (s, l) := readImage s st a (k + 1) n
    (s, entryOfImage st w x :: l)

/-- A read-queue entry from the record, whose image is `img` (R169). -/
def readQOf (img : List VEntry) (v : Nat) : ReadEntry :=
  { dst := fld v 0 5, src := ((img[fld v 8 5]?).map (fun e => e.seq)).getD 0, cpy := fld v 16 5, cv := bitOf v 21, val := none }

/-- The state a record restores: registers, latch, read queue, vector queue image, `VSTART` (R157, R207). Bits [30:26] of a latch that software has
set in the record, which R49 shows as zero, are taken and later saved as they are (DESIGN CHOICE, log 66). -/
def restoreRecord (s : State) (st : Strand) (a : Nat) : State × Strand :=
  let (s, xs) := recReads s (a + 0x108) 31
  let (s, h) := recReads s (a + 0x40) 3
  let latch := h.getD 0 0 % 2 ^ 32
  let cnt := h.getD 0 0 / 2 ^ 32
  let vst := h.getD 1 0
  let (s, rq) := recReads s (a + 0x200) (min 8 (fld cnt 8 4))
  let (s, img) := readImage s st a 0 (min 32 (fld cnt 0 6))
  let img := match img with
    | [] => []
    | e :: r => { e with p := vst % 2 ^ 32 } :: r
  let img := img.mapIdx (fun i (e : VEntry) =>
    { e with seq := s.tick * 64 + i, key := s.tick * 64 + i, p0 := e.p })
  let img := reattach ((st.shadow.head?.map (fun h => h.2)).getD []) img
  let st := { st with
    x := ((range' 1 31).zip xs).map (fun (p : Nat × Nat) => (p.1, BitVec.ofNat 64 p.2))
    latch := BitVec.ofNat 32 latch
    readQ := (rq.filter (fun v => bitOf v 15)).map (readQOf img)
    vq := img
    shadow := st.shadow.tail }
  (s, if img.isEmpty then st.setCrN 0x104 (vst % 65536) else st.setCrN 0x104 0)

/-- The doubleword `RPC` of the record at `a`. -/
def recordRpc (s : State) (a : Nat) : State × Nat := recRead s (a + 0x50)

/-- Returns from a trap (R157). `word` is the word that `EVAL` names. -/
def trapReturn (word : Nat) : M Unit := do
  let s ← get
  let st := s.st
  let mach := st.pl = 2
  let (nStat, nEpc, nRec) := if mach then (0xC04, 0xC01, 0xC05) else (0x804, 0x801, 0x805)
  let stat := st.stat nStat
  let ppl := fld stat 2 2
  if st.pl.toNat < ppl ∨ ppl = 3 then trap cPRIV word
  let a := st.recordAt nRec
  let (s, rpc) := recordRpc s a
  let t := if bitOf stat 5 then rpc else (st.cr nEpc).toNat
  if t % 4 ≠ 0 then
    set s
    trap cALIGN t
  let (s, st') := restoreRecord s st a
  let st' := st'.setStat nStat ppl false false
  set (s.setSt { st' with pl := BitVec.ofNat 2 ppl, pc := BitVec.ofNat 64 t, resumed := true })

end Sys2Proof.Machine
end

