-- ==== Sys2Proof/Machine/Slots.lean ====
section
/-! DEFINITION. The stream slots of the copy engines as their strands see them: finding a strand's stream and the registers that
show it (R355, R361, R374). -/

namespace Sys2Proof.Machine

/-- The slot key of a cluster's engine: engine × 8 + slot. -/
abbrev slotKey (eng k : Nat) : Nat := eng * 8 + k

/-- The slot that the strand of owner number `who` has bound to stream register `k` in engine `eng`, with its key. -/
def State.slotOf (s : State) (eng who k : Nat) : Option (Nat × Slot) :=
  s.slots.find? (fun p => decide (p.1 / 8 = eng) && p.2.owner == some (who, k) && !p.2.draining)

/-- Elements that are available: whole strips (R361). -/
def Slot.made (p : Slot) : Nat := min (p.strips * p.strip) p.len

/-- Elements that are available and not claimed: A (R361). -/
def Slot.avail (p : Slot) : Nat := p.made - p.claimed

/-- The stream is internal to a chain (R360): it is not the last of a read chain, or not the first of a write chain. -/
def Slot.internal (p : Slot) : Bool := if p.write then p.up.isSome else p.down.isSome

/-- The stream is exhausted (R361). -/
def Slot.exhausted (p : Slot) : Bool := !p.write && p.claimed == p.len

/-- The stream is Faulted, also while the held access is tried again (R372). -/
def Slot.faulted (p : Slot) : Bool := p.fault.isSome || p.retry

/-- `STATE` of `SST` (R373, R374). -/
def Slot.state (p : Slot) : Nat :=
  if p.internal then 3
  else if p.faulted then 5
  else if p.write then 2
  else if p.exhausted then 4
  else 1

/-- `SSTk` (R374). -/
def sstWord (s : State) (eng who k : Nat) : Nat :=
  match s.slotOf eng who k with
  | none => 0
  | some (key, p) =>
    let up := match p.up with
      | none => 0
      | some u => match (Tab.find s.slots u).bind (fun q => q.owner) with
        | some (_, r) => r * 2 ^ 12 + 2 ^ 16
        | none => 0
    p.state + key % 8 * 2 ^ 4 + p.xf * 2 ^ 8 + up + p.fl % 64 * 2 ^ 24 + p.avail % 2 ^ 17 * 2 ^ 32

/-- `SPOSk` (R374). -/
def sposWord (s : State) (eng who k : Nat) : Nat :=
  match s.slotOf eng who k with
  | none => 0
  | some (_, p) => (if p.write then p.pos else p.claimed) % 2 ^ 48

/-- `SENDk` (R374). -/
def sendWord (s : State) (eng who k : Nat) : Nat :=
  match s.slotOf eng who k with
  | none => 0
  | some (_, p) => (if p.write then p.sent else p.made) % 2 ^ 48

end Sys2Proof.Machine
end

