-- ==== Sys2Proof/Machine/Csr.lean ====
section
/-! DEFINITION. The control registers: which numbers are assigned, what each field does on a read and on a write (R8, R9, R46,
R140 and the maps of the owning chapters), and when an access acts (R165). -/

namespace Sys2Proof.Machine

/-- The bits of a register that a write sets (RW), the bits that a write of 1 clears (W1C), and the bits that a read clears (RS).
A bit in none of the three is RO, reserved or WO. -/
structure CrMap where
  rw : Nat := 0
  w1c : Nat := 0
  rs : Nat := 0

/-- The mask of bits `hi` to `lo`. -/
def bits (hi lo : Nat) : Nat := 2 ^ (hi + 1) - 2 ^ lo

/-- The maps of the user-level registers, by number; `none` where no register is assigned. -/
def crMapUser (n : Nat) : Option CrMap :=
  if n < 0x006 then some {}                                   -- SID to LSPART (R141)
  else if n = 0x010 ∨ n = 0x011 then some {}                  -- CYCLE, TIME
  else if n < 0x100 then none
  else if n < 0x104 then some {}                              -- VL, VLMAX, TL, LANES (R198)
  else if n = 0x104 then some { rw := bits 15 0 }             -- VSTART
  else if n = 0x105 then some { rw := bits 63 0 }             -- EBASE
  else if n = 0x106 then some { rw := bits 3 0 }              -- MF
  else if n = 0x107 then some { rw := bits 4 0 + bits 13 8 }  -- RM
  else if n = 0x108 then some { rw := bits 63 0 }             -- SEED
  else if n = 0x109 then some { w1c := bits 5 0 }             -- FFLAGS
  else if n ≤ 0x10B then some {}                              -- VCEIL, VSTAT
  else if n < 0x200 then none
  else if n ≤ 0x201 then some {}                              -- MVL, MCFG (R283)
  else if n < 0x280 then none
  else if n < 0x290 then some {}                              -- GB0 to GS7 (R327)
  else if n = 0x290 then some { rw := bits 15 0 }             -- NBLEN
  else if n = 0x291 then some { rw := bits 7 0 }              -- NBRS
  else if n ≤ 0x293 then some {}                              -- BPEND, BTAG
  else if n < 0x300 then none
  else if n < 0x330 then some {}                              -- SST, SPOS, SEND (R374)
  else if n < 0x380 then none
  else if n = 0x380 then some {}                              -- DDOM (R394)
  else if n < 0x3C0 then none
  else if n = 0x3C0 then some {}                              -- TPLAN (R418)
  else if n = 0x3C1 then some { rw := bits 7 0 }              -- TROW
  else if n = 0x3C2 then some {}                              -- TRST
  else if n < 0x400 then none
  else if n = 0x400 then some { rw := bits 47 0 }             -- THR (R428)
  else if n = 0x401 then some { rw := bits 0 0 + bits 54 6 }  -- URT
  else if n ≤ 0x405 then some { rw := bits 63 0 }             -- SQM to SQM3
  else if n = 0x406 then some { rs := bits 8 0 }              -- ULOW
  else if n = 0x407 then some { rw := bits 7 0 }              -- SROW
  else if n = 0x408 then some { rw := bits 15 0 }             -- SUC
  else if n < 0x440 then none
  else if n = 0x440 then some {}                              -- FPKG (R468)
  else if n = 0x441 then some { rw := bits 23 0 }             -- FRTAG
  else none

/-- The maps of a level's six trap registers (R129). -/
def crMapTrap (k : Nat) : Option CrMap :=
  if k = 1 ∨ k = 3 then some { rw := bits 63 0 }              -- EPC, EVAL
  else if k = 2 then some { rw := bits 7 0 }                  -- ECAUSE
  else if k = 4 then some { rw := bits 5 2 }                  -- ESTAT
  else if k = 5 then some { rw := bits 51 12 }                -- TREC
  else if k = 6 then some { rw := bits 54 2 }                 -- STVEC
  else none

/-- The maps of the supervisor and machine registers. -/
def crMapPriv (n : Nat) : Option CrMap :=
  if n = 0x800 then some { rw := bits 7 0 }                   -- FSPLIT (R26)
  else if n ≤ 0x806 then crMapTrap (n - 0x800)
  else if n = 0x807 then some { rw := bits 63 0 }             -- TCMP (R141)
  else if n = 0x810 then some { rw := bits 4 0 + bits 51 16 } -- ATBASE (R76)
  else if n < 0x820 then none
  else if n = 0x820 then some { rw := bits 5 0 + bits 51 12 } -- QTBASE (R129)
  else if n = 0x821 then some { rw := bits 63 0 }             -- QEN
  else if n = 0x822 then some { rw := bits 12 0 + bits 51 16 } -- TRPOOL
  else if n = 0x823 then some { rw := bits 4 0 + bits 10 8 }  -- FORDCTL
  else if n = 0x824 then some { rs := bits 6 0 }              -- QSTAT
  else if n < 0x830 then none
  else if n = 0x830 then some { rw := bits 51 16 }            -- DDTBASE (R394)
  else if n = 0x831 then some {}                              -- DDRLD
  else if n < 0x838 then none
  else if n ≤ 0x83B then some {}                              -- KTAGV, KDATA, KZERO, KUNSH
  else if n < 0x840 then none
  else if n = 0x840 then some { rw := bits 0 0 + bits 51 16 } -- TBTAB (R418)
  else if n = 0x841 then some { rw := bits 51 16 }            -- TAREA
  else if n = 0x842 then some { rw := bits 12 0 }             -- TRSW
  else if n < 0x850 then none
  else if n = 0x850 then some { rw := bits 51 16 }            -- FRTBASE (R468)
  else if n ≤ 0x852 then some { rw := bits 63 0 }             -- FADM0, FADM1
  else if n = 0x853 then some { rw := bits 39 0 }             -- FLTO
  else if n = 0x854 then some { rw := bits 6 0 }              -- FPSEL
  else if n = 0x855 then some { rs := bits 31 16 }            -- FPST
  else if n = 0x856 then some { rw := bits 51 16 }            -- ECTBASE
  else if n < 0x860 then none
  else if n = 0x860 then some { rw := bits 6 0 }              -- ISEL (R473)
  else if n = 0x861 then some { rw := bits 1 0 + bits 5 4 }   -- ICTL
  else if n = 0x862 then some { rw := bits 0 0 + bits 51 16 } -- TLBASE (R481)
  else if n < 0xC01 then none
  else if n ≤ 0xC06 then crMapTrap (n - 0xC00)                -- MEPC to MTVEC (R128)
  else if n = 0xC10 then some { rw := bits 4 0 + bits 51 16 } -- KEYTAB (R479)
  else if n = 0xC11 then some { rw := bits 54 2 }             -- SVSTART (R477)
  else none

/-- The map of a control register; `none` where no chapter assigns one. -/
def crMap (n : Nat) : Option CrMap := if n < 0x800 then crMapUser n else crMapPriv n

/-- The register exists once per package; the others exist once per strand context. -/
def isPkg (n : Nat) : Bool :=
  n == 0x440 || n == 0x800 || (decide (0x810 ≤ n ∧ n ≤ 0x862) && n != 0x842) || n == 0xC10 || n == 0xC11

/-- A region register as the strand's bank queue shows it: `BPEND` (R327). -/
def Strand.bpend (st : Strand) : Nat :=
  min 16 st.bankErrs.length + (match st.bankErrs.getLast? with | some r => if r.merged then 32 else 0 | none => 0)

/-- A row of tap state (R408). -/
def Strand.tapRow (st : Strand) (r : Nat) : TapRow := Tab.get st.rows r

/-- A row's `COUNT` and `SEL` as `TRST` and `TRSW` show them (R418). -/
def Strand.trst (st : Strand) : Nat :=
  let r := st.tapRow ((st.cr 0x3C1).toNat % 256)
  r.count % 256 + r.sel % 32 * 2 ^ 8

/-- The clock of an island is the core clock (R471). -/
def coreIsland (i : Nat) : Bool := decide (i < 20) || decide (68 ≤ i ∧ i < 74)

/-- `ICTL` of an island (R473). -/
def ictlWord (s : State) (i : Nat) : Nat :=
  let p := Tab.get s.islands i
  p.req % 4 + p.st % 4 * 2 ^ 2 + p.oppReq % 4 * 2 ^ 4 + (if p.thermal = 0 then 0 else 2 ^ 6) + (if p.cap = 0 then 0 else 2 ^ 7)
    + p.temp % 256 * 2 ^ 8

/-- `FPST` of a port (R468). -/
def fpstWord (s : State) (p : Nat) : Nat :=
  match Tab.find s.ports p with
  | none => 0
  | some q => q.st % 8 + (if q.st = 2 then q.peer % 128 * 2 ^ 4 else 0) + q.nrt % 65536 * 2 ^ 16

/-- The value that a read of register `n` returns to the strand of the current turn. -/
def readCr (s : State) (n : Nat) : Dword :=
  let st := s.st
  let own := fun (v : Nat) => BitVec.ofNat 64 v
  if n = 0x010 then Tab.get s.cycle (clusterOf s.cur)
  else if n = 0x011 then s.time
  else if n = 0x101 then
    let lw := fld (st.cr 0x101).toNat 16 3
    own (st.lanes * 256 / 2 ^ lw + lw * 2 ^ 16)
  else if n = 0x100 then (if st.lanes = 0 then 0 else st.cr 0x100)
  else if n = 0x103 then own st.lanes
  else if n = 0x10B then own ((if st.mvl = 0 then 0 else 1) + fld (st.cr 0x10B).toNat 1 1 * 2)
  else if n = 0x292 then own st.bpend
  else if n = 0x293 then own (st.bankTag % 65536)
  else if 0x300 ≤ n ∧ n < 0x310 then own (sstWord s (clusterOf s.cur) st.owner (n - 0x300))
  else if 0x310 ≤ n ∧ n < 0x320 then own (sposWord s (clusterOf s.cur) st.owner (n - 0x310))
  else if 0x320 ≤ n ∧ n < 0x330 then own (sendWord s (clusterOf s.cur) st.owner (n - 0x320))
  else if n = 0x3C2 ∨ n = 0x842 then own st.trst
  else if n = 0x408 then own (Tab.get st.uc ((st.cr 0x407).toNat % 256))
  else if n = 0x804 then own (st.stat 0x804)
  else if n = 0xC04 then own (st.stat 0xC04)
  else if n = 0x821 then own ((s.pkr 0x821).toNat % 2 ^ ((s.pkr 0x820).toNat % 64 + 1))
  else if n = 0x824 then s.qstat
  else if n = 0x831 then own (if s.ddrldBusy.isSome then 2 ^ 63 else 0)
  else if n = 0x838 then own s.lines.length
  else if n = 0x839 then own s.entries.length
  else if n = 0x83A then own (s.lines.filter (fun l => l.2.st == 3)).length
  else if n = 0x83B then s.kunsh
  else if n = 0x855 then own (fpstWord s ((s.pkr 0x854).toNat % 128))
  else if n = 0x861 then own (ictlWord s ((s.pkr 0x860).toNat % 128))
  else if isPkg n then s.pkr n
  else st.cr n

/-- What a read does besides returning the value: RS fields clear (R8). -/
def readEffect (s : State) (n : Nat) : State :=
  if n = 0x406 then s.mapSt (fun st => st.setCr 0x406 0)
  else if n = 0x824 then { s with qstat := 0 }
  else if n = 0x855 then
    match Tab.find s.ports ((s.pkr 0x854).toNat % 128) with
    | some q => { s with ports := Tab.set s.ports ((s.pkr 0x854).toNat % 128) { q with nrt := 0 } }
    | none => s
  else s

/-- The value a register stores for the value written: limits of the maps' descriptions. -/
def crLimit (n v : Nat) : Nat :=
  if n = 0x106 then (if 5 ≤ v % 16 then 0 else v)
  else if n = 0x107 then (if 5 ≤ v % 8 then setFld v 0 3 0 else v)
  else if n = 0x291 then (if v % 256 = 0 then 1 else v)
  else if n = 0x810 then (if 17 ≤ v % 32 then setFld v 0 5 16 else v)
  else if n = 0x822 then (if 4096 < v % 8192 then setFld v 0 13 4096 else v)
  else if n = 0x823 then
    let a := v % 32
    let v := setFld v 0 5 (if a < 10 then 10 else if 30 < a then 30 else a)
    if 4 < fld v 8 3 then setFld v 8 3 4 else v
  else if n = 0x842 then (if 16 < fld v 8 5 then setFld v 8 5 0 else v)
  else if n = 0x853 then (if v % 2 ^ 40 < 1000000 then 1000000 else v)
  else if n = 0x860 then (if 75 < v % 128 then 75 else v)
  else if n = 0xC10 then (if 16 < v % 32 then setFld v 0 5 16 else v)
  else v

/-- A write of `SQM` register `i` (R408, R426): a bit that goes from 0 to 1 sets the row's `COUNT`, its scores and its `UC` to 0 (`SEL` stays). -/
def sqmWrite (i : Nat) (v : Nat) (st : Strand) : Strand :=
  let old := (st.cr (0x402 + i)).toNat
  let fresh := (range' 0 64).filter (fun k => bitOf v k && !bitOf old k)
  let st := st.setCrN (0x402 + i) v
  { st with
    rows := fresh.foldl (fun t k => Tab.set t (64 * i + k) { Tab.get t (64 * i + k) with count := 0, scores := [] }) st.rows
    uc := fresh.foldl (fun t k => Tab.erase t (64 * i + k)) st.uc }

/-- A write of `TRSW` (R408, R418): `COUNT` and `SEL` of row `TROW`, whose scores clear. -/
def trswWrite (v : Nat) (st : Strand) : Strand :=
  let v := crLimit 0x842 v
  { st with rows := Tab.set st.rows ((st.cr 0x3C1).toNat % 256) { count := fld v 0 8, sel := fld v 8 5, scores := [] } }

/-- A write of `SUC` (R426, R428). -/
def sucWrite (v : Nat) (st : Strand) : Strand :=
  { st with uc := Tab.set st.uc ((st.cr 0x407).toNat % 256) (v % 65536) }

/-- The bits of `old` with those of `m` taken from `v`. -/
def mergeBits (old v m : Nat) : Nat := (old &&& (2 ^ 64 - 1 - m)) ||| (v &&& m)

/-- A write of register `n`: `v` is presented to its RW fields, `w1` to its W1C fields, and `wo` to its WO fields, if anything is.
Registers whose write starts an action raise that action as an event, which is performed before any strand's next turn. -/
def writeCr (s : State) (n v w1 : Nat) (wo : Option Nat) : State :=
  match crMap n with
  | none => s
  | some f =>
    let merged := fun (old : Nat) => crLimit n (mergeBits old v f.rw) % 2 ^ 64
    if n = 0x109 then s.mapSt (fun st => st.setCrN 0x109 ((st.cr 0x109).toNat &&& (63 - (w1 &&& 63))))
    else if 0x402 ≤ n ∧ n ≤ 0x405 then s.mapSt (sqmWrite (n - 0x402) v)
    else if n = 0x408 then s.mapSt (sucWrite v)
    else if n = 0x842 then s.mapSt (trswWrite v)
    else if n = 0x821 then s.raise (.qenWrite v)
    else if n = 0x831 then
      (match wo with | some d => s.raise (.ddrldWrite (d % 65536)) | none => s)
    else if n = 0x861 then
      let i := (s.pkr 0x860).toNat
      (s.raise (.ictlReq i (v % 4))).raise (.ictlOpp i (fld v 4 2))
    else if n = 0xC10 then s.raise (.keytabWrite (merged (s.pkr n).toNat))
    else if n = 0xC11 then
      let s := s.setPk n (BitVec.ofNat 64 (merged (s.pkr n).toNat))
      (match wo with
        | some g => if bitOf g 0 then s.raise (.svstartGo g) else s
        | none => s)
    else if n = 0x807 then
      s.mapSt (fun st => { st.setCrN n (v % 2 ^ 64) with timer := st.timer && decide (v % 2 ^ 64 ≤ s.time.toNat) })
    else if n = 0x862 then
      let old := (s.pkr n).toNat
      let new := merged old
      { s.setPk n (BitVec.ofNat 64 new) with
        sampleAt := if bitOf new 0 && !bitOf old 0 then s.time.toNat + 1000000 else s.sampleAt }
    else if f.rw = 0 then s
    else if isPkg n then s.setPk n (BitVec.ofNat 64 (merged (s.pkr n).toNat))
    else s.mapSt (fun st => st.setCrN n (merged (st.cr n).toNat))

/-- Checks 9 and 10 of R44 on a register number, by R46: the cause and reason of the trap, if one fails. -/
def crCheck (pl : Nat) (n : Nat) : Option (Nat × Nat) :=
  if 0xC00 ≤ n ∧ pl < 2 then some (cPRIV, 0)
  else if 0x800 ≤ n ∧ pl < 1 then some (cPRIV, 0)
  else if (crMap n).isNone then some (cILL, 7)
  else none

/-- The instruction must wait before it acts (R165): the older entries of its owner's queue, and `DDRLD` while `BSY` = 1 (R394). -/
def crMustWait (s : State) (n : Nat) (write : Bool) : Bool :=
  let st := s.st
  if (0x100 ≤ n ∧ n ≤ 0x27F) ∨ (0x3C0 ≤ n ∧ n ≤ 0x43F) then !st.vq.isEmpty
  else if 0x280 ≤ n ∧ n ≤ 0x2FF then st.bankQ.any (fun e => !e.complete)
  else if n = 0x831 ∧ write then s.ddrldBusy.isSome
  else false

/-- What `CRD`, `CWR`, `CSET` and `CCLR` present to a register (R164): to RW fields, W1C fields and WO fields. -/
inductive CrOp where
  | read
  | write
  | set
  | clear
deriving DecidableEq, Repr

/-- The effect of one control-register instruction on register `n` with operand `a` (R164): the old value and the state after. -/
def crAccess (op : CrOp) (n a : Nat) (s : State) : Dword × State :=
  let old := readCr s n
  let c := old.toNat
  let s := readEffect s n
  match op with
  | .read => (old, s)
  | .write => (old, writeCr s n a a (some a))
  | .set => (old, writeCr s n (c ||| a) 0 none)
  | .clear => (old, writeCr s n (c &&& (2 ^ 64 - 1 - a)) a none)

/-- A control-register instruction on register `n` (R164 to R166). `settle` carries out the queued work that the register's owner must
have finished first. -/
def csrInstr (settle : Nat → M Unit) (word : Nat) (d : Nat) (src : Option Nat) (n : Nat) (op : CrOp) : M Unit := do
  start word { reads := match src with | some a => [(.x, a)] | none => [], dest := some (.x, d) }
  let s ← get
  let st := s.st
  match crCheck st.pl.toNat n with
  | some (c, r) => trap c word r
  | none =>
    settle n
    let s ← get
    let st := s.st
    if crMustWait s n (op != .read) then wait
    let a := match src with | some a => (st.xr a).toNat | none => 0
    let (old, s) := crAccess op n a s
    set s
    modSt (fun st => st.result d old)

end Sys2Proof.Machine
end

