-- ==== Sys2Proof/Machine/Flags.lean ====
section
/-! DEFINITION. The computations of the scalar core that are not one bit-vector operation: division at its limits, counts of bits
and comparisons (R149, R150, R152). The scalar core has no condition flags (R149); the floating-point flags are those of R217. -/

namespace Sys2Proof.Machine

/-- Signed division rounded towards zero, with the results of R150 at its limits. -/
def divSigned (a b : Dword) : Dword :=
  if b = 0 then BitVec.allOnes 64 else BitVec.ofInt 64 (a.toInt.tdiv b.toInt)

/-- Unsigned division, with the result of R150 for a divisor of zero. -/
def divUnsigned (a b : Dword) : Dword :=
  if b = 0 then BitVec.allOnes 64 else BitVec.ofNat 64 (a.toNat / b.toNat)

/-- The signed remainder: the sign of the dividend, or zero (R149, R150). -/
def remSigned (a b : Dword) : Dword :=
  if b = 0 then a else BitVec.ofInt 64 (a.toInt.tmod b.toInt)

/-- The unsigned remainder (R149, R150). -/
def remUnsigned (a b : Dword) : Dword :=
  if b = 0 then a else BitVec.ofNat 64 (a.toNat % b.toNat)

/-- The high 64 bits of a product of integers (R149). -/
def mulHigh (a b : Int) : Dword := BitVec.ofInt 64 (a * b / 2 ^ 64)

/-- Leading zero bits, 0 to 64 (R149). -/
def leadingZeros (a : Dword) : Nat := (lowest (fun i => bitOf a.toNat (63 - i)) 64).getD 64

/-- Trailing zero bits, 0 to 64 (R149). -/
def trailingZeros (a : Dword) : Nat := (lowest (fun i => bitOf a.toNat i) 64).getD 64

/-- The smaller and the larger of two values as integers (R149). -/
def pickMin (le : Bool) (a b : Dword) : Dword := if le then a else b

/-- 1 or 0. -/
def bit01 (p : Bool) : Dword := if p then 1 else 0

end Sys2Proof.Machine
end

