-- ==== Sys2Proof/Machine/Operands.lean ====
section
/-! DEFINITION. The operand forms of the scalar instructions: immediates, the start record of each form, and the shapes of
meaning that many instructions share (R37, R149 to R154). -/

namespace Sys2Proof.Machine

/-- A 16-bit immediate, sign- or zero-extended (R151). -/
def sx16 (i : BitVec 16) : Dword := i.signExtend 64
def zx16 (i : BitVec 16) : Dword := i.zeroExtend 64

/-- A scalar register operand. -/
def Strand.rx (st : Strand) (r : BitVec 5) : Dword := st.xr r.toNat

/-- What the start of a form with two sources and a destination must know. -/
def infoDAB (d a b : BitVec 5) : Info :=
  { reads := [(.x, a.toNat), (.x, b.toNat)], dest := some (.x, d.toNat) }

/-- One source and a destination. -/
def infoDA (d a : BitVec 5) : Info := { reads := [(.x, a.toNat)], dest := some (.x, d.toNat) }

/-- A register-register operation: `x[d]` = f of `x[a]` and `x[b]`, read before `d` is written (R149). -/
def regReg (i : Instr) (d a b : BitVec 5) (f : Dword → Dword → Dword) : M Unit := do
  start (wordOf i) (infoDAB d a b)
  modSt (fun st => st.result d.toNat (f (st.rx a) (st.rx b)))

/-- An operation on one register (R149, R151). -/
def regUnary (i : Instr) (d a : BitVec 5) (f : Dword → Dword) : M Unit := do
  start (wordOf i) (infoDA d a)
  modSt (fun st => st.result d.toNat (f (st.rx a)))

/-- A branch (R152): both registers are compared; the target is relative to the branch. -/
def branch (i : Instr) (a b : BitVec 5) (o : BitVec 16) (cond : Dword → Dword → Bool) : M Unit := do
  start (wordOf i) { reads := [(.x, a.toNat), (.x, b.toNat)] }
  modSt (fun st =>
    let t := if cond (st.rx a) (st.rx b) then st.pc + 4 * sx16 o else st.pc + 4
    { st with pc := t, latch := 0, resumed := false, behind := none })

end Sys2Proof.Machine
end

