-- ==== Sys2Proof/Machine/Vec.lean ====
section
/-! DEFINITION. The vector engine: how an instruction enters the vector queue, and how its entries are processed under the progress
interlock, trap and retire (R193 to R208, R226, R228, R258). An instruction of the vector queue is described by a `VOp`. -/

namespace Sys2Proof.Machine

/-- Bit `e` of a mask register; `m0` reads as all ones (R195). -/
def Strand.mbit (st : Strand) (r e : Nat) : Bool := if r = 0 then true else bitOf (Tab.get st.m r).toNat e

/-- Writes a bit of a mask register; a write of `m0` is ignored (R195). -/
def Strand.setMbit (st : Strand) (r e : Nat) (b : Bool) : Strand :=
  if r = 0 then st
  else { st with m := Tab.set st.m r (BitVec.ofNat 16384 (setFld (Tab.get st.m r).toNat e 1 (if b then 1 else 0))) }

/-- The mask field of an entry's word (F-V and F-VM: bits [10:8]). -/
def VEntry.mf (e : VEntry) : Nat := fld e.word.toNat 8 3

/-- The entry runs under a lent predicate (R51). -/
def VEntry.lentMask (e : VEntry) : Bool := latchV e.lent && latchMask e.lent != 0

/-- The mask register that the entry reads: the lent predicate, or that of its mask field (R51, R58). -/
def VEntry.maskReg (e : VEntry) : Nat := if e.lentMask then latchMask e.lent else e.mf

/-- The mask test of `Active(e)`, without its bounds (R58, R251): `mf` is the instruction's mask field. -/
def sel (en : VEntry) (st : Strand) (mf e : Nat) : Bool :=
  if en.lentMask then st.mbit (latchMask en.lent) e != latchInv en.lent else st.mbit mf e

/-- The entry's element `p` is active: its mask test, the bounds being the loop's (R58). -/
def act (e : VEntry) (st : Strand) (p : Nat) : Bool := sel e st e.mf p

/-! ### What an instruction of the vector queue uses (R202, R226, R228, R291) -/

/-- What an entry can read or write besides memory. A hold register stands also for the state of the tap unit and the sampler. -/
inductive Res where
  | v (r : Nat)
  | m (r : Nat)
  | h (k : Nat)
  | tile (k : Nat)
deriving DecidableEq

/-- One register that an entry reads or writes: a vector register by its bytes, a mask by its bits. -/
structure Use where
  res : Res
  wr : Bool := false
  /-- The first byte or bit that its elements from `p` on touch, and one more than the highest that element `e` needs. -/
  lo : Nat → Nat
  hi : Nat → Nat
  /-- One more than the highest byte or bit that it is done with when its progress index is `p`; 0 where that is so only when the entry
  has retired. -/
  past : Nat → Nat
  /-- The tile of an `OPACC` or `OPSUB` (R291). -/
  acc : Bool := false
  /-- One more than the highest byte that the whole entry touches, where that is not what its last element needs. -/
  top : Option Nat := none

/-- Element by element at width `w` (R227). -/
def Use.at (res : Res) (wr : Bool) (w : Nat) : Use :=
  { res := res, wr := wr, lo := fun p => p * w, hi := fun e => (e + 1) * w, past := fun p => p * w }

/-- The first `n` bytes or bits, whatever the element. -/
def Use.all (res : Res) (wr : Bool) (n : Nat) : Use :=
  { res := res, wr := wr, lo := fun _ => 0, hi := fun _ => n, past := fun _ => 0 }

/-- Element `i` of width `w`, whatever the element counted. -/
def Use.one (res : Res) (wr : Bool) (w i : Nat) : Use :=
  { res := res, wr := wr, lo := fun _ => i * w, hi := fun _ => (i + 1) * w, past := fun _ => 0 }

/-- A hold register: an entry that names it waits for every older one that does (R202). -/
def Use.hold (k : Nat) : Use := { res := .h k, wr := true, lo := fun _ => 0, hi := fun _ => 0, past := fun _ => 0 }

/-- The state of the tap unit and of the sampler, which their entries take in order. -/
def Use.unit : Use := Use.hold 4

/-- An older entry at progress `p` lets a younger one, whose use is `v`, process its element `e` (R202, R228, R291). -/
def Use.meets (u : Use) (p : Nat) (v : Use) (e : Nat) : Bool :=
  if u.res = v.res ∧ (u.wr ∨ v.wr) then
    match u.res with
    | .h _ => false
    | .tile _ => u.acc && v.acc && decide (0 < u.past p)
    | .m 0 => true
    | _ => decide (v.hi e ≤ u.past p)
  else true

/-- The bytes of memory that an entry covers (R96, R203, R262). -/
structure Touch where
  wr : Bool
  /-- It covers every address. -/
  all : Bool := false
  /-- It covers the range from the lowest to the highest of its bytes. -/
  hull : Bool := false
  /-- It reads memory before its first element (R272). -/
  heads : Bool := false
  /-- The bytes of its active elements from its starting progress index up: (element, address, bytes). -/
  spans : List (Nat × Int × Nat)
  /-- The highest element whose bytes are accessed with those of the element given. -/
  upto : Nat → Nat := id

/-- Two ranges of the address space share a byte; addresses wrap modulo 2^64. -/
def overlap64 (a : Int) (m : Nat) (b : Int) (n : Nat) : Bool :=
  decide (ofInt 64 (b - a) < m) || decide (ofInt 64 (a - b) < n)

/-- Where a byte of the current strand's address space lies, if it translates: its home and its physical address. -/
def State.locOf (s : State) (va : Nat) : Option (Nat × Nat) :=
  match lookupXl (Acc.vload.forStrand s) (va % 2 ^ 64) s with
  | .ok e _ => some (e.home, e.pa + (va % 2 ^ 64 - e.base))
  | .error _ _ => none

/-- A range of the address space cut at pages: (address, bytes). -/
def pageCuts (va : Nat) : Nat → Nat → List (Nat × Nat)
  | 0, _ => []
  | fuel + 1, n =>
    if n = 0 then []
    else
      let k := min n (65536 - va % 65536)
      (va, k) :: pageCuts ((va + k) % 2 ^ 64) fuel (n - k)

/-- Two ranges share a byte location: the same addresses, or addresses of two pages that lie on one (R93, R95). -/
def State.sameBytes (s : State) (a : Int) (m : Nat) (b : Int) (n : Nat) : Bool :=
  overlap64 a m b n ||
    (pageCuts (ofInt 64 a) (m / 65536 + 2) m).any (fun p => (pageCuts (ofInt 64 b) (n / 65536 + 2) n).any (fun q =>
      p.1 / 65536 != q.1 / 65536 && (match s.locOf p.1, s.locOf q.1 with
        | some x, some y => x.1 == y.1 && overlaps x.2 p.2 y.2 q.2
        | _, _ => false)))

/-- The entry covers a byte of the range (R96, R262). -/
def Touch.covers (t : Touch) (s : State) (va n : Nat) : Bool :=
  t.all || t.spans.any (fun q => s.sameBytes q.2.1 q.2.2 va n) ||
    (if t.hull then
      match t.spans with
      | [] => false
      | (_, a, k) :: r =>
        let lo := r.foldl (fun (m : Int) (q : Nat × Int × Nat) => min m q.2.1) a
        let hi := r.foldl (fun (m : Int) (q : Nat × Int × Nat) => max m (q.2.1 + (q.2.2 : Int))) (a + (k : Int))
        overlap64 lo (hi - lo).toNat va n
    else false)

/-- An element-wise memory access of the vector queue (R260, R266, R275). -/
structure MemOp where
  /-- The register that a load fills. -/
  reg : Option Nat
  /-- Elements may be performed in any order (R262: u = 1). -/
  any : Bool := false
  /-- Performs an element: its result and its flags. -/
  go : Nat → M (Nat × Nat)
  /-- Performs an element outside the package together with those of its line that the test lets through (R454): each with its result and
  its flags; none where the element is not performed so. -/
  line : (Nat → Bool) → Nat → M (Option (List (Nat × Nat × Nat))) := fun _ _ => pure none
  /-- Begins an element of an unordered access: what is to be performed, where it stays inside the package. -/
  start : Nat → M (Option BegunElem) := fun _ => pure none

/-- What the vector engine must know of an instruction of the vector queue. -/
structure VOp where
  /-- Its element width in bytes. -/
  w : Nat := 1
  /-- Its progress index may rest at any element, not only at the end of an element group (R201, R292). -/
  step : Bool := false
  /-- It acts at the head, and every younger entry waits until it has retired (R202, R220, R222 to R224, R286). -/
  atHead : Bool := false
  /-- The tap unit or the sampler performs it, after the strand's earlier accesses (R105). -/
  engine : Bool := false
  /-- It has a mask operand. -/
  masked : Bool := true
  /-- Element e needs every bit of its mask up to bit e, and goes on doing so (R251). -/
  maskBelow : Bool := false
  /-- One more than the highest bit of its mask that element e needs. -/
  maskTo : VEntry → Strand → Nat → Nat := fun _ _ e => e + 1
  /-- `begin` needs the whole mask. -/
  earlyMask : Bool := false
  /-- Elements of an element group, where they are not those of its width (R229). -/
  group : Nat := 0
  /-- The registers that it reads and writes, without its mask and its lent copy. -/
  uses : VEntry → Strand → List Use := fun _ _ => []
  /-- Its lanes follow from its uses; otherwise `begin` makes the check itself. -/
  ownLanes : Bool := true
  /-- Those that `begin` needs, for every element. -/
  early : VEntry → Strand → List Use := fun _ _ => []
  /-- The memory that it covers, when the bits of its mask from the number given on may still change: such an element counts as active. -/
  touch : Nat → VEntry → Strand → Option Touch := fun _ _ _ => none
  /-- Its element count (R193, R226, R258). -/
  count : VEntry → Strand → Nat
  /-- The entry checks taken at the head with nothing changed, for an entry with an active element (R199, R285). -/
  check : M Unit := pure ()
  /-- The state checks at the start of its processing, at first issue and at resumption. -/
  begin : M Unit := pure ()
  /-- Processes the element at the progress index and answers the next progress index. -/
  body : Nat → M Nat := fun p => pure (p + 1)
  /-- The same outside the package, with the elements that follow in its line as far as the test lets them through (R454): the next progress
  index; none where the element is not performed so. -/
  line : (Nat → Bool) → Nat → M (Option Nat) := fun _ _ => pure none
  /-- Its elements, where they are memory accesses of one element each. -/
  mem : Option MemOp := none
  /-- What it does once, when its last element is complete. -/
  done : M Unit := pure ()

/-- The usual element count: `VL`, capped by the registers' size at width `w`. -/
def countW (w : Nat) (e : VEntry) (st : Strand) : Nat := min e.vl (st.lanes * 256 / w)

/-- An entry counted as one element (R220, R237). -/
def countOne (_ : VEntry) (_ : Strand) : Nat := 1

/-- The entry that stands in front of the vector queue, or an empty one: the head, or the entry that is being processed. -/
def Strand.head (st : Strand) : VEntry := st.vq.headD default

def headE : M VEntry := do return (← getSt).head

/-- Changes the entry in front. -/
def Strand.mapHead (st : Strand) (f : VEntry → VEntry) : Strand :=
  match st.vq with
  | [] => st
  | e :: r => { st with vq := f e :: r }

/-- A trap of the entry (R131, R206). -/
def entryTrap {α : Type} (cause eval : Nat) (w0 : Nat := 0) (w1 : Nat := 0) (w2 : Nat := 0) (w3 : Nat := 0) : M α := do
  let e ← headE
  throw (.trap { cause := cause, eval := eval, w0 := w0, w1 := w1, w2 := w2, w3 := w3, entry := some e.addr })

/-- Runs an element's memory accesses: a trap becomes an element trap, whose W1 holds the element for TFAULT, PROT and ALIGN
(R278) and whose W2 is given. -/
def elemAccess {α : Type} (f w2 : Nat) (m : M α) : M α := do
  let e ← headE
  tryCatch m (fun x => match x with
    | .trap t =>
      if t.cause = cTFAULT ∨ t.cause = cPROT ∨ t.cause = cALIGN then
        throw (.trap { t with entry := some e.addr, w1 := f, w2 := w2 })
      else throw (.trap { t with entry := some e.addr })
    | x => throw x)

/-- Writes an element of the destination, and of the lent copy (R51). -/
def Strand.putV (st : Strand) (vd w e v : Nat) : Strand := st.putOn st.head vd w e v

/-- Writes a bit of the destination mask, and of the lent copy (R51). -/
def Strand.putM (st : Strand) (md e : Nat) (b : Bool) : Strand :=
  let l := st.head.lent
  let st := st.setMbit md e b
  if latchV l && latchDup l then st.setMbit (latchCopy l) e b else st

/-- An element raises flags (R208): they accrue, and the entry remembers the enabled ones and the lowest element that raised one. -/
def Strand.raiseFlags (st : Strand) (fl e : Nat) : Strand :=
  (st.accrue fl).mapHead (fun h => h.noteFlags st.trapEnable fl e)

/-- A scalar result reaches `x[d]`, and the copy register, through the read queue (R167). While work is deferred it waits there for
its write-back. -/
def produce (v : Dword) : M Unit := do
  let s ← get
  let st := s.st
  let q := st.head.seq
  match st.readQ.find? (fun r => r.src == q) with
  | none => pure ()
  | some r =>
    if s.defer then
      modSt (fun st => { st with
        readQ := st.readQ.map (fun r => if r.src == q && r.val.isNone then { r with val := some v } else r) })
    else
      modSt (fun st =>
        let st := { st with readQ := st.readQ.filter (fun r => r.src != q) }
        let st := st.setX r.dst v
        if r.cv then st.setX r.cpy v else st)

/-! ### Before an entry processes an element -/

/-- The granules whose lanes a strand uses, in ascending order, with their states (R122). -/
def State.granulesOf (s : State) (cl sid : Nat) : List (Nat × Gran) :=
  ((range' 0 8).map (fun g => (g, Tab.getD s.grans (cl * 8 + g) .free))).filter (fun g => match g.2 with
    | .held q => q == sid
    | .lent q _ => q == sid
    | .zeroing (some q) => q == sid
    | _ => false)

/-- All the uses of an entry: those of its instruction, its mask and its lent copy (R51, R202). -/
def VOp.allUses (op : VOp) (e : VEntry) (st : Strand) : List Use :=
  let us := op.uses e st
  let copies := if latchV e.lent && latchDup e.lent then
      us.filterMap (fun u => match u.res with
        | .v _ => if u.wr then some { u with res := .v (latchCopy e.lent) } else none
        | .m _ => if u.wr then some { u with res := .m (latchCopy e.lent) } else none
        | _ => none)
    else []
  let k := e.maskReg
  let mask : List Use :=
    if !op.masked || k == 0 then []
    else if op.maskBelow then [{ res := .m k, lo := fun _ => 0, hi := op.maskTo e st, past := fun _ => 0 }]
    else [{ Use.at (.m k) false 1 with hi := op.maskTo e st }]
  us ++ copies ++ mask

/-- What `begin` needs, for every one of the `n` elements. -/
def VOp.earlyUses (op : VOp) (e : VEntry) (st : Strand) (n : Nat) : List Use :=
  op.early e st ++ (if op.earlyMask then [Use.all (.m e.maskReg) false n] else [])

/-- The ranges of lane bytes that the entry touches from element `p` to `n` − 1: lane l holds bytes 256 × l to 256 × l + 255 of a
vector register and bits of the same numbers of a mask (R193, R229), and column l of a tile (R280). -/
def VOp.lanes (op : VOp) (e : VEntry) (st : Strand) (p n : Nat) : List (Nat × Nat) :=
  (op.allUses e st).filterMap (fun u => match u.res with
    | .h _ => none
    | .m 0 => none
    | _ => some (u.lo p, u.top.getD (u.hi (n - 1))))

/-- A strand's granules whose lanes are touched: what stands in the way, if something does. A Lent granule traps VOWN with the owner of
its registers; one that is being zeroed is waited for (R122, R226). -/
def laneTrouble (touched : List (Nat × Nat)) : List (Nat × Gran) → Nat → Option (Option Nat)
  | [], _ => none
  | (_, g) :: r, k =>
    let hit := touched.any (fun t => decide (t.1 < 2048 * (k + 1)) && decide (2048 * k < t.2) && decide (t.1 < t.2))
    match g, hit with
    | .lent _ p, true => some (some p)
    | .zeroing _, true => match laneTrouble touched r (k + 1) with
      | some (some p) => some (some p)
      | _ => some none
    | _, _ => laneTrouble touched r (k + 1)

/-- The ranges given lie in granules that the strand may touch, or VOWN is trapped (R122, R226, R258). -/
def ownCheck (touched : List (Nat × Nat)) : M Unit := do
  let s ← get
  match laneTrouble touched (s.granulesOf (clusterOf s.cur) s.st.owner) 0 with
  | some (some p) => entryTrap cVOWN p
  | some none => wait
  | none => pure ()

/-- The checks before an entry processes any element: VGRANT and VOWN (R226, R258). -/
def laneChecks (op : VOp) (n : Nat) : M Unit := do
  let st ← getSt
  let e := st.head
  if st.lanes = 0 then entryTrap cVGRANT e.word.toNat
  if e.p < n ∧ op.ownLanes then ownCheck (op.lanes e st e.p n)

/-- What an older entry is: its instruction's description, when its word is one. -/
def opOf (vopOf : VEntry → Instr → Option VOp) (e : VEntry) : Except Nat VOp :=
  match decode e.word with
  | .error r => .error r.reason
  | .ok i => match vopOf e i with
    | none => .error 3
    | some op => .ok op

/-- An element is performed: it lies below the progress index, or is held (R201). -/
def VEntry.performed (e : VEntry) (k : Nat) : Bool := decide (k < e.p) || e.held.any (fun h => h.elem == k)

/-- The older entry has performed every element that overlaps bytes of the younger one (R95, R203). -/
def clearOf (s : State) (i : VEntry) (t : Touch) (mine : List (Nat × Int × Nat)) : Bool :=
  !t.all && t.spans.all (fun q => i.performed q.1 || mine.all (fun m => !s.sameBytes q.2.1 q.2.2 m.2.1 m.2.2))

/-- Each entry of a list with those that stand before it. -/
def withOlder : List VEntry → List VEntry → List (List VEntry × VEntry)
  | _, [] => []
  | older, e :: r => (older, e) :: withOlder (older ++ [e]) r

/-- The bits of an entry's mask below this one are as its older entries leave them (R202). -/
def maskLimit (vopOf : VEntry → Instr → Option VOp) (older : List VEntry) (op : VOp) (e : VEntry) (st : Strand) : Nat :=
  if !op.masked || e.maskReg == 0 then 65536
  else older.foldl (fun m i => match opOf vopOf i with
    | .error _ => 0
    | .ok oi =>
      if oi.atHead then 0
      else (oi.allUses i st).foldl (fun m u => if u.res = .m e.maskReg ∧ u.wr then min m (u.past i.p) else m) m) 65536

/-- The memory that an entry covers, behind the older entries given. -/
def VOp.touchOf (op : VOp) (vopOf : VEntry → Instr → Option VOp) (older : List VEntry) (e : VEntry) (st : Strand) : Option Touch :=
  op.touch (maskLimit vopOf older op e st) e st

/-- The entry's destinations whose elements are results of an engine, while it is unfinished: consuming one is an acquire (R108, R440). -/
def VEntry.engineDests (e : VEntry) : List Nat :=
  let d := match decode e.word with
    | .ok (.lkx _ _ v _) => [v.toNat]
    | .ok (.vurd v _ _) => [v.toNat]
    | .ok (.vaccept v _ _) => [v.toNat]
    | _ => []
  if d.isEmpty || e.finished then [] else d ++ (if latchV e.lent && latchDup e.lent then [latchCopy e.lent] else [])

/-- The entry takes elements of a stream. -/
def VEntry.isVlds (e : VEntry) : Bool := match decode e.word with | .ok (.vlds _ _) => true | _ => false

/-- One of the entries has still to consume what engines make: what follows it follows their reads and writes (R108, R440). -/
def consumes (l : List VEntry) : Bool := l.any (fun e => e.acq && !e.finished)

/-- The entry in front may use what `us` says for element `k`: every older entry lets it (R202, R228). -/
def usesReady (vopOf : VEntry → Instr → Option VOp) (older : List VEntry) (us : List Use) (st : Strand) (k : Nat) : Bool :=
  older.all (fun i => match opOf vopOf i with
    | .error _ => false
    | .ok oi => !oi.atHead && (oi.allUses i st).all (fun u => us.all (fun v => u.meets i.p v k)))

/-- The entry in front may perform its memory accesses of elements `lo` to `hi`: no element of an older entry that is not yet performed
overlaps them (R95, R203), and no older entry has still to consume what an engine makes (R108, R440). -/
def memReady (vopOf : VEntry → Instr → Option VOp) (older : List VEntry) (op : VOp) (s : State) (lo hi : Nat) : Bool :=
  let st := s.st
  match older, op.touchOf vopOf older st.head st with
  | [], _ => true
  | _, none => true
  | _, some t =>
    let mine := t.spans.filter (fun q => decide (lo ≤ q.1) && decide (q.1 ≤ t.upto hi))
    !consumes older && (withOlder [] older).all (fun i => i.2.finished || (match opOf vopOf i.2 with
      | .error _ => false
      | .ok oi => match oi.touchOf vopOf i.1 i.2 st with
        | none => true
        | some u => if t.all then !(u.wr || t.wr || t.heads) else clearOf s i.2 u mine))

/-! ### Processing -/

/-- Some element from the progress index to `n` − 1 is active. -/
def VEntry.anyActive (e : VEntry) (f : Nat → Bool) (n : Nat) : Bool := (lowest (fun k => f (e.p + k)) (n - e.p)).isSome

/-- A check that an entry without an active element does not make (R199): `a` says which of its `n` elements are active. -/
def whenActive (n : VEntry → Strand → Nat) (a : VEntry → Strand → Nat → Bool) (m : M Unit) : M Unit := do
  let st ← getSt
  if st.head.anyActive (a st.head st) (n st.head st) then m

/-- What an engine does for an entry follows every earlier access of the strand (R105), and what the `older` entries consume (R108). -/
def engineWait (older : List VEntry) (op : VOp) : M Unit := do
  if op.engine then
    settleStores
    let s ← get
    if !earlierDone s s.cur s.st.head.seq || consumes older then wait

/-- Runs the work of an entry. A trap of an entry that is not the head is found again when it is, so nothing that its element did stays
(R206). -/
def guarded {α : Type} (younger : Bool) (m : M α) : M α := do
  let s ← get
  tryCatch m (fun x => match x with
    | .trap _ => do
      if younger then set s
      throw x
    | x => throw x)

/-- The answered transactions of the entry have served it. -/
def endEntryAccess : M Unit := modify (fun s => s.endAccess s.st.vowner)

/-- Elements of an element group (R194, R229). -/
def VOp.groupSize (op : VOp) : Nat := if op.group = 0 then max 1 (32 / op.w) else op.group

/-- One more than the last element of the element group of element `p` (R194). -/
def VOp.groupEnd (op : VOp) (p : Nat) : Nat := if op.step then p + 1 else (p / op.groupSize + 1) * op.groupSize

/-- Processes elements of the entry in front up to element `stop`, at most as many as the fuel says; `may` says how far an access of a line
may go beyond. -/
def groupLoop (may : Nat → Bool) (op : VOp) (stop : Nat) : Nat → M Unit
  | 0 => pure ()
  | k + 1 => do
    let e ← headE
    if e.p < stop then
      let p ← match ← op.line may e.p with
        | some p => pure p
        | none => op.body e.p
      endEntryAccess
      modSt (fun st => st.mapHead (fun h => { h with p := if e.p < p then p else e.p + 1 }))
      groupLoop may op stop k

/-- Processes element groups of the entry in front while it may, until `budget` elements are done (R201, R202). -/
def elemLoop (ok : State → Nat → Nat → Bool) (younger : Bool) (op : VOp) : Nat → Nat → M Unit
  | 0, _ => pure ()
  | k + 1, budget => do
    let s ← get
    let e := s.st.head
    let n := op.count e s.st
    let stop := min (op.groupEnd e.p) n
    if e.p < n ∧ 0 < budget ∧ ok s e.p (stop - 1) then
      guarded younger (groupLoop (ok s e.p) op stop (stop - e.p))
      elemLoop ok younger op k (budget - (stop - e.p))

/-- The active elements from `p` to `n` − 1 that are not performed. -/
def VEntry.unperformed (e : VEntry) (st : Strand) (n : Nat) : List Nat :=
  (range' e.p (n - e.p)).filter (fun k => act e st k && !e.performed k)

/-- Whether an element is active, or may become so: the bits of its mask from `lim` on may still change (R202). -/
def actUpTo (lim : Nat) (e : VEntry) (st : Strand) (k : Nat) : Bool := decide (lim ≤ k) || act e st k

/-- The lowest element from `p` to `n` − 1 that may be active and is not performed. -/
def VEntry.nextElem (e : VEntry) (lim : Nat) (st : Strand) (n : Nat) : Option Nat :=
  (lowest (fun k => actUpTo lim e st (e.p + k) && !e.performed (e.p + k)) (n - e.p)).map (· + e.p)

/-- The results of the elements performed become visible group by group: the progress index goes to the lowest element not performed,
for a load to the start of its group (R201). -/
def showDone (lim : Nat) (op : VOp) (mo : MemOp) (n : Nat) (st : Strand) : Strand :=
  let e := st.head
  let q := match e.nextElem lim st n with
    | none => n
    | some f => if mo.reg.isSome then max e.p (op.groupEnd f - op.groupSize) else f
  let (st, e) := showHeld q st e
  st.mapHead (fun _ => e)

/-- Element `f` of the entry in front has been performed. -/
def heldNow (op : VOp) (mo : MemOp) (f : Nat) (r : Nat × Nat) (st : Strand) : Strand :=
  st.mapHead (fun h => { h with
    held := holdElem { elem := f, reg := mo.reg.getD 0, w := if mo.reg.isSome then op.w else 0, val := r.1, fl := r.2 } h.held
    begun := h.begun.filter (fun b => b.elem != f) })

/-- An element trap at `f` (R88, R264): the elements below it are visible, and none above. -/
def stopAt (f : Nat) (st : Strand) : Strand :=
  let (st, e) := showHeld f st st.head
  st.mapHead (fun _ => { e with held := [], begun := [] })

/-- The trap of element `f` that the probe pass has found, if it has. -/
def VEntry.faultOf (e : VEntry) (f : Nat) : Option Trap :=
  match e.faultAt with
  | some (k, t) => if k = f then some t else none
  | none => none

/-- Performs element `f` of the entry in front, and those of its line that `may` names. A fault that its probe pass has found is taken here
(R89). -/
def performElem (op : VOp) (mo : MemOp) (may : Nat → Bool) (f : Nat) : M Unit := do
  let e ← headE
  match e.faultOf f with
  | some t => elemAccess f 0 (throw (.trap t))
  | none => do
    let l ← match ← mo.line (fun q => may q && (e.faultOf q).isNone) f with
      | some l => pure l
      | none => do
        let r ← mo.go f
        pure [(f, r)]
    endEntryAccess
    modSt (fun st => l.foldl (fun st r => heldNow op mo r.1 r.2 st) st)

/-- At most one element group of each lane is begun and unfinished (R205). -/
def oneGroupEach (w : Nat) (l : List Nat) : Bool :=
  l.all (fun a => l.all (fun b => a * w / 256 != b * w / 256 || a * w / 32 == b * w / 32))

/-- Begins the elements of a list that have not begun; false when one of them cannot wait inside the package. -/
def beginElems (mo : MemOp) : List Nat → M Bool
  | [] => pure true
  | f :: r => do
    if (← headE).begun.any (fun b => b.elem == f) then beginElems mo r
    else match ← mo.start f with
      | none => pure false
      | some b => do
        modSt (fun st => st.mapHead (fun h => { h with begun := h.begun ++ [b] }))
        beginElems mo r

/-- An unordered access performs the element that comes after `skip` unperformed ones, which have begun (R88, R201, R205). Where that may
not be, nothing happens. -/
def performAhead (ok : State → Nat → Nat → Bool) (op : VOp) (mo : MemOp) (n skip : Nat) : M Unit := do
  let s ← get
  let st := s.st
  let l := st.head.unperformed st n
  match l[skip]? with
  | none => pure ()
  | some f =>
    let clear : Bool := match st.head.faultAt with | some (k, _) => decide (f < k) | none => true
    if clear ∧ ok s st.head.p (min (op.groupEnd f) n - 1) ∧ oneGroupEach op.w (l.take (skip + 1)) then
      tryCatch (do
          if ← beginElems mo (l.take (skip + 1)) then performElem op mo (fun _ => false) f
          else set s)
        (fun x => match x with
          | .trap _ | .wait => set s
          | x => throw x)

/-- Performs memory elements of the entry in front while it may, until `budget` of them are done (R201, R260, R262). The bits of its mask from
`lim` on may still change. -/
def memLoop (ok : State → Nat → Nat → Bool) (younger : Bool) (lim : Nat) (op : VOp) (mo : MemOp) : Nat → Nat → M Unit
  | 0, _ => pure ()
  | k + 1, budget => do
    let s ← get
    let st := s.st
    let e := st.head
    let n := op.count e st
    match e.nextElem lim st n with
    | none => modSt (showDone lim op mo n)
    | some f =>
      let may := fun q => ok s f (if mo.reg.isSome then min (op.groupEnd q) n - 1 else q)
      if 0 < budget ∧ may f then
        tryCatch (guarded younger (performElem op mo may f)) (fun x => do
          match x with
          | .trap _ => if younger then pure () else modSt (stopAt f)
          | _ => modSt (showDone lim op mo n)
          throw x)
        memLoop ok younger lim op mo k (budget - 1)
      else modSt (showDone lim op mo n)

/-- A finished entry at the head whose elements have raised enabled flags traps FPX, once (R208). -/
def takeFpx : M Unit := do
  let e ← headE
  if e.finished ∧ e.flags % 64 ≠ 0 then
    modSt (fun st => st.mapHead (fun h => { h with flags := 0 }))
    entryTrap cFPX (e.flags % 64 + (e.flags / 64 - 1) % 65536 * 2 ^ 32)

/-- The last step of an entry whose elements are complete: its scalar result. -/
def finishEntry (op : VOp) : M Unit := do
  let st ← getSt
  let e := st.head
  if !e.finished ∧ op.count e st ≤ e.p then
    op.done
    endEntryAccess
    modSt (fun st => st.mapHead (fun h => { h with finished := true, pages := [], faultAt := none, blks := [] }))

/-- Processes up to `budget` elements of the entry in front, which stands behind `k` older ones, and its last step when they are complete
(R200 to R208). `skip` says which element an unordered access performs. -/
def processFront (vopOf : VEntry → Instr → Option VOp) (k budget skip : Nat) : M Unit := do
  let st ← getSt
  let e := st.head
  let older := st.vq.tail.take k
  let younger := decide (0 < k)
  if e.finished then (if younger then pure () else takeFpx)
  else match opOf vopOf e with
    | .error r => entryTrap cILL e.word.toNat r
    | .ok op =>
      if (op.atHead && younger) || !usesReady vopOf older [] st 0 then pure ()
      else
        let n := op.count e st
        laneChecks op n
        op.check
        let s ← get
        if e.p < n ∧ (younger → usesReady vopOf older (op.earlyUses e st n) st (n - 1) && (match op.touchOf vopOf older e st with
            | some t => !t.all || memReady vopOf older op s 0 0
            | none => true)) then
          engineWait older op
          guarded younger op.begin
          let ok := fun (s : State) lo hi =>
            !younger || (usesReady vopOf older (op.allUses s.st.head s.st) s.st hi && memReady vopOf older op s lo hi)
          match op.mem with
          | none => elemLoop ok younger op budget budget
          | some mo =>
            let st ← getSt
            if 0 < skip ∧ mo.any then performAhead ok op mo (op.count st.head st) skip
            else memLoop ok younger (maskLimit vopOf older op st.head st) op mo (budget + 1) budget
        finishEntry op
        if !younger then takeFpx

/-- Entry `k` of the vector queue stands in front while it is processed. -/
def Strand.toFront (k : Nat) (st : Strand) : Strand :=
  match st.vq[k]? with
  | some e => { st with vq := e :: st.vq.eraseIdx k }
  | none => st

def Strand.toBack (k : Nat) (st : Strand) : Strand :=
  match st.vq with
  | [] => st
  | e :: r => { st with vq := r.take k ++ e :: r.drop k }

/-- Processes up to `budget` elements of entry `k` of the vector queue. A trap of an entry that is not the head waits (R206); why it does
not go on, if something says so. -/
def processEntry (vopOf : VEntry → Instr → Option VOp) (k budget skip : Nat) : M (Option Stop) := do
  if (← getSt).vq.length ≤ k then pure none
  else
    modSt (Strand.toFront k)
    let r ← tryCatch (do processFront vopOf k budget skip; pure none) (fun x => pure (some x))
    modSt (Strand.toBack k)
    pure r

/-- The same, where what stops the head stops the work. -/
def workEntry (vopOf : VEntry → Instr → Option VOp) (k budget skip : Nat) : M Unit := do
  match ← processEntry vopOf k budget skip with
  | none => pure ()
  | some (.trap t) => if k = 0 then throw (.trap t)
  | some .wait => if k = 0 then wait
  | some x => throw x

/-- The head entry retires when it is complete (R200). What it has claimed of a stream is released by `release`. -/
def retireHead (release : VEntry → M Unit) : M Unit := do
  let st ← getSt
  match st.vq with
  | [] => pure ()
  | e :: r =>
    if e.finished ∧ e.flags % 64 = 0 then
      release e
      modSt (fun st => { st with vq := r })

/-- Processes and retires the entries of the vector queue, oldest first. Where the head waits, each younger entry does what it may, and
the strand waits (R202, R204). -/
def runEntries (vopOf : VEntry → Instr → Option VOp) (release : VEntry → M Unit) : Nat → M Unit
  | 0 => pure ()
  | k + 1 => do
    let st ← getSt
    if st.vq.isEmpty then pure ()
    else match ← processEntry vopOf 0 65536 0 with
      | none => do
        retireHead release
        runEntries vopOf release k
      | some .wait => do
        forElems (st.vq.length - 1) 1 (fun j => workEntry vopOf j 65536 0)
        wait
      | some x => throw x

/-! ### Commit -/

/-- The entry sets its count, and has not yet fixed it (R259): a fault-first `VLD`, a `VLDZ` or a `VLDS`. -/
def VEntry.countOpen (e : VEntry) : Bool :=
  let w := e.word.toNat
  w / 2 ^ 26 == 0x27 && (bitOf w 4 || fld w 6 2 == 3) && !e.fixed

/-- The entry acts at the head, and nothing is committed before it has (R220, R222, R286): `SETMF`, `SETRM`, `VREL`, `MSETM`. -/
def VEntry.blocks (e : VEntry) : Bool :=
  let w := e.word.toNat
  !e.finished && (w / 2 ^ 26 == 0x20 && (w % 16 == 2 || w % 16 == 3 || w % 16 == 5) || w / 2 ^ 26 == 0x2C && fld w 21 3 == 0)

/-- The vector queue can take one more entry now (R18, R167, R220, R222, R259). -/
def Strand.canCommit (st : Strand) (needsRead : Bool) : Bool :=
  decide (st.vq.length < 32) && (!needsRead || decide (st.readQ.length < 8))
    && !st.vq.any (fun e => e.countOpen || e.blocks)

/-- The instruction takes a read-queue entry (R167): a scalar destination other than `x0`, or a lent copy. -/
def takesRead (l : Word) (i : Info) : Bool :=
  match i.back, i.dest with
  | some b, _ => b != 0
  | none, some (.x, d) => d != 0 || (latchV l && latchDup l)
  | none, _ => false

/-- The entry of an instruction that commits now (R200). An entry counted as one element starts at 0 whatever `VSTART` holds (R220,
R237). `VREL`, `VSAVE`, `VRST`, `MSETM`, `TAPEND` and `VHCLR` count as one element too: no rule says whether they do (DESIGN CHOICE, log 71). -/
def newVEntry (s : State) (word : Nat) (op1 op2 : Dword) (one : Bool) : VEntry :=
  let st := s.st
  let p := if one then 0 else st.vstart
  { addr := st.pc.toNat, word := BitVec.ofNat 32 word, lent := if latchV st.latch then st.latch else 0, p := p,
    vl := st.vl, op1 := op1, op2 := op2, tl := st.tl, vstart := st.vstart, fixed := false, flags := 0, finished := false,
    claim := none, lw := some (fld (st.cr 0x101).toNat 16 3), marker := none, seq := s.seqNow, key := s.seqNow, p0 := p }

/-- The vector queue takes an entry, which consumes what it reads of an engine's results: `VSTART` becomes 0, a scalar result takes a read-queue entry, and the strand goes on. -/
def pushVEntry (s : State) (e : VEntry) (i : Info) : Strand :=
  let st := s.st
  let rq : List ReadEntry :=
    if takesRead st.latch i then
      match i.back, i.dest with
      | some b, _ => [{ dst := b, src := e.seq, cpy := 0, cv := false, val := none }]
      | none, some (_, d) =>
        [{ dst := d, src := e.seq, cpy := latchCopy st.latch, cv := latchV st.latch && latchDup st.latch, val := none }]
      | none, none => []
    else []
  let acq := e.isVlds || i.reads.any (fun r => r.1 == .v && st.vq.any (fun o => o.engineDests.contains r.2))
  ({ st with vq := st.vq ++ [{ e with acq := acq }], readQ := st.readQ ++ rq }.setCrN 0x104 0).advance

/-- Commits an instruction to the vector queue (R18, R200). A strand without lanes commits it too: VGRANT is a trap of the entry
(R226). -/
def commitV (i : Instr) (info : Info) (op1 : Strand → Dword := fun _ => 0) (op2 : Strand → Dword := fun _ => 0)
    (one : Bool := false) : M Unit := do
  start (wordOf i) info
  let s ← get
  let st := s.st
  if !st.canCommit (takesRead st.latch info) then wait
  set (s.setSt (pushVEntry s (newVEntry s (wordOf i) (op1 st) (op2 st) one) info))

end Sys2Proof.Machine
end

