-- ==== Sys2Proof/Machine/VecOps.lean ====
section
/-! DEFINITION. What the compute instructions of the vector engine do, element by element (R226 to R240, R249 to R253): integer and
floating-point arithmetic, comparison, selection, mask logic, conversion, moves and permutations. -/

namespace Sys2Proof.Machine

/-- Width in bytes of a type code (R7, R41). -/
def typeW (t : Nat) : Nat := 2 ^ typeLog2 t

/-- An element read as its integer type says. -/
def asInt (t v : Nat) : Int := if isSigned t then toSigned (8 * typeW t) v else (v : Int)

/-- The registers of an element-wise instruction (R227): it reads `srcs` and writes `vd`, at width `w`. -/
def usesV (w vd : Nat) (srcs : List Nat) (_ : VEntry) (_ : Strand) : List Use :=
  Use.at (.v vd) true w :: srcs.map (fun r => Use.at (.v r) false w)

/-- It reads vector registers only. -/
def readsV (w : Nat) (srcs : List Nat) (_ : VEntry) (_ : Strand) : List Use := srcs.map (fun r => Use.at (.v r) false w)

/-- It writes mask `md`, and reads the masks and the vector registers given. -/
def usesM (w md : Nat) (ms vs : List Nat) (_ : VEntry) (_ : Strand) : List Use :=
  Use.at (.m md) true 1 :: (ms.map (fun r => Use.at (.m r) false 1) ++ vs.map (fun r => Use.at (.v r) false w))

/-- The rounding of element `idx` under `RM` (R214, R216). -/
def rndWith (rm : Nat) (st : Strand) (e : VEntry) (idx : Nat) : Rnd :=
  let w := e.word.toNat
  { mode := rm % 8,
    sto := if bitOf rm 3 then some (mix (st.cr 0x108).toNat (idx % 2 ^ 64) (w / 2 ^ 26 * 2 ^ 8 + w % 256)) else none }

def rmRnd (st : Strand) (e : VEntry) (idx : Nat) : Rnd := rndWith (st.cr 0x107).toNat st e idx

/-- `RM.SAT`. -/
def rmSat (st : Strand) : Bool := bitOf (st.cr 0x107).toNat 4

/-- An element-wise operation on the vector registers `srcs`: `f` gives the element and its flags from the strand before the element is
written. -/
def vMap (t vd : Nat) (srcs : List Nat) (f : Strand → VEntry → Nat → Nat × Nat) : VOp where
  w := typeW t
  uses := usesV (typeW t) vd srcs
  count := countW (typeW t)
  body := fun p => do
    modSt (fun st =>
      let e := st.head
      if act e st p then
        let (v, fl) := f st e p
        (st.putV vd (typeW t) p v).raiseFlags fl p
      else st)
    pure (p + 1)

/-- An integer operation on two sources (R231). -/
def vInt2 (t vd a b : Nat) (f : Int → Int → Int) : VOp :=
  vMap t vd [a, b] (fun st _ p =>
    (ofInt (8 * typeW t) (f (asInt t (st.velem a (typeW t) p)) (asInt t (st.velem b (typeW t) p))), 0))

/-- An integer operation on one source (R231). -/
def vInt1 (t vd a : Nat) (f : Int → Int) : VOp :=
  vMap t vd [a] (fun st _ p => (ofInt (8 * typeW t) (f (asInt t (st.velem a (typeW t) p))), 0))

/-- A shift or a logical operation on the bits of two sources (R231). -/
def vBits2 (t vd a b : Nat) (f : Nat → Nat → Nat) : VOp :=
  vMap t vd [a, b] (fun st _ p => (f (st.velem a (typeW t) p) (st.velem b (typeW t) p) % 2 ^ (8 * typeW t), 0))

/-- Width in bits. -/
def typeBits (t : Nat) : Nat := 8 * typeW t

/-- `VADD_INT` (R231): Integer vector add. -/
def opVaddInt (vd a b t : Nat) : VOp := vInt2 t vd a b (fun x y => x + y)
/-- `VSUB_INT` (R231): Integer vector subtract. -/
def opVsubInt (vd a b t : Nat) : VOp := vInt2 t vd a b (fun x y => x - y)
/-- `VMUL_INT` (R231): Integer vector multiply, low bits. -/
def opVmulInt (vd a b t : Nat) : VOp := vInt2 t vd a b (fun x y => x * y)
/-- `VMULH` (R231): Integer vector multiply, high bits. -/
def opVmulh (vd a b t : Nat) : VOp := vInt2 t vd a b (fun x y => x * y / 2 ^ typeBits t)
/-- `VMIN_INT` (R231): Integer vector minimum. -/
def opVminInt (vd a b t : Nat) : VOp := vInt2 t vd a b (fun x y => if x ≤ y then x else y)
/-- `VMAX_INT` (R231): Integer vector maximum. -/
def opVmaxInt (vd a b t : Nat) : VOp := vInt2 t vd a b (fun x y => if y ≤ x then x else y)
/-- `VSATADD` (R231): Saturating integer vector add. -/
def opVsatadd (vd a b t : Nat) : VOp := vInt2 t vd a b (fun x y => saturate (isSigned t) (typeBits t) (x + y))
/-- `VSATSUB` (R231): Saturating integer vector subtract. -/
def opVsatsub (vd a b t : Nat) : VOp := vInt2 t vd a b (fun x y => saturate (isSigned t) (typeBits t) (x - y))
/-- `VSHL` (R231): Integer vector shift left. -/
def opVshl (vd a b t : Nat) : VOp := vBits2 t vd a b (fun x y => x * 2 ^ (y % typeBits t))
/-- `VSHR` (R231): Integer vector logical shift right. -/
def opVshr (vd a b t : Nat) : VOp := vBits2 t vd a b (fun x y => x / 2 ^ (y % typeBits t))
/-- `VSRA` (R231): Integer vector arithmetic shift right. -/
def opVsra (vd a b t : Nat) : VOp :=
  vBits2 t vd a b (fun x y => ofInt (typeBits t) (toSigned (typeBits t) x / 2 ^ (y % typeBits t)))
/-- `VAND` (R231): Vector bitwise AND. -/
def opVand (vd a b t : Nat) : VOp := vBits2 t vd a b (fun x y => x &&& y)
/-- `VOR` (R231): Vector bitwise OR. -/
def opVor (vd a b t : Nat) : VOp := vBits2 t vd a b (fun x y => x ||| y)
/-- `VXOR` (R231): Vector bitwise XOR. -/
def opVxor (vd a b t : Nat) : VOp := vBits2 t vd a b (fun x y => x ^^^ y)
/-- `VABS_INT` (R231): Integer vector absolute value. -/
def opVabsInt (vd a t : Nat) : VOp := vInt1 t vd a (fun x => if x < 0 then -x else x)
/-- `VNEG_INT` (R231): Integer vector negation. -/
def opVnegInt (vd a t : Nat) : VOp := vInt1 t vd a (fun x => -x)

/-! ### Floating point -/

/-- A floating-point source element. -/
def Strand.felem (st : Strand) (t r p : Nat) : FVal := decodeF (fmtOf t) (st.velem r (typeW t) p)

/-- One rounding of an exact result, with its flags (R232). -/
def roundElem (t : Nat) (st : Strand) (e : VEntry) (p : Nat) (r : FVal × Nat) : Nat × Nat :=
  let (v, fl) := roundTo (fmtOf t) (rmRnd st e (st.ebase + p)) false r.1
  (v, fl ||| r.2)

/-- A floating-point operation on two sources, rounded once under `RM` (R232). -/
def vFp2 (t vd a b : Nat) (f : Rnd → FVal → FVal → FVal × Nat) : VOp :=
  vMap t vd [a, b] (fun st e p =>
    roundElem t st e p (f (rmRnd st e (st.ebase + p)) (st.felem t a p) (st.felem t b p)))

/-- A floating-point operation on one source (R232). -/
def vFp1 (t vd a : Nat) (f : FVal → FVal × Nat) : VOp :=
  vMap t vd [a] (fun st e p => roundElem t st e p (f (st.felem t a p)))

/-- The fused operations, which read vd as a third source (R232); `post` is the sign change of `VFNMA`, applied before rounding. -/
def vFp3 (t vd a b : Nat) (negP : Bool) (post : FVal → FVal) : VOp :=
  vMap t vd [vd, a, b] (fun st e p =>
    let (v, fl) := fFma (rmRnd st e (st.ebase + p)) negP (st.felem t vd p) (st.felem t a p) (st.felem t b p)
    roundElem t st e p (post v, fl))

/-- `VMIN` and `VMAX`: one operand, unrounded, or R217's result (R232, R233). -/
def vFpPick (t vd a b : Nat) (below : FVal → FVal → Bool) : VOp :=
  vMap t vd [a, b] (fun st e p =>
    let x := st.felem t a p
    let y := st.felem t b p
    if x.isNan || y.isNan then roundElem t st e p (nanResult [x, y])
    else (if below x y then st.velem a (typeW t) p else st.velem b (typeW t) p, 0))

/-- `VADD_FP` (R232): Floating-point vector add, rounded once. -/
def opVaddFp (vd a b t : Nat) : VOp := vFp2 t vd a b fAdd
/-- `VSUB_FP` (R232): Floating-point vector subtract. -/
def opVsubFp (vd a b t : Nat) : VOp := vFp2 t vd a b fSub
/-- `VMUL_FP` (R232): Floating-point vector multiply. -/
def opVmulFp (vd a b t : Nat) : VOp := vFp2 t vd a b (fun _ => fMul)
/-- `VFMA` (R232): Fused multiply-add d + a × b. -/
def opVfma (vd a b t : Nat) : VOp := vFp3 t vd a b false id
/-- `VFMS` (R232): Fused multiply-subtract d - a × b. -/
def opVfms (vd a b t : Nat) : VOp := vFp3 t vd a b true id
/-- `VFNMA` (R232): Negated fused multiply-add. -/
def opVfnma (vd a b t : Nat) : VOp := vFp3 t vd a b false FVal.negate
/-- `VDIV` (R232): Floating-point vector divide. -/
def opVdiv (vd a b t : Nat) : VOp := vFp2 t vd a b (fun _ => fDiv)
/-- `VSQRT` (R232): Floating-point vector square root. -/
def opVsqrt (vd a t : Nat) : VOp := vFp1 t vd a fSqrt
/-- `VRCP` (R232): Floating-point vector reciprocal. -/
def opVrcp (vd a t : Nat) : VOp := vFp1 t vd a fRcp
/-- `VRSQ` (R232): Floating-point vector reciprocal square root. -/
def opVrsq (vd a t : Nat) : VOp := vFp1 t vd a fRsq
/-- `VMIN_FP` (R232): Floating-point vector minimum. -/
def opVminFp (vd a b t : Nat) : VOp := vFpPick t vd a b (fun x y => !fBelow y x)
/-- `VMAX_FP` (R232): Floating-point vector maximum. -/
def opVmaxFp (vd a b t : Nat) : VOp := vFpPick t vd a b (fun x y => !fBelow x y)
/-- `VABS_FP` (R232): Clears the sign bit of each element. -/
def opVabsFp (vd a t : Nat) : VOp := vMap t vd [a] (fun st _ p => (setFld (st.velem a (typeW t) p) (typeBits t - 1) 1 0, 0))
/-- `VNEG_FP` (R232): Inverts the sign bit of each element. -/
def opVnegFp (vd a t : Nat) : VOp :=
  vMap t vd [a] (fun st _ p =>
    let v := st.velem a (typeW t) p
    (setFld v (typeBits t - 1) 1 (1 - fld v (typeBits t - 1) 1), 0))

/-- `VSCALE` (R232, R233). -/
def opVscale (vd a b t : Nat) : VOp :=
  vMap t vd [a, b] (fun st e p =>
    roundElem t st e p (fScale (st.felem t a p) (toSigned (typeBits t) (st.velem b (typeW t) p))))

/-- `VRND` (R234): the integral value of T that the mode selects; the source's sign is kept for zeros. -/
def opVrnd (vd a r t : Nat) : VOp :=
  vMap t vd [a] (fun st e p =>
    let x := st.felem t a p
    let rnd : Rnd := if r = 5 then rmRnd st e (st.ebase + p) else { mode := r }
    match x with
    | .nan _ _ => roundElem t st e p (nanResult [x])
    | .inf n => ((fmtOf t).infBits n, 0)
    | .fin n m ex => ((roundTo (fmtOf t) rtz false (.fin n (roundUnits rnd n m ex 0).1 0)).1, 0))

/-- `VFRAC` (R240): exact. -/
def opVfrac (vd a t : Nat) : VOp := vFp1 t vd a fFrac

/-- `VCLASS` (R240). -/
def opVclass (vd a t : Nat) : VOp := vMap t vd [a] (fun st _ p => (fClass (fmtOf t) (st.velem a (typeW t) p), 0))

/-! ### Compare, select, masks -/

/-- An operation that writes a mask bit for each active element. -/
def vMask (w md : Nat) (ms vs : List Nat) (f : Strand → Nat → Bool × Nat) : VOp where
  w := w
  uses := usesM w md ms vs
  count := countW w
  body := fun p => do
    modSt (fun st =>
      if act st.head st p then
        let (b, fl) := f st p
        (st.putM md p b).raiseFlags fl p
      else st)
    pure (p + 1)

/-- A comparison of two values that are no NaNs, by `int` for integers and by `flt` for floating values; `nan` is the result with a
NaN operand, and `quiet` says that only a signalling NaN sets NV (R235). -/
def vCmp (t md a b : Nat) (int : Int → Int → Bool) (flt : FVal → FVal → Bool) (nan quiet : Bool) : VOp :=
  vMask (typeW t) md [] [a, b] (fun st p =>
    if isFloat t then
      let x := st.felem t a p
      let y := st.felem t b p
      if x.isNan || y.isNan then
        (nan, (if x.isPoison || y.isPoison then fPZ else 0)
          + (if !quiet || x.isSig && !x.isPoison || y.isSig && !y.isPoison then fNV else 0))
      else (flt x y, 0)
    else (int (asInt t (st.velem a (typeW t) p)) (asInt t (st.velem b (typeW t) p)), 0))

/-- `VCMP_EQ` (R235): Writes a mask of elementwise equality. -/
def opVcmpEq (md a b t : Nat) : VOp := vCmp t md a b (fun x y => x == y) fEq false true
/-- `VCMP_NE` (R235): Writes a mask of elementwise inequality. -/
def opVcmpNe (md a b t : Nat) : VOp := vCmp t md a b (fun x y => x != y) (fun x y => !fEq x y) true true
/-- `VCMP_LT` (R235): Writes a mask of elementwise less-than. -/
def opVcmpLt (md a b t : Nat) : VOp := vCmp t md a b (fun x y => decide (x < y)) fLt false false
/-- `VCMP_LE` (R235): Writes a mask of elementwise less-or-equal. -/
def opVcmpLe (md a b t : Nat) : VOp := vCmp t md a b (fun x y => decide (x ≤ y)) (fun x y => !fLt y x) false false
/-- `VCMP_UN` (R235): Writes a mask of unordered (NaN) comparisons. -/
def opVcmpUn (md a b t : Nat) : VOp := vCmp t md a b (fun _ _ => false) (fun _ _ => false) true true

/-- `VSEL` (R236): every element from the starting progress index is written. -/
def opVsel (vd a b t : Nat) : VOp where
  w := typeW t
  uses := usesV (typeW t) vd [a, b]
  count := countW (typeW t)
  body := fun p => do
    modSt (fun st => st.putV vd (typeW t) p (st.velem (if act st.head st p then a else b) (typeW t) p))
    pure (p + 1)

/-- The element count of an instruction without a type: `VL` (R226). -/
def countVl (e : VEntry) (_ : Strand) : Nat := e.vl

/-- A mask row (R235): n = `VL`. A lane holds 256 bits of a mask, which are one element group (R229). -/
def vMaskRow (md : Nat) (ms : List Nat) (f : Strand → Nat → Bool) : VOp :=
  { vMask 1 md ms [] (fun st p => (f st p, 0)) with count := countVl, group := 256 }

/-- `MAND` (R235): Mask AND. -/
def opMand (md a b : Nat) : VOp := vMaskRow md [a, b] (fun st p => st.mbit a p && st.mbit b p)
/-- `MOR` (R235): Mask OR. -/
def opMor (md a b : Nat) : VOp := vMaskRow md [a, b] (fun st p => st.mbit a p || st.mbit b p)
/-- `MXOR` (R235): Mask XOR. -/
def opMxor (md a b : Nat) : VOp := vMaskRow md [a, b] (fun st p => st.mbit a p != st.mbit b p)
/-- `MNOT` (R235): Mask NOT. -/
def opMnot (md a : Nat) : VOp := vMaskRow md [a] (fun st p => !st.mbit a p)
/-- `MSET` (R235): Sets mask bits of active elements. -/
def opMset (md : Nat) : VOp := vMaskRow md [] (fun _ _ => true)
/-- `MCLR` (R235): Clears mask bits of active elements. -/
def opMclr (md : Nat) : VOp := vMaskRow md [] (fun _ _ => false)

/-- An entry counted as one element whose result is scalar (R237). -/
def vOne (uses : VEntry → Strand → List Use) (f : Strand → VEntry → Dword) : VOp where
  masked := false
  uses := uses
  count := countOne
  body := fun _ => do
    let st ← getSt
    produce (f st st.head)
    pure 1

/-- Bit `p` of `ms` counts for `VPOPC` and `VFIRST` (R237): `Active` with the `VSTART` captured at commit. -/
def countsBit (st : Strand) (e : VEntry) (ms p : Nat) : Bool := decide (e.vstart ≤ p) && act e st p && st.mbit ms p

/-- Every bit of mask `ms`, and of the mask operand, below `VL` (R228). -/
def usesBits (ms : Nat) (e : VEntry) (_ : Strand) : List Use :=
  let k := if e.lentMask then latchMask e.lent else e.mf
  [Use.all (.m ms) false e.vl, Use.all (.m k) false e.vl]

/-- `VPOPC` (R237): Counts active set mask bits into a scalar through the read queue. -/
def opVpopc (ms : Nat) : VOp :=
  vOne (usesBits ms) (fun st e => BitVec.ofNat 64 (((range' 0 e.vl).filter (countsBit st e ms)).length))

/-- `VFIRST` (R237): Returns the lowest active set mask bit through the read queue. -/
def opVfirst (ms : Nat) : VOp :=
  vOne (usesBits ms) (fun st e => match lowest (countsBit st e ms) e.vl with | some p => BitVec.ofNat 64 p | none => BitVec.allOnes 64)

/-! ### Conversion and moves -/

/-- The element count of `VCVT` (R239). -/
def countCvt (td ts : Nat) : VEntry → Strand → Nat := countW (max (typeW td) (typeW ts))

/-- The converted element and its flags (R239). -/
def cvtElem (td ts : Nat) (useRtz : Bool) (st : Strand) (e : VEntry) (p v : Nat) : Nat × Nat :=
  let wd := typeBits td
  if td = ts then (v, 0)
  else if isInt td && isInt ts then
    let i := asInt ts v
    if typeW ts < typeW td then (ofInt wd i, 0)
    else if rmSat st then (ofInt wd (saturate (isSigned td) wd i), 0)
    else (ofInt wd i, 0)
  else if isInt td then
    let x := decodeF (fmtOf ts) v
    let (i, fl) := roundInt (isSigned td) wd (if useRtz then rtz else rmRnd st e (st.ebase + p)) x
    (ofInt wd i, fl ||| (if x.isSig then fNV else 0))
  else if isInt ts then roundTo (fmtOf td) (rmRnd st e (st.ebase + p)) (rmSat st) (.ofInt (asInt ts v))
  else
    let x := decodeF (fmtOf ts) v
    let (b, fl) := roundTo (fmtOf td) (rmRnd st e (st.ebase + p)) (rmSat st) x
    (b, fl ||| (if x.isSig && !x.isPoison then fNV else 0))

/-- `VCVT` (R239): Converts elements between types, cross-lane when the width changes. Its element groups are those of the wider type; no rule names
them (DESIGN CHOICE, log 71). -/
def opVcvt (vd a r ts td : Nat) : VOp where
  w := max (typeW td) (typeW ts)
  uses := fun _ _ => [Use.at (.v vd) true (typeW td), Use.at (.v a) false (typeW ts)]
  count := countCvt td ts
  body := fun p => do
    modSt (fun st =>
      let e := st.head
      if act e st p then
        let (v, fl) := cvtElem td ts (r == 1) st e p (st.velem a (typeW ts) p)
        (st.putV vd (typeW td) p v).raiseFlags fl p
      else st)
    pure (p + 1)

/-- `VMV_V` (R238): Copies vector elements unchanged. -/
def opVmvV (vd a t : Nat) : VOp := vMap t vd [a] (fun st _ p => (st.velem a (typeW t) p, 0))
/-- `VMV_X` (R238): Broadcasts a scalar into vector elements. -/
def opVmvX (vd t : Nat) : VOp := vMap t vd [] (fun _ e _ => (e.op1.toNat % 2 ^ typeBits t, 0))
/-- `VID` (R238): Writes each element's absolute index EBASE + e. -/
def opVid (vd t : Nat) : VOp := vMap t vd [] (fun st _ p => ((st.ebase + p) % 2 ^ typeBits t, 0))

/-- `VIOTA` (R238): set bits of `ms` below the element. -/
def opViota (vd ms t : Nat) : VOp :=
  { vMap t vd [] (fun st _ p => (((range' 0 p).filter (fun k => st.mbit ms k)).length % 2 ^ typeBits t, 0)) with
    uses := fun _ _ => [Use.at (.v vd) true (typeW t), { res := .m ms, lo := fun _ => 0, hi := fun e => e + 1, past := fun _ => 0 }] }

/-! ### Permutations (R249 to R253) -/

/-- Elements of width `w` that the registers hold: V. -/
def Strand.vmax (st : Strand) (w : Nat) : Nat := st.lanes * 256 / w

/-- A permutation: element `p` of the destination, when active, is element `src p` of `a`, or zero, or stays. -/
inductive Src where
  | elem (k : Nat)
  | zero
  | keep

def vPermute (t vd a : Nat) (uses : VEntry → Strand → List Use) (src : Strand → VEntry → Nat → Nat → Src) : VOp where
  w := typeW t
  uses := fun e st => Use.at (.v vd) true (typeW t) :: uses e st
  count := countW (typeW t)
  body := fun p => do
    modSt (fun st =>
      let e := st.head
      if act e st p then
        match src st e (countW (typeW t) e st) p with
        | .elem k => st.putV vd (typeW t) p (st.velem a (typeW t) k)
        | .zero => st.putV vd (typeW t) p 0
        | .keep => st
      else st)
    pure (p + 1)

/-- Every element below the count of each vector source (R228). -/
def usesAll (t : Nat) (srcs : List Nat) (e : VEntry) (st : Strand) : List Use :=
  srcs.map (fun r => Use.all (.v r) false (countW (typeW t) e st * typeW t))

/-- `VSLIDEUP` (R249): Slides elements up by k. -/
def opVslideup (vd a t : Nat) : VOp :=
  vPermute t vd a (fun e _ => let k := e.op1.toNat
      [{ res := .v a, lo := fun p => (p - k) * typeW t, hi := fun i => (i + 1 - k) * typeW t, past := fun _ => 0 }])
    (fun _ e _ p => if e.op1.toNat ≤ p then .elem (p - e.op1.toNat) else .keep)

/-- `VSLIDEDN` (R249): Slides elements down by k. -/
def opVslidedn (vd a t : Nat) : VOp :=
  vPermute t vd a (fun e st =>
      let k := e.op1.toNat
      let top := st.vmax (typeW t) * typeW t
      [{ res := .v a, lo := fun p => min ((p + k) * typeW t) top, hi := fun i => min ((i + 1 + k) * typeW t) top,
         past := fun p => (p + k) * typeW t }])
    (fun st e _ p => if p + e.op1.toNat < st.vmax (typeW t) then .elem (p + e.op1.toNat) else .zero)

/-- One more than the highest element of vs1 that a `VPERM` reads, or its element count when that is more (R226, R228). -/
def permTop (b t : Nat) (e : VEntry) (st : Strand) : Nat :=
  let n := countW (typeW t) e st
  (range' e.p (n - e.p)).foldl (fun m p =>
    let i := st.velem b (typeW t) p
    if act e st p ∧ i < st.vmax (typeW t) then max m (i + 1) else m) n

/-- `VPERM` (R249): Permutes vs1 by the indices in vs2. -/
def opVperm (vd a b t : Nat) : VOp :=
  vPermute t vd a (fun e st =>
      { Use.all (.v a) false (countW (typeW t) e st * typeW t) with top := some (permTop b t e st * typeW t) } :: usesAll t [b] e st)
    (fun st _ _ p =>
    let i := st.velem b (typeW t) p
    if i < st.vmax (typeW t) then .elem i else .zero)

/-- The source of element `p` of a transposition of the first `n` elements with `c` columns (R252). -/
def reshapeSrc (n c p : Nat) : Nat :=
  if c = 0 ∨ n ≤ c then p
  else
    let rows := n / c
    if p < rows * c then p % rows * c + p / rows else p

/-- `VRESHAPE` (R252): Transposes a row-major matrix of c columns. -/
def opVreshape (vd a t : Nat) : VOp :=
  vPermute t vd a (usesAll t [a]) (fun _ e n p => .elem (reshapeSrc n e.op1.toNat p))

/-- Elements below `p` that the mask selects (R251). -/
def selBelow (e : VEntry) (st : Strand) (p : Nat) : Nat := ((range' 0 p).filter (act e st)).length

/-- `VEXPAND` (R251): Spreads consecutive source elements to the active positions. -/
def opVexpand (vd a t : Nat) : VOp :=
  { vPermute t vd a (usesAll t [a]) (fun st e _ p => .elem (selBelow e st p)) with maskBelow := true }

/-- `VCOMPRESS` (R251): the progress index counts source elements. -/
def opVcompress (vd a t : Nat) : VOp where
  w := typeW t
  maskBelow := true
  uses := fun e st => { Use.at (.v vd) true (typeW t) with past := fun _ => 0 } :: usesAll t [a] e st
  count := countW (typeW t)
  body := fun p => do
    modSt (fun st =>
      let e := st.head
      if act e st p then st.putV vd (typeW t) (selBelow e st p) (st.velem a (typeW t) p) else st)
    pure (p + 1)

/-- `VMOVX` (R253): sign-extended for i types, zero-extended otherwise. -/
def opVmovx (a t : Nat) : VOp :=
  vOne (fun e st => if e.op1.toNat < countW (typeW t) e st then [Use.one (.v a) false (typeW t) e.op1.toNat] else []) (fun st e =>
    let k := e.op1.toNat
    if k < countW (typeW t) e st then
      let v := st.velem a (typeW t) k
      if isSigned t then sext64 (typeBits t) v else BitVec.ofNat 64 v
    else 0)

/-- `VINS` (R253): `Active(i)` with the `VSTART` captured at commit. -/
def opVins (vd t : Nat) : VOp where
  w := typeW t
  masked := false
  uses := fun e st =>
    let i := e.op1.toNat
    let k := if e.lentMask then latchMask e.lent else e.mf
    if i < countW (typeW t) e st then [Use.one (.v vd) true (typeW t) i, Use.one (.m k) false 1 i] else []
  count := countOne
  body := fun _ => do
    modSt (fun st =>
      let e := st.head
      let i := e.op1.toNat
      if i < countW (typeW t) e st ∧ e.vstart ≤ i ∧ act e st i then
        st.putV vd (typeW t) i (e.op2.toNat % 2 ^ typeBits t)
      else st)
    pure 1

end Sys2Proof.Machine
end

