-- ==== Sys2Proof/Machine/VecRed.lean ====
section
/-! DEFINITION. Reductions and scans over the hold registers (R196, R241 to R247). -/

namespace Sys2Proof.Machine

/-- Fields of a hold register, by offset in bytes (R196). -/
abbrev Hold := BitVec 8192

def Strand.hold (st : Strand) (k : Nat) : Hold := Tab.get st.h k

def Strand.setHold (st : Strand) (k : Nat) (h : Hold) : Strand := { st with h := Tab.set st.h k h }

def Hold.get (h : Hold) (off n : Nat) : Nat := fld h.toNat (8 * off) (8 * n)

def Hold.put (h : Hold) (off n v : Nat) : Hold := BitVec.ofNat 8192 (setFld h.toNat (8 * off) (8 * n) v)

def Hold.ord (h : Hold) : Nat := h.get 0 1
def Hold.type (h : Hold) : Nat := h.get 1 1
/-- `PZ` is 1: any other value of the byte is not (R196, R247). -/
def Hold.pz (h : Hold) : Bool := h.get 3 1 == 1
def Hold.next (h : Hold) : Nat := h.get 8 8
def Hold.occ (h : Hold) : Nat := h.get 16 8

/-- A partial value; `none` is an empty node (R242). Integers are 64 bits, floating partials the encoding of an f32. -/
abbrev Node := Option Nat

/-- The partial in slot `k`: an unoccupied slot, or one with `E` set, is an empty node. -/
def Hold.slot (h : Hold) (k : Nat) : Node :=
  if bitOf h.occ k && !bitOf (h.get (0x20 + 16 * k + 8) 1) 0 then some (h.get (0x20 + 16 * k) 8) else none

/-- Stores a node in slot `k`, and sets its bit of `OCC`. -/
def Hold.setSlot (h : Hold) (k : Nat) (n : Node) : Hold :=
  let h := h.put 16 8 (setFld h.occ k 1 1)
  match n with
  | some v => h.put (0x20 + 16 * k) 16 v
  | none => h.put (0x20 + 16 * k) 16 (2 ^ 64)

/-- Empties slot `k`. -/
def Hold.clearSlot (h : Hold) (k : Nat) : Hold := (h.put 16 8 (setFld h.occ k 1 0)).put (0x20 + 16 * k) 16 0

/-- The combination of two partials of order `ord` and type `t`, with its flags (R242); it never rounds stochastically. -/
def combineVals (ord t : Nat) (mode x y : Nat) : Nat × Nat :=
  if isFloat t then
    let a := decodeF fmtF32 x
    let b := decodeF fmtF32 y
    let r : Rnd := { mode := mode }
    if ord = 3 ∨ ord = 4 then
      if a.isNan || b.isNan then
        let (v, fl) := nanResult [a, b]
        ((roundTo fmtF32 rne false v).1, fl)
      else if ord = 3 then (if !fBelow a b then x else y, 0)
      else (if !fBelow b a then x else y, 0)
    else
      let (v, fl) := fAdd r a b
      let (z, fl') := roundTo fmtF32 r false v
      (z, fl ||| fl')
  else
    let u := toSigned 64 x
    let v := toSigned 64 y
    let le := if isSigned t then decide (u ≤ v) else decide (x ≤ y)
    if ord = 3 then (if le then y else x, 0)
    else if ord = 4 then (if le then x else y, 0)
    else if ord = 5 then (x &&& y, 0)
    else if ord = 6 then (x ||| y, 0)
    else if ord = 7 then (x ^^^ y, 0)
    else ((x + y) % 2 ^ 64, 0)

/-- `Combine` (R242). -/
def combine (ord t mode : Nat) (x y : Node) : Node × Nat :=
  match x, y with
  | none, y => (y, 0)
  | x, none => (x, 0)
  | some a, some b => let (v, fl) := combineVals ord t mode a b; (some v, fl)

/-- The leaf of an active element: its partial value, the flags of its entry, and whether it is poison (R242). -/
def leafOf (t v : Nat) : Nat × Nat × Bool :=
  if isFloat t then
    let x := decodeF (fmtOf t) v
    if x.isPoison then (fmtF32.poisonBits, 0, true)
    else if x.isNan then (fmtF32.canonBits, if x.isSig then fNV else 0, false)
    else ((roundTo fmtF32 rne false x).1, 0, false)
  else (ofInt 64 (asInt t v), 0, false)

/-- Flags accrue into the hold register and into `FFLAGS` (R242, R208). -/
def holdFlags (k fl e : Nat) (st : Strand) : Strand :=
  let h := st.hold k
  (st.setHold k (h.put 2 1 (h.get 2 1 ||| fl))).raiseFlags fl e

/-- `HoldStart` (R243). -/
def holdStart (k ord t n : Nat) : M Unit := do
  let st ← getSt
  let h := st.hold k
  let e := st.head
  let at0 := (st.ebase + e.p) % 2 ^ 64
  if h.ord = 0 then
    let z : Hold := (((0 : Hold).put 0 1 ord).put 1 1 t).put 8 8 at0
    let z := if ord = 2 then ((range' 0 62).foldl (fun h j => if bitOf at0 j then h.setSlot j none else h) z).put 16 8 at0
      else z
    modSt (fun st => st.setHold k z)
    if ord = 2 ∧ 2 ^ 62 ≤ st.ebase + n then entryTrap cILL e.word.toNat 8 k
  else
    if h.ord ≠ ord ∨ h.type ≠ t ∨ h.next ≠ at0 then entryTrap cILL e.word.toNat 8 k
    if ord = 2 ∧ 2 ^ 62 ≤ st.ebase + n then entryTrap cILL e.word.toNat 8 k

/-- The node of element `p`, with the flags its entry raises (R242). -/
def leafAt (t a p : Nat) (st : Strand) : Node × Nat × Bool :=
  if act st.head st p then
    let (v, fl, pz) := leafOf t (st.velem a (typeW t) p)
    (some v, fl, pz)
  else (none, 0, false)

/-- A poison element sets `PZ` of the hold register (R242). -/
def markPz (k : Nat) (pz : Bool) (st : Strand) : Strand := if pz then st.setHold k ((st.hold k).put 3 1 1) else st

/-- The carry of the canonical tree (R244): `node` moves up while the slot is occupied. -/
def treeCarry (k ord t mode : Nat) (h : Hold) (node : Node) (fl : Nat) : Nat → Hold × Nat
  | 0 => (h, fl)
  | fuel + 1 =>
    let j := 61 - fuel
    if bitOf h.occ j then
      let (nd, f) := combine ord t mode (h.slot j) node
      treeCarry k ord t mode (h.clearSlot j) nd (fl ||| f) fuel
    else (h.setSlot j node, fl)

/-- `RM.MODE`. -/
def rmMode (st : Strand) : Nat := (st.cr 0x107).toNat % 8

/-- An ascending step into slot 0 (R245, R246): the register after it, and its flags. -/
def slotStep (ord t mode : Nat) (h : Hold) (node : Node) : Hold × Nat :=
  let (nd, fl) := combine ord t mode (h.slot 0) node
  (h.setSlot 0 nd, fl)

/-- A reduction into hold register `k` (R244, R245). -/
def vReduce (ord a k t : Nat) : VOp where
  w := typeW t
  uses := fun _ _ => [Use.at (.v a) false (typeW t), Use.hold k]
  early := fun _ _ => [Use.hold k]
  count := countW (typeW t)
  begin := do
    let st ← getSt
    holdStart k ord t (countW (typeW t) st.head st)
  body := fun p => do
    modSt (fun st =>
      let (node, fl, pz) := leafAt t a p st
      let st := markPz k pz st
      let h := st.hold k
      let (h, f) :=
        if ord = 2 then treeCarry k ord t (rmMode st) h node fl 62
        else let (h, f) := slotStep ord t (rmMode st) h node; (h, fl ||| f)
      holdFlags k f p (st.setHold k (h.put 8 8 ((st.ebase + p + 1) % 2 ^ 64))))
    pure (p + 1)

/-- `VREDO` (R245): Ordered reduction into a hold register. -/
def opVredo (a k t : Nat) : VOp := vReduce 1 a k t
/-- `VREDT` (R244): Canonical-tree reduction into a hold register, by absolute index. -/
def opVredt (a k t : Nat) : VOp := vReduce 2 a k t
/-- `VREDMAX` (R245): Maximum reduction into a hold register. -/
def opVredmax (a k t : Nat) : VOp := vReduce 3 a k t
/-- `VREDMIN` (R245): Minimum reduction into a hold register. -/
def opVredmin (a k t : Nat) : VOp := vReduce 4 a k t
/-- `VREDAND` (R245): AND reduction into a hold register. -/
def opVredand (a k t : Nat) : VOp := vReduce 5 a k t
/-- `VREDOR` (R245): OR reduction into a hold register. -/
def opVredor (a k t : Nat) : VOp := vReduce 6 a k t
/-- `VREDXOR` (R245): XOR reduction into a hold register. -/
def opVredxor (a k t : Nat) : VOp := vReduce 7 a k t

/-- `Out` of a scan (R246): the element and its flags. -/
def scanOut (t p : Nat) (st : Strand) (n : Node) : Nat × Nat :=
  match n with
  | none => (0, 0)
  | some v =>
    if isFloat t then roundTo (fmtOf t) (rmRnd st st.head (st.ebase + p)) (rmSat st) (decodeF fmtF32 v)
    else (v % 2 ^ typeBits t, 0)

/-- `VSCAN` (`excl` = false) and `VSCANX` (R246). -/
def vScan (excl : Bool) (vd a k t : Nat) : VOp where
  w := typeW t
  uses := fun _ _ => [Use.at (.v vd) true (typeW t), Use.at (.v a) false (typeW t), Use.hold k]
  early := fun _ _ => [Use.hold k]
  count := countW (typeW t)
  begin := do
    let st ← getSt
    holdStart k (if excl then 9 else 8) t (countW (typeW t) st.head st)
  body := fun p => do
    modSt (fun st =>
      let h := st.hold k
      let st :=
        if act st.head st p then
          let (node, fl, pz) := leafAt t a p st
          let (h', f) := slotStep (if excl then 9 else 8) t (rmMode st) h node
          let (v, fo) := scanOut t p st (if excl then h.slot 0 else h'.slot 0)
          let st := markPz k pz (st.setHold k (if pz then h'.put 3 1 1 else h'))
          (holdFlags k (fl ||| f) p (st.putV vd (typeW t) p v)).raiseFlags fo p
        else st
      let h := st.hold k
      st.setHold k (h.put 8 8 ((st.ebase + p + 1) % 2 ^ 64)))
    pure (p + 1)

/-- `VSCAN` (R246): Inclusive scan, carrying its running value in a hold register. -/
def opVscan (vd a k t : Nat) : VOp := vScan false vd a k t
/-- `VSCANX` (R246): Exclusive scan, carrying its running value in a hold register. -/
def opVscanx (vd a k t : Nat) : VOp := vScan true vd a k t

/-- The identity of an order, for an empty result (R247): the 64 bits of an integer, or an f32 encoding. For max, min and and it is that of the type
`T`, extended to 64 bits; R247 names no width (DESIGN CHOICE, log 71). -/
def holdIdentity (ord t : Nat) : Nat :=
  if ord = 3 then
    (if isFloat t then fmtF32.infBits true else if isSigned t then ofInt 64 (intMin true (typeBits t)) else 0)
  else if ord = 4 then
    (if isFloat t then fmtF32.infBits false else if isSigned t then ofInt 64 (intMax true (typeBits t)) else 2 ^ typeBits t - 1)
  else if ord = 5 then (if isSigned t then 2 ^ 64 - 1 else 2 ^ typeBits t - 1)
  else 0

/-- The value that `VHRD` folds out of a hold register, with its flags (R247). -/
def holdValue (t mode : Nat) (h : Hold) : Nat × Nat :=
  let (v, fl) :=
    if h.ord = 2 then
      (range' 0 62).foldl (fun (a : Node × Nat) k =>
        if bitOf h.occ k then let (n, f) := combine 2 t mode (h.slot k) a.1; (n, a.2 ||| f) else a) (none, 0)
    else if h.ord = 0 then (none, 0)
    else (h.slot 0, 0)
  match v with
  | some v => (v, fl)
  | none => (holdIdentity h.ord t, fl)

/-- `VHRD` (R247). -/
def opVhrd (k t : Nat) : VOp where
  masked := false
  uses := fun _ _ => [Use.hold k]
  early := fun _ _ => [Use.hold k]
  count := countOne
  begin := do
    let st ← getSt
    let h := st.hold k
    if h.ord ≠ 0 ∧ h.type ≠ t then entryTrap cILL st.head.word.toNat 8 k
  body := fun _ => do
    let st ← getSt
    let h := st.hold k
    let (v, fl) := holdValue t (rmMode st) h
    if isFloat t then
      let x : FVal := if h.pz then .poison else decodeF fmtF32 v
      let (b, f) := roundTo (fmtOf t) (rmRnd st st.head h.next) (rmSat st) x
      modSt (fun st => (st.raiseFlags (fl ||| f) 0).setHold k 0)
      produce (BitVec.ofNat 64 b)
    else
      modSt (fun st => (st.raiseFlags fl 0).setHold k 0)
      produce (BitVec.ofNat 64 v)
    pure 1

/-- `VHCLR` (R247). It counts as one element, since it has no type and works on no lane; R237 does not list it (DESIGN CHOICE, log 71). -/
def opVhclr (k : Nat) : VOp where
  masked := false
  uses := fun _ _ => [Use.hold k]
  count := countOne
  body := fun _ => do
    modSt (fun st => st.setHold k 0)
    pure 1

end Sys2Proof.Machine
end

