-- ==== Sys2Proof/Machine/VecMem.lean ====
section
/-! DEFINITION. Vector memory access (R255 to R278): plain, converting, fault-first and compressed loads and stores, the
compress-store and the vector atomics. -/

namespace Sys2Proof.Machine

/-- The accessor of a vector access of the current strand; `br` restricts it to BR leaves (R263). -/
def vAcc (a : Acc) (br : Bool) (s : State) : Acc := ({ a with brOnly := br }).forStrand s

/-- An earlier scalar access of the strand that touches a byte of the pieces is not yet performed: one of its buffers, or a store that has
left the package. -/
def scalarHit (s : State) (l : List (Xl × Nat)) : Bool :=
  let hit := fun (pl : Place) (pa size : Nat) => l.any (fun p => samePlace p.1.place pl p.1.pa p.2 pa size)
  s.st.stores.any (fun e => hit e.place e.pa e.size) || s.st.loads.any (fun e => hit e.place e.pa e.size)
    || s.txns.any (fun t => t.late.isSome && t.sid == s.st.owner && t.done.isNone && l.any (fun p =>
      (match p.1.place with | .remote h => h == t.home | _ => false) && overlaps t.pa t.size p.1.pa p.2))

/-- Earlier scalar accesses of the strand that touch a byte of the pieces are performed first (R95, R96). -/
def settleOverlap (l : List (Xl × Nat)) : M Unit := do
  if scalarHit (← get) l then
    settleStores
    if scalarHit (← get) l then wait

/-- An error of a vector element's data access (R264, R278, R461). -/
def vecErr {α : Type} (e : AccErr) (va elem : Nat) : M α :=
  match e with
  | .bank pa w3 => entryTrap cBANKERR va 0x14 elem pa w3
  | .link w0 w1 w2 w3 => entryTrap cLINKERR va w0 w1 w2 w3

/-- The lane bank that translates for strand lane `l`: that of the granule's lane (R84, R122). -/
def laneUnit (s : State) (l : Nat) : Nat :=
  let cl := clusterOf s.cur
  match (s.granulesOf cl s.st.owner)[l / 8]? with
  | some (g, _) => unitLane cl (g * 8 + l % 8)
  | none => unitCluster cl

/-- The page of an address for the entry in front: one that it has translated already, or a translation, which it keeps (R86, R88). -/
def pageOf (a : Acc) (va : Nat) : M TlbEntry := do
  let e ← headE
  match e.pages.find? (fun t => t.asid == a.asid && decide (t.base ≤ va) && decide (va < t.base + t.size)) with
  | some t => pure t
  | none => do
    let t ← lookupXl a va
    modSt (fun st => st.mapHead (fun h => { h with pages := t :: h.pages }))
    pure t

/-- `Translate` of a range for element `f` of the entry in front, at width `w` in the registers: the lane that holds the element
translates (R84, R88, R89). -/
def vXlate (a : Acc) (w va size f w2 : Nat) : M (List (Xl × Nat)) := do
  let a := { a with unit := laneUnit (← get) (f * w / 256) }
  elemAccess f w2 (xlateBy (pageOf a) a va size)

/-- Reads translated bytes for element `f`, in ascending order (R260, R264). -/
def vFetch (dom : Nat) (l : List (Xl × Nat)) (va f : Nat) : M Nat := do
  settleOverlap l
  match ← readPieces dom (splitPieces l) va with
  | .ok v => pure v
  | .error (e, at0) => vecErr e at0 f

/-- A read of one element's bytes, for element `f` (R260, R264). -/
def vRead (br : Bool) (w va size f w2 : Nat) : M Nat := do
  let a := vAcc .vload br (← get)
  let l ← vXlate a w va size f w2
  vFetch a.dom l va f

/-- A write of one element's bytes, for element `f`: every byte is translated before any is written (R260, R267, R273). -/
def vWrite (br : Bool) (w va size v f w2 : Nat) : M Unit := do
  let a := vAcc .vstore br (← get)
  let l ← vXlate a w va size f w2
  settleOverlap l
  match ← writePieces a.dom false (splitPieces l) va v with
  | .ok _ => pure ()
  | .error (e, at0) => vecErr e at0 f

/-- How a vector memory instruction finds its elements (R57): stride and index come from the captured operand or a register. -/
inductive Mode where
  | unit
  | strided
  | indexed (v : Nat)

/-- The offset of an element from the captured base (R57, R258). -/
def elemOff (m : Mode) (w : Nat) (st : Strand) (e : VEntry) (p : Nat) : Int :=
  match m with
  | .unit => (p * w : Nat)
  | .strided => p * e.op2.toInt
  | .indexed v => toSigned (8 * w) (st.velem v w p)

/-- `ElementAddr` (R57, R258). -/
def elemAddr (m : Mode) (w : Nat) (st : Strand) (e : VEntry) (p : Nat) : Nat := ofInt 64 ((e.op1.toNat : Int) + elemOff m w st e p)

/-- The index register of an indexed access. -/
def Mode.uses (m : Mode) (w : Nat) : List Use :=
  match m with
  | .indexed v => [Use.at (.v v) false w]
  | _ => []

def Mode.isIndexed (m : Mode) : Bool := match m with | .indexed _ => true | _ => false

/-- The elements from the starting progress index to `n` − 1 that are active, or may become so. -/
def activeFrom (lim : Nat) (e : VEntry) (st : Strand) (n : Nat) : List Nat := (range' e.p0 (n - e.p0)).filter (actUpTo lim e st)

/-- What a plain access covers (R262). -/
def touchPlain (wr : Bool) (m : Mode) (w lim : Nat) (e : VEntry) (st : Strand) : Option Touch :=
  if m.isIndexed && !e.probed then some { wr := wr, all := true, spans := [] }
  else some { wr := wr, hull := !m.isIndexed
              spans := (activeFrom lim e st (countW w e st)).map (fun p => (p, (e.op1.toNat : Int) + elemOff m w st e p, w)) }

/-- An access at one range of addresses, each byte of which counts for every element, until the entry has finished. -/
def touchRange (wr : Bool) (a n : Nat) (e : VEntry) : Option Touch :=
  some { wr := wr, spans := [(e.vl, (a : Int), n)], upto := fun _ => e.vl }

/-- Whether a translation fails: the trap that says so, if it does (R89, R268). -/
def failing {α : Type} (m : M α) : M (Option Trap) :=
  tryCatch (do let _ ← m; pure none) (fun x => match x with
    | .trap t => pure (some t)
    | x => throw x)

/-- The lowest active element from `p` on, of `n`, whose translation fails, with the trap. -/
def firstFault (at' : Strand → VEntry → Nat → M Unit) (p : Nat) : Nat → M (Option (Nat × Trap))
  | 0 => pure none
  | n + 1 => do
    let st ← getSt
    if act st.head st p then
      match ← failing (at' st st.head p) with
      | some t => pure (some (p, t))
      | none => firstFault at' (p + 1) n
    else firstFault at' (p + 1) n

/-- The entry in front fixes its count (R259): `VL` and the entry's own count. -/
def fixCount (c : Nat) : M Unit :=
  modSt (fun st => (st.setCrN 0x100 c).mapHead (fun h => { h with vl := c, fixed := true }))

/-- The entry in front has fixed its count, and `VL` is unchanged. -/
def keepCount : M Unit := modSt (fun st => st.mapHead (fun h => { h with fixed := true }))

/-- The probe pass of an indexed access (R89), and the translation of all elements by a fault-first load before it fixes its count (R90,
R268): every active element from the progress index up is translated. -/
def probePass (ff indexed : Bool) (w : Nat) (at' : Strand → VEntry → Nat → M Unit) : M Unit := do
  let st ← getSt
  let e := st.head
  let first := ff && !e.fixed
  if !e.probed && (indexed || first) then
    let r ← firstFault at' e.p (countW w e st - e.p)
    modSt (fun st => st.mapHead (fun h => { h with probed := true, faultAt := if first then none else r }))
    if first then
      match r with
      | none => keepCount
      | some (f, t) => if f = 0 then elemAccess 0 0 (throw (.trap t)) else fixCount f

/-- The parts of a begun element, when all lie in the package (R205). -/
def begunParts (l : List (Xl × Nat)) : Option (List (Nat × Place × Nat)) :=
  let l := splitPieces l
  if l.all (fun p => match p.1.place with | .home | .table | .bank | .localStore => true | _ => false) then
    some (l.map (fun p => (p.1.pa, p.1.place, p.2)))
  else none

/-- Element `f` of an unordered access begins: it is translated, and what it will do is fixed (R88, R201). -/
def beginElem (a : Acc) (w op reg : Nat) (va : Strand → VEntry → Nat) (val : Strand → Nat) (f : Nat) : M (Option BegunElem) := do
  let st ← getSt
  let l ← vXlate a w (va st st.head) w f 0
  settleOverlap l
  match begunParts l with
  | none => pure none
  | some parts => do
    let st ← getSt
    pure (some { elem := f, op := op, reg := reg, parts := parts, val := val st, size := w, dom := a.dom })

/-! ### Lines outside the package (R454) -/

/-- The bytes all lie in the 64-byte line `k`. -/
def inLine (k : Nat) (l : List (Nat × Nat)) : Bool := l.all (fun p => p.1 / 64 == k && (p.1 + p.2 - 1) / 64 == k)

/-- The first and the last of the bytes, the last excluded. -/
def byteHull (l : List (Nat × Nat)) : Nat × Nat :=
  (l.foldl (fun m p => min m p.1) (l.headD (0, 0)).1, l.foldl (fun m p => max m (p.1 + p.2)) 0)

/-- The mask of bytes from address `lo` on. -/
def byteMask (lo : Nat) (l : List (Nat × Nat)) : Nat := l.foldl (fun m p => m ||| (2 ^ p.2 - 1) * 2 ^ (p.1 - lo)) 0

/-- Bytes from address `lo` on into which values are put in turn. -/
def byteData (lo : Nat) (l : List (Nat × Nat × Nat)) : Nat := l.foldl (fun d p => setFld d (8 * (p.1 - lo)) (8 * p.2.1) p.2.2) 0

/-- What an element of an access does in its line: its bytes, and the value of the first range, which is 0 for a load. -/
structure LineElem where
  elem : Nat
  bytes : List (Nat × Nat)
  val : Nat

/-- The lowest of an element's bytes in the word of 32 bytes at address `wa` (R264). -/
def LineElem.lowIn (x : LineElem) (wa : Nat) : Nat :=
  let l := (x.bytes.filter (fun p => overlaps p.1 p.2 wa 32)).map (fun p => max p.1 wa)
  l.foldl min (l.headD wa)

/-- The lowest element of a transaction that has a byte in the uncorrectable 32-byte word at `pa`. -/
def firstIn (t : Txn) (pa : Nat) (l : List LineElem) : Option LineElem :=
  l.find? (fun x => x.bytes.any (fun p => overlaps (t.pa + (p.1 - t.va)) p.2 pa 32))

/-- Sends the transaction of a line for the elements given, all of whose bytes lie in it. That of atomics gives the width of each. -/
def sendLine (x : Xl) (dom op home va : Nat) (l : List LineElem) : M Unit := do
  let bytes := l.flatMap LineElem.bytes
  let (lo, hi) := byteHull bytes
  let pa := x.pa - va % 64 + lo % 64
  settleOverlap [({ x with pa := pa }, hi - lo)]
  openTxn false { newTxn x.who dom home op pa x.mt (if 2 ≤ op then (bytes.headD (0, 0)).2 else hi - lo)
      (byteData lo (l.filterMap (fun e => e.bytes.head?.map (fun p => (p.1, p.2, e.val))))) (byteMask lo bytes) lo with
    elems := l.map LineElem.elem }

/-- The elements `l`, lowest first, are one access to a line where they lie in another package (R454): those that were performed together, and
the read of their bytes by address and size; none where the lowest lies elsewhere or in two lines. An error is that of the lowest element
that it concerns, and those below it are performed without it (R264). -/
def lineAccess (a : Acc) (w op w2 : Nat) (l : List LineElem) : M (Option (List Nat × (Nat → Nat → Nat))) := do
  match l with
  | [] => pure none
  | e :: _ =>
    match e.bytes with
    | [] => pure none
    | (va, n) :: _ =>
      if !inLine (va / 64) e.bytes then pure none
      else
        match ← vXlate a w va n e.elem w2 with
        | [] => pure none
        | (x, _) :: _ =>
          match x.place with
          | .remote h => do
            let s ← get
            match s.txns.find? (fun t => t.sid == x.who && t.op == op && t.elems.contains e.elem) with
            | none =>
              sendLine x a.dom op h va l
              wait
            | some t =>
              match ← txnAnswer t false with
              | .ok d => pure (some (t.elems, fun v k => fld d (8 * (v - t.va)) (8 * k)))
              | .error (.bank pa w3) =>
                match firstIn t pa (l.filter (fun y => t.elems.contains y.elem)) with
                | some y =>
                  if y.elem = e.elem then vecErr (.bank pa w3) (y.lowIn (t.va + pa - t.pa)) e.elem
                  else
                    set (dropTxn s t.home t.tag)
                    sendLine x a.dom op h va (l.filter (fun z => decide (z.elem < y.elem)))
                    wait
                | none => vecErr (.bank pa w3) va e.elem
              | .error er => vecErr er va e.elem
          | _ => pure none

/-- The elements of the entry in front that make one access with element `f`: those of its line that are active, not performed and let through
by `may`; where the access is ordered, only as far as they follow `f` without another (R201, R454; DEDUCED, log 68). -/
def lineElems (st : Strand) (n : Nat) (any : Bool) (may : Nat → Bool) (bytes : Nat → List (Nat × Nat)) (val : Nat → Nat) (f : Nat) : List LineElem :=
  let k := ((bytes f).headD (0, 0)).1 / 64
  let rest := ((st.head.unperformed st n).filter (fun q => decide (f < q)))
  let hit := fun q => inLine k (bytes q) && may q
  (f :: (if any then rest.filter hit else rest.takeWhile hit)).map (fun q => { elem := q, bytes := bytes q, val := val q })

/-- Elements of atomics that share a transaction: each address once, since a transaction gives an address one operand; where the access is
ordered, only as far as none comes back to an address (R275; log 68). -/
def distinctElems (any : Bool) : List (Nat × Nat) → List LineElem → List LineElem
  | _, [] => []
  | seen, e :: r =>
    if e.bytes.any seen.contains then (if any then distinctElems any seen r else [])
    else e :: distinctElems any (e.bytes ++ seen) r

/-- The bytes of element `f` lie in another package. -/
def goesOut (a : Acc) (w : Nat) (bytes : List (Nat × Nat)) (f w2 : Nat) : M Bool := do
  match bytes with
  | [] => pure false
  | (va, n) :: _ =>
    match ← vXlate a w va n f w2 with
    | (x, _) :: _ => pure (match x.place with | .remote _ => true | _ => false)
    | [] => pure false

/-- Element `f` of a load or store with the others of its line, where they lie in another package (R454). -/
def memLine (a : Acc) (w op : Nat) (any : Bool) (bytes : Strand → VEntry → Nat → List (Nat × Nat)) (val : Strand → Nat → Nat)
    (res : Strand → Nat → (Nat → Nat → Nat) → Nat × Nat) (w2 : Nat) (may : Nat → Bool) (f : Nat) : M (Option (List (Nat × Nat × Nat))) := do
  let st ← getSt
  let b := bytes st st.head
  if ← goesOut a w (b f) f w2 then
    let l := lineElems st (countW w st.head st) any may b (val st) f
    match ← lineAccess a w op w2 (if 2 ≤ op then distinctElems any [] l else l) with
    | some (l, get) => pure (some (l.map (fun q => (q, res st q get))))
    | none => pure none
  else pure none

/-- `VLD` (R260, R268); `u` lets its elements be performed in any order (R262). -/
def opVld (vd : Nat) (m : Mode) (w : Nat) (u ff br : Bool) : VOp where
  w := w
  uses := fun _ _ => Use.at (.v vd) true w :: m.uses w
  early := fun _ _ => m.uses w
  earlyMask := ff || m.isIndexed
  touch := touchPlain false m w
  count := countW w
  begin := do
    let a := vAcc .vload br (← get)
    probePass ff m.isIndexed w (fun st e p => do let _ ← vXlate a w (elemAddr m w st e p) w p 0)
  mem := some {
    reg := some vd
    any := u
    go := fun p => do
      let st ← getSt
      let v ← vRead br w (elemAddr m w st st.head p) w p 0
      pure (v, 0)
    line := fun may p => do
      let bytes := fun st e q => [(elemAddr m w st e q, w)]
      memLine (vAcc .vload br (← get)) w 0 u bytes (fun _ _ => 0) (fun st q get => (get (elemAddr m w st st.head q) w, 0)) 0 may p
    start := fun p => do
      beginElem (vAcc .vload br (← get)) w 0 vd (fun st e => elemAddr m w st e p) (fun _ => 0) p }

/-- `VST` (R260). -/
def opVst (vs : Nat) (m : Mode) (w : Nat) (u br : Bool) : VOp where
  w := w
  step := true
  uses := fun _ _ => Use.at (.v vs) false w :: m.uses w
  early := fun _ _ => m.uses w
  earlyMask := m.isIndexed
  touch := touchPlain true m w
  count := countW w
  begin := do
    let a := vAcc .vstore br (← get)
    probePass false m.isIndexed w (fun st e p => do let _ ← vXlate a w (elemAddr m w st e p) w p 0)
  mem := some {
    reg := none
    any := u
    go := fun p => do
      let st ← getSt
      vWrite br w (elemAddr m w st st.head p) w (st.velem vs w p) p 0
      pure (0, 0)
    line := fun may p => do
      let bytes := fun st e q => [(elemAddr m w st e q, w)]
      memLine (vAcc .vstore br (← get)) w 1 u bytes (fun st q => st.velem vs w q) (fun _ _ _ => (0, 0)) 0 may p
    start := fun p => do
      beginElem (vAcc .vstore br (← get)) w 1 0 (fun st e => elemAddr m w st e p) (fun st => st.velem vs w p) p }

/-! ### Converting access (R211, R212, R265 to R267) -/

/-- A memory format: bits of an element, of its exponent and of its mantissa, and its bias; MXINT8 has no exponent. -/
structure MxFmt where
  b : Nat
  ebits : Nat
  mbits : Nat
  bias : Int

/-- The format of a code of `MF.FMT` (R211, R265). -/
def mxFmt (f : Nat) : MxFmt :=
  if f = 1 then { b := 6, ebits := 2, mbits := 3, bias := 1 }
  else if f = 2 then { b := 6, ebits := 3, mbits := 2, bias := 3 }
  else if f = 3 then { b := 4, ebits := 2, mbits := 1, bias := 1 }
  else { b := 8, ebits := 0, mbits := 7, bias := 0 }

/-- Size of a block record. -/
def MxFmt.z (f : MxFmt) : Nat := 1 + 4 * f.b

/-- The value of an element's bits, a subnormal replaced by zero of its sign (R211, R212). -/
def MxFmt.decode (f : MxFmt) (v : Nat) : FVal :=
  if f.ebits = 0 then
    let i := toSigned 8 v
    .fin (decide (i < 0)) i.natAbs (-6)
  else
    let neg := bitOf v (f.b - 1)
    let e := fld v f.mbits f.ebits
    let m := fld v 0 f.mbits
    if e = 0 then .fin neg 0 0 else .fin neg (m + 2 ^ f.mbits) ((e : Int) - f.bias - f.mbits)

/-- An element rounded to the format: its bits, whether it fits without saturation, and its flags (R212, R215). -/
def MxFmt.encode (f : MxFmt) (r : Rnd) (neg : Bool) (m : Nat) (e : Int) : Nat × Bool × Nat :=
  if f.ebits = 0 then
    let (k, inexact) := roundUnits r neg m e (-6)
    let v : Int := if neg then -(k : Int) else k
    let c := saturate true 8 v
    (ofInt 8 c, c == v, if inexact ∨ c ≠ v then fNX else 0)
  else
    let top := e + (bitLen m : Int) - 1
    let minE := 1 - f.bias
    let u := (if top < minE then minE else top) - f.mbits
    let (k, inexact) := if m = 0 then (0, false) else roundUnits r neg m e u
    let big := 2 ^ (f.mbits + 1) - 1
    let bigU := (2 ^ f.ebits : Int) - 1 - f.bias - f.mbits
    let beyond := if bigU ≤ u then decide (big < k * 2 ^ (u - bigU).toNat) else decide (big * 2 ^ (bigU - u).toNat < k)
    let s := if neg then 2 ^ (f.b - 1) else 0
    if beyond && m != 0 then (s + 2 ^ (f.b - 1) - 1, false, fOF + fNX)
    else
      let g : Fmt := { width := f.b, ebits := f.ebits, mbits := f.mbits, bias := f.bias, e4m3 := false }
      (g.pack neg k u, true, if inexact then fNX + (if top < minE then fUF else 0) else 0)

/-- A value times 2^d. -/
def FVal.scale (d : Int) : FVal → FVal
  | .fin n m e => .fin n m (e + d)
  | x => x

/-- The expansion of an element of a record with scale byte `k` to type `t` (R212): the encoding and its flags. -/
def mxExpand (f : MxFmt) (t : Nat) (r : Rnd) (sat : Bool) (k v : Nat) : Nat × Nat :=
  if k = 255 then ((fmtOf t).canonBits, fNV)
  else roundTo (fmtOf t) r sat (FVal.scale ((k : Int) - 127) (f.decode v))

/-- Every element fits under scale `k` (R212); an element comes with its rounding. -/
def mxFits (f : MxFmt) (k : Nat) (l : List (FVal × Rnd)) : Bool :=
  l.all (fun p => match p.1 with
    | .fin n m e => (f.encode p.2 n m (e - ((k : Int) - 127))).2.1
    | _ => false)

/-- A block record of 32 positions, of which some hold a value with its rounding (R212, R267): the record's bytes as a number and
the flags. -/
def mxRecord (f : MxFmt) (l : List (Option (FVal × Rnd))) : Nat × List Nat :=
  let vals := l.filterMap id
  if vals.any (fun p => match p.1 with | .fin _ _ _ => false | _ => true) then
    (255, l.map (fun x => if x.isSome then fNV else 0))
  else
    let k := (lowest (fun k => mxFits f k vals) 255).getD 254
    let enc := l.map (fun x => match x with
      | some (.fin n m e, r) => let (b, _, fl) := f.encode r n m (e - ((k : Int) - 127)); (b, fl)
      | _ => (0, 0))
    (k + 256 * enc.foldr (fun p v => p.1 + 2 ^ f.b * v) 0, enc.map (fun p => p.2))

/-- `MF.FMT`. -/
def mfFmt (st : Strand) : Nat := (st.cr 0x106).toNat % 16

/-- A converting access with no format (R265), which an access without an active element does not trap on (R199). -/
def mfCheck (n : Nat) : M Unit := do
  let st ← getSt
  if mfFmt st = 0 ∧ (st.head.nextElem 65536 st n).isSome then entryTrap cILL st.head.word.toNat 9

/-- Address and offsets of element `p`'s bits: its record, and the first and last byte of the element within it (R265). -/
def mxAddr (f : MxFmt) (e : VEntry) (p : Nat) : Nat := ofInt 64 ((e.op1.toNat : Int) + (p / 32 * f.z : Nat))

/-- The first byte of element `p`'s bits within its record, and how many bytes hold them. -/
def mxBytes (f : MxFmt) (p : Nat) : Nat × Nat :=
  let lo := f.b * (p % 32)
  (1 + lo / 8, (lo + f.b - 1) / 8 - lo / 8 + 1)

/-- What a converting access covers: the records it reads or writes (R262). A store writes the whole record of each of its elements. -/
def touchRecords (wr : Bool) (w lim : Nat) (e : VEntry) (st : Strand) : Option Touch :=
  let f := mxFmt (mfFmt st)
  some { wr := wr, upto := fun k => if wr then k / 32 * 32 + 31 else k, spans := (activeFrom lim e st (countW w e st)).map (fun p => (p, ((e.op1.toNat + p / 32 * f.z : Nat) : Int), f.z)) }

/-- Translates the bytes of a converting load's element: the scale byte's, then its own (R88, R266). -/
def mxXlate (a : Acc) (w : Nat) (f : MxFmt) (e : VEntry) (p : Nat) : M (List (Xl × Nat) × List (Xl × Nat)) := do
  let at0 := mxAddr f e p
  let k ← vXlate a w at0 1 p (p / 32)
  let l ← vXlate a w ((at0 + (mxBytes f p).1) % 2 ^ 64) (mxBytes f p).2 p (p / 32)
  pure (k, l)

/-- A converting load's element (R266): its scale byte, and the bytes of its bits. -/
def mxLoadElem (br : Bool) (w : Nat) (f : MxFmt) (e : VEntry) (p : Nat) : M (Nat × Nat) := do
  let a := vAcc .vload br (← get)
  let at0 := mxAddr f e p
  let (kl, l) ← mxXlate a w f e p
  let k ← vFetch a.dom kl at0 p
  let v ← vFetch a.dom l ((at0 + (mxBytes f p).1) % 2 ^ 64) p
  pure (k, v)

/-- The bytes of a converting load's element: its scale byte, and those of its bits. -/
def mxRanges (f : MxFmt) (e : VEntry) (p : Nat) : List (Nat × Nat) :=
  [(mxAddr f e p, 1), ((mxAddr f e p + (mxBytes f p).1) % 2 ^ 64, (mxBytes f p).2)]

/-- The element of a converting load from its scale byte and its bytes (R266): its encoding and its flags. -/
def mxElem (st : Strand) (t p k v : Nat) : Nat × Nat :=
  let f := mxFmt (mfFmt st)
  mxExpand f t (rmRnd st st.head (st.ebase + p)) false k (fld v (f.b * (p % 32) % 8) f.b)

/-- Converting `VLD` (R266). -/
def opVldConvert (vd t : Nat) (ff br : Bool) : VOp where
  w := typeW t
  uses := usesV (typeW t) vd []
  earlyMask := ff
  touch := touchRecords false (typeW t)
  count := countW (typeW t)
  begin := do
    let st ← getSt
    mfCheck (countW (typeW t) st.head st)
    let a := vAcc .vload br (← get)
    probePass ff false (typeW t) (fun st e p => do let _ ← mxXlate a (typeW t) (mxFmt (mfFmt st)) e p)
  mem := some {
    reg := some vd
    go := fun p => do
      let st ← getSt
      let (k, v) ← mxLoadElem br (typeW t) (mxFmt (mfFmt st)) st.head p
      pure (mxElem st t p k v)
    line := fun may p => do
      let bytes := fun (st : Strand) e q => mxRanges (mxFmt (mfFmt st)) e q
      memLine (vAcc .vload br (← get)) (typeW t) 0 false bytes (fun _ _ => 0) (fun st q get =>
        match mxRanges (mxFmt (mfFmt st)) st.head q with
        | [(a, m), (b, n)] => mxElem st t q (get a m) (get b n)
        | _ => (0, 0)) (p / 32) may p }

/-! ### Accesses of several elements at once -/

/-- What a store does from an element on: the next element, and what it writes, if it does: the bytes and their value, the word W2 of a trap,
and the flags that its elements raise. -/
structure Chunk where
  next : Nat
  put : Option ((Nat × Nat) × Nat × Nat × List (Nat × Nat))

/-- The chunk of element `p` has been performed. -/
def chunkDone (c : Chunk) : M Nat := do
  match c.put with
  | some (_, _, _, fls) => modSt (fun st => fls.foldl (fun st q => st.raiseFlags q.1 q.2) st)
  | none => pure ()
  pure c.next

/-- Performs the chunk of element `p`. -/
def chunkBody (br : Bool) (w : Nat) (chunk : Strand → Nat → Chunk) (p : Nat) : M Nat := do
  let c := chunk (← getSt) p
  match c.put with
  | some ((va, n), v, w2, _) => vWrite br w va n v p w2
  | none => pure ()
  chunkDone c

/-- The chunks from element `p` on that lie wholly in line `k`, as far as `may` lets them through, with their first elements; the fuel bounds
them. -/
def chunksIn (chunk : Nat → Chunk) (may : Nat → Bool) (n k p : Nat) : Nat → List (Nat × Chunk)
  | 0 => []
  | fuel + 1 =>
    let c := chunk p
    if p < n ∧ may (c.next - 1) ∧ p < c.next then
      match c.put with
      | none => chunksIn chunk may n k c.next fuel
      | some (b, _) => if inLine k [b] then (p, c) :: chunksIn chunk may n k c.next fuel else []
    else []

/-- The same of each of a list: the element after the last. -/
def chunksDone : List (Nat × Chunk) → Nat → M Nat
  | [], p => pure p
  | q :: r, _ => do chunksDone r (← chunkDone q.2)

/-- Performs the chunk of element `p` with those that follow it in its line, where they lie in another package (R454). -/
def chunkLine (br : Bool) (w : Nat) (count : VEntry → Strand → Nat) (chunk : Strand → Nat → Chunk) (may : Nat → Bool) (p : Nat) :
    M (Option Nat) := do
  let st ← getSt
  let a := vAcc .vstore br (← get)
  let c := chunk st p
  match c.put with
  | none => pure none
  | some (b, _, w2, _) =>
    if ← goesOut a w [b] p w2 then
      let n := count st.head st
      let l := (p, c) :: chunksIn (chunk st) may n (b.1 / 64) c.next n
      let elem := fun (q : Nat × Chunk) => match q.2.put with
        | some (b, v, _) => { elem := q.1, bytes := [b], val := v }
        | none => { elem := q.1, bytes := [], val := 0 }
      match ← lineAccess a w 1 w2 (l.map elem) with
      | some (done, _) => pure (some (← chunksDone (l.filter (fun q => done.contains q.1)) c.next))
      | none => pure none
    else pure none

/-- A record of a converting store (R267): the active elements of `p`'s record from `p` on. -/
def mxChunk (vs t : Nat) (st : Strand) (p : Nat) : Chunk :=
  let e := st.head
  let n := countW (typeW t) e st
  let f := mxFmt (mfFmt st)
  let k := p / 32
  let l := (range' (32 * k) 32).map (fun q =>
    if p ≤ q ∧ q < n ∧ act e st q then some (st.felem t vs q, rmRnd st e (st.ebase + q)) else none)
  { next := min (32 * (k + 1)) n
    put := if l.any Option.isSome then
        let (rec, fls) := mxRecord f l
        some ((mxAddr f e p, f.z), rec, k, fls.zip (range' (32 * k) 32))
      else none }

/-- Converting `VST` (R267): whole records. -/
def opVstConvert (vs t : Nat) (br : Bool) : VOp where
  w := typeW t
  step := true
  uses := fun e st => [{ Use.at (.v vs) false (typeW t) with
    hi := fun p => min (p / 32 * 32 + 32) (countW (typeW t) e st) * typeW t }]
  maskTo := fun e st p => min (p / 32 * 32 + 32) (countW (typeW t) e st)
  touch := touchRecords true (typeW t)
  count := countW (typeW t)
  begin := do
    let st ← getSt
    mfCheck (countW (typeW t) st.head st)
  body := chunkBody br (typeW t) (mxChunk vs t)
  line := chunkLine br (typeW t) (countW (typeW t)) (mxChunk vs t)

/-! ### Compressed blocks (R270 to R273) -/

/-- Raw bytes, mode and payload size that a header names (R270). -/
def blkLen (h : Nat) : Nat := h % 256 + 1
def blkMode (h : Nat) : Nat := fld h 8 2
def blkPay (h : Nat) : Nat := fld h 16 9

/-- The header is well formed as far as it shows (R270): a MASK payload holds at least its bitmap, and at most that and every byte, which is more
than the 256 that the map gives `PAY`; the row of MASK is followed (DESIGN CHOICE, log 72). -/
def blkHeaderOk (h : Nat) : Bool :=
  let len := blkLen h
  let pay := blkPay h
  fld h 10 6 == 0 && fld h 25 7 == 0 &&
    (if blkMode h = 0 then pay == len
     else if blkMode h = 1 then pay == 0
     else if blkMode h = 2 then pay == 1
     else decide (ceilDiv len 8 ≤ pay ∧ pay ≤ ceilDiv len 8 + len))

/-- The MASK bitmap agrees with the header (R270). -/
def blkBitmapOk (h pay : Nat) : Bool :=
  let len := blkLen h
  if blkMode h = 3 then
    let bm := pay % 2 ^ (8 * ceilDiv len 8)
    decide (bm / 2 ^ len = 0) && blkPay h == ceilDiv len 8 + popCount bm len
  else true

/-- The raw bytes of a MASK block from bit `i` on, the next payload byte being number `q`. -/
def maskBytes (pay i q : Nat) : Nat → List Byte
  | 0 => []
  | n + 1 =>
    if bitOf pay i then BitVec.ofNat 8 (pay / 2 ^ (8 * q)) :: maskBytes pay (i + 1) (q + 1) n
    else 0 :: maskBytes pay (i + 1) q n

/-- The raw bytes of a block (R270). -/
def blkRaw (h pay : Nat) : List Byte :=
  let len := blkLen h
  if blkMode h = 0 then bytesLE len pay
  else if blkMode h = 1 then List.replicate len 0
  else if blkMode h = 2 then List.replicate len (BitVec.ofNat 8 pay)
  else maskBytes pay 0 (ceilDiv len 8) len

/-- The block of given raw bytes, 1 to 256 of them, header first (R271). -/
def blkEncode (raw : List Byte) : List Byte :=
  let len := raw.length
  let allZero := raw.all (· == 0)
  let allSame := raw.all (· == raw.headD 0)
  let set := raw.filter (· != 0)
  let maskSize := ceilDiv len 8 + set.length
  let bitmap := (raw.foldr (fun b (v : Nat) => (if b = 0 then 0 else 1) + 2 * v) 0)
  let (mode, size) :=
    if allZero then (1, 0)
    else if allSame then (if maskSize < 1 then (3, maskSize) else (2, 1))
    else (3, maskSize)
  let (mode, pay) :=
    if len ≤ size then (0, raw)
    else if mode = 1 then (1, [])
    else if mode = 2 then (2, [raw.headD 0])
    else (3, bytesLE (ceilDiv len 8) bitmap ++ set)
  bytesLE 4 (len - 1 + mode * 2 ^ 8 + pay.length * 2 ^ 16) ++ pay

/-- The elements of a noted block: its address, its header and its first element (R272). -/
def blkElems (w : Nat) (b : Nat × Nat × Nat) : Nat := ceilDiv (blkLen b.2.1) w

/-- Where a header pass stands behind the blocks noted: the next address and the next element. -/
def passAt (w : Nat) (e : VEntry) : Nat × Nat :=
  match e.blks.getLast? with
  | none => (e.op1.toNat, 0)
  | some b => ((b.1 + 4 + blkPay b.2.1) % 2 ^ 64, b.2.2 + blkElems w b)

/-- The header pass of `VLDZ` (R272): it notes block after block. A header that faults after a noted block ends the pass when `ff` is set;
the fuel bounds the elements. -/
def headerPass (br ff : Bool) (w n : Nat) : Nat → M Unit
  | 0 => pure ()
  | fuel + 1 => do
    let e ← headE
    let (a, c) := passAt w e
    if c < n then
      let got ← tryCatch (do let h ← vRead br w a 4 e.p 0; pure (Except.ok h)) (fun x => pure (Except.error x))
      match got with
      | .error (.trap t) =>
        if ff ∧ 0 < c ∧ (t.cause = cTFAULT ∨ t.cause = cPROT ∨ (t.cause = cBANKERR ∧ t.w0 = 0x13)) then pure ()
        else throw (.trap { t with eval := if t.cause = cTFAULT ∨ t.cause = cPROT then a else t.eval })
      | .error x => throw x
      | .ok h =>
        endEntryAccess
        if !blkHeaderOk h then entryTrap cILL a 0xA
        if c + ceilDiv (blkLen h) w ≤ n then
          modSt (fun st => st.mapHead (fun v => { v with blks := v.blks ++ [(a, h, c)] }))
          headerPass br ff w n fuel

/-- The noted block that holds element `p`. -/
def blkOf (w : Nat) (e : VEntry) (p : Nat) : Option (Nat × Nat × Nat) :=
  e.blks.find? (fun b => decide (b.2.2 ≤ p) && decide (p < b.2.2 + blkElems w b))

/-- The elements of a noted block from `p` on are written from its payload (R272): the element after them. -/
def expandBlk (vd w : Nat) (b : Nat × Nat × Nat) (pay p : Nat) : M Nat := do
  let (a, h, c) := b
  if !blkBitmapOk h pay then entryTrap cILL a 0xA p
  let v := ofBytesLE (blkRaw h pay)
  let stop := c + blkElems w b
  modSt (fun st => (range' p (stop - p)).foldl (fun st q => st.putV vd w q (fld v (8 * w * (q - c)) (8 * w))) st)
  pure stop

/-- The same of each block of a list, with its first element; what is written stays when a later one traps. -/
def expandAll (vd w : Nat) (pay : Nat × Nat × Nat × Nat → Nat) : List (Nat × Nat × Nat × Nat) → Nat → M Nat
  | [], p => pure p
  | q :: r, _ => do
    modSt (fun st => st.mapHead (fun h => { h with p := q.1 }))
    let p ← expandBlk vd w q.2 (pay q) q.1
    expandAll vd w pay r p

/-- What a `VLDZ` covers (R262). -/
def touchVldz (w : Nat) (_ : Nat) (e : VEntry) (_ : Strand) : Option Touch :=
  if !e.probed then some { wr := false, all := true, heads := true, spans := [] }
  else touchRange false e.op1.toNat (ofInt 64 (((passAt w e).1 : Int) - e.op1.toNat)) e

/-- `VLDZ` (R272). -/
def opVldz (vd w : Nat) (ff br : Bool) : VOp where
  w := w
  step := true
  masked := false
  uses := fun e _ => [{ Use.at (.v vd) true w with
    hi := fun p => match blkOf w e p with | some b => (b.2.2 + blkElems w b) * w | none => (p + 1) * w }]
  touch := touchVldz w
  count := countW w
  begin := do
    let st ← getSt
    let e := st.head
    if e.probed then pure ()
    else
      let n := countW w e st
      headerPass br (ff && !e.fixed) w n (n + 1)
      modSt (fun st => st.mapHead (fun h => { h with probed := true }))
      if !e.fixed then
        let (a, c) := passAt w (← headE)
        fixCount c
        produce (BitVec.ofNat 64 a)
  body := fun p => do
    let st ← getSt
    match blkOf w st.head p with
    | none => pure (countW w st.head st)
    | some b => do
      let raw ← vRead br w b.1 (4 + blkPay b.2.1) p b.1
      expandBlk vd w b (raw / 2 ^ 32) p
  line := fun may p => do
    let st ← getSt
    let e := st.head
    match blkOf w e p with
    | none => pure none
    | some b => do
      let a := vAcc .vload br (← get)
      if ← goesOut a w [(b.1, 4 + blkPay b.2.1)] p b.1 then
        let more := (e.blks.filter (fun c => decide (p < c.2.2))).takeWhile (fun c =>
          inLine (b.1 / 64) [(c.1, 4 + blkPay c.2.1)] && may (c.2.2 + blkElems w c - 1))
        let l := (p, b) :: more.map (fun c => (c.2.2, c))
        match ← lineAccess a w 0 b.1 (l.map (fun q => { elem := q.1, bytes := [(q.2.1, 4 + blkPay q.2.2.1)], val := 0 })) with
        | some (got, read) => pure (some (← expandAll vd w (fun q => read (q.2.1 + 4) (blkPay q.2.2.1)) (l.filter (fun q => got.contains q.1)) p))
        | none => pure none
      else pure none
  done := do
    -- an entry that had nothing to expand writes back the base it captured
    let e ← headE
    if !e.fixed then produce e.op1

/-- The raw bytes of block `k` of a `VSTZ` of `total` bytes (R273). -/
def vstzRaw (st : Strand) (vs total k : Nat) : List Byte :=
  bytesLE (min 256 (total - 256 * k)) ((Tab.get st.v vs).toNat / 2 ^ (2048 * k))

/-- The offset of block `k` of a `VSTZ`: the sizes of the blocks before it (R273). -/
def vstzOffset (st : Strand) (vs total : Nat) : Nat → Nat
  | 0 => 0
  | k + 1 => vstzOffset st vs total k + (blkEncode (vstzRaw st vs total k)).length

/-- A block of a `VSTZ` (R273). -/
def vstzChunk (vs w : Nat) (st : Strand) (p : Nat) : Chunk :=
  let e := st.head
  let n := countW w e st
  let k := p * w / 256
  let off := vstzOffset st vs (n * w) k
  let blk := blkEncode (vstzRaw st vs (n * w) k)
  { next := min n ((k + 1) * 256 / w)
    put := some (((e.op1.toNat + off) % 2 ^ 64, blk.length), ofBytesLE blk, off, []) }

/-- `VSTZ` (R273). -/
def opVstz (vs w : Nat) (br : Bool) : VOp where
  w := w
  step := true
  masked := false
  uses := fun e st => [Use.all (.v vs) false (countW w e st * w)]
  touch := fun _ e st => touchRange true e.op1.toNat (260 * ceilDiv (countW w e st * w) 256) e
  count := countW w
  body := chunkBody br w (vstzChunk vs w)
  line := chunkLine br w (countW w) (vstzChunk vs w)
  done := do
    let st ← getSt
    let e := st.head
    let n := countW w e st
    produce (e.op1 + BitVec.ofNat 64 (vstzOffset st vs (n * w) (ceilDiv (n * w) 256)))

/-- An element of a `VCPST` (R274). -/
def vcpstChunk (vs w : Nat) (st : Strand) (p : Nat) : Chunk :=
  let e := st.head
  let o := selBelow e st p
  { next := p + 1
    put := if act e st p then some (((e.op1.toNat + o * w) % 2 ^ 64, w), st.velem vs w p, o, []) else none }

/-- `VCPST` (R274). -/
def opVcpst (vs w : Nat) (br : Bool) : VOp where
  w := w
  step := true
  maskBelow := true
  uses := readsV w [vs]
  touch := fun _ e st => touchRange true e.op1.toNat (countW w e st * w) e
  count := countW w
  body := chunkBody br w (vcpstChunk vs w)
  line := chunkLine br w (countW w) (vcpstChunk vs w)

/-- The element width of a `VAMO`: 2^`VLMAX.LW` as captured (R275). -/
def vamoW (e : VEntry) (st : Strand) : Nat := 2 ^ (e.lw.getD (fld (st.cr 0x101).toNat 16 3))

/-- One indivisible read and write of `size` bytes at its point of performance, for vector and scalar atomics (R93, R173, R174,
R388): the old value, or the error. `op` is numbered as in R171. -/
def amoAt (x : Xl) (dom va op size opnd expd : Nat) (reuse : Bool) : M (Except AccErr Nat) := do
  match x.place with
  | .home | .table | .bank =>
    match ← readWordAt x size dom va with
    | .error e => pure (.error e)
    | .ok old =>
      let _ ← writeWordAt x size dom va (amoNew op size old opnd expd) reuse
      pure (.ok old)
  | .localStore =>
    let old := Mem.readLE (← get).mem x.pa size
    let _ ← writeWordAt x size dom va (amoNew op size old opnd expd) reuse
    pure (.ok old)
  | .io => pure (.ok 0)
  | .remote h => remoteAccess x.who dom h (op + 2) x.pa x.mt size (opnd + expd * 2 ^ (8 * size)) (2 ^ size - 1) va reuse
  | .host _ => pure (.ok 0)

/-- The alignment of a `VAMO` element, and its translation (R275). -/
def vamoXlate (m : Mode) (w : Nat) (st : Strand) (e : VEntry) (p : Nat) : M (List (Xl × Nat)) := do
  let va := elemAddr m w st e p
  if va % w ≠ 0 then entryTrap cALIGN va 0 p
  vXlate (vAcc .vamo false (← get)) w va w p 0

/-- `VAMO` (R275), the elements of one line outside the package in one transaction (R454): `op` is 0 add,
5 max, 4 min, as in R171. An element whose address is not aligned shares none: it traps in its turn. The width of its elements is that of `VLMAX` at commit. -/
def opVamo (op vs : Nat) (m : Mode) (u : Bool) (w : Nat) : VOp where
  w := w
  step := true
  uses := fun _ _ => Use.at (.v vs) false w :: m.uses w
  early := fun _ _ => m.uses w
  earlyMask := m.isIndexed
  touch := touchPlain true m w
  count := countW w
  begin := do
    let st ← getSt
    if w < 4 ∧ (st.head.nextElem 65536 st (countW w st.head st)).isSome then entryTrap cILL st.head.word.toNat 0xB
    probePass false m.isIndexed w (fun st e p => do let _ ← vamoXlate m w st e p)
  mem := some {
    reg := none
    any := u
    go := fun p => do
      let st ← getSt
      let e := st.head
      let a := vAcc .vamo false (← get)
      let l ← vamoXlate m w st e p
      settleOverlap l
      match l with
      | [] => pure (0, 0)
      | (x, _) :: _ =>
        match ← amoAt x a.dom (elemAddr m w st e p) op w (st.velem vs w p) 0 false with
        | .ok _ => pure (0, 0)
        | .error er => vecErr er (elemAddr m w st e p) p
    line := fun may p => do
      let st ← getSt
      let _ ← vamoXlate m w st st.head p
      let bytes := fun st e q => [(elemAddr m w st e q, w)]
      let aligned := fun q => may q && elemAddr m w st st.head q % w == 0
      memLine (vAcc .vamo false (← get)) w (op + 2) u bytes (fun st q => st.velem vs w q) (fun _ _ _ => (0, 0)) 0 aligned p
    start := fun p => do
      let st ← getSt
      let _ ← vamoXlate m w st st.head p
      beginElem (vAcc .vamo false (← get)) w (op + 2) 0 (fun st e => elemAddr m w st e p) (fun st => st.velem vs w p) p }

end Sys2Proof.Machine
end

