-- ==== Sys2Proof/Machine/Copy.lean ====
section
/-! DEFINITION. The copy engines (R355 to R374): declarations, chains, strips, write operations, claims and failures, and what
`VLDS` does (R269). -/

namespace Sys2Proof.Machine

/-! ### Slots -/

def getSlot (key : Nat) : M Slot := do return Tab.get (← get).slots key

def modSlot (key : Nat) (f : Slot → Slot) : M Unit :=
  modify (fun s => { s with slots := Tab.set s.slots key (f (Tab.get s.slots key)) })

/-- Changes the strand of an owner number, wherever it is. -/
def mapOwner (who : Nat) (f : Strand → Strand) (s : State) : State :=
  { s with
    strands := s.strands.map (fun p => if p.2.run != .free && p.2.owner == who then (p.1, f p.2) else p)
    preempted := s.preempted.map (fun p => if p.strand.owner == who then { p with strand := f p.strand } else p) }

/-- Flags that an engine's work raises accrue to its strand (R358): a pre-empted strand takes them when it resumes. -/
def accrueOwner (who fl : Nat) (s : State) : State :=
  { s with
    strands := s.strands.map (fun p => if p.2.run != .free && p.2.owner == who then (p.1, p.2.accrue fl) else p)
    preempted := s.preempted.map (fun p =>
      if p.strand.owner == who then { p with strand := { p.strand with away := p.strand.away ||| fl } } else p) }

/-- The strand of an owner number, wherever it is. -/
def State.ownerStrand (s : State) (who : Nat) : Option Strand :=
  match s.strands.find? (fun p => p.2.run != .free && p.2.owner == who) with
  | some p => some p.2
  | none => s.away.find? (fun st => st.owner == who)

/-- The engine may make the accesses of an instruction that the slot's strand committed at `seq`: every earlier access of the strand has been
performed (R105, R375). -/
def engineMay (s : State) (p : Slot) (seq : Nat) : Bool :=
  match p.owner.bind (fun o => s.ownerStrand o.1) with
  | none => true
  | some st => earlierDoneOf s st seq

/-- A failed engine access (R372), on its way to the slot that holds it. -/
def engFail {α : Type} (reason va w3 : Nat) : M α :=
  throw (.trap { cause := cSTREAM, eval := 0, w0 := reason, w2 := va, w3 := w3 })

/-- Runs an engine's accesses: a translation fault becomes a failed access (R372). -/
def engCatch {α : Type} (m : M α) : M α :=
  tryCatch m (fun x => match x with
    | .trap t =>
      if t.cause = cTFAULT ∨ t.cause = cPROT then engFail 10 t.eval (t.cause + t.w0 % 4096 * 2 ^ 8)
      else if t.cause = cSTREAM then throw (.trap t)
      else engFail 10 t.eval t.cause
    | x => throw x)

/-- An engine's accessor (R356): the declaring strand's address space, level, partition and domain. -/
def engAcc (a : Acc) (key : Nat) (p : Slot) : Acc :=
  { a with asid := p.asid, pl := p.pl, cluster := key / 8, lspart := p.lspart, dom := p.ddom, who := 8192 + key,
           unit := unitCopy (key / 8) }

def engErr {α : Type} (e : AccErr) (va : Nat) : M α :=
  match e with
  | .bank _ _ => engFail 10 va cBANKERR
  | .link _ _ _ _ => engFail 10 va cLINKERR

/-- An engine reads `n` bytes, at most 32 KiB. -/
def engRead (key va n : Nat) : M (List Byte) := do
  let p ← getSlot key
  match ← engCatch (readRange (engAcc .copyRead key p) (va % 2 ^ 64) n) with
  | .ok v => pure (bytesLE n v)
  | .error (e, at0) => engErr e at0

/-- An engine reads any number of bytes, in pieces of 4 KiB. -/
def engReadAll (key va : Nat) : Nat → Nat → M (List Byte)
  | _, 0 => pure []
  | n, fuel + 1 => do
    let k := min n 4096
    let l ← engRead key va k
    if n ≤ k then pure l
    else
      let r ← engReadAll key (va + k) (n - k) fuel
      pure (l ++ r)

/-- An engine writes bytes of one page. -/
def engWrite (key va : Nat) (l : List Byte) : M Unit := do
  let p ← getSlot key
  match ← engCatch (writeRange (engAcc .copyWrite key p) (va % 2 ^ 64) l.length (ofBytesLE l) false) with
  | .ok _ => pure ()
  | .error (e, at0) => engErr e at0

/-- The bytes that an engine writes next: those of at most 4 KiB that end with a page. -/
def nextWrite (va : Nat) (l : List Byte) : List Byte := l.take (min 4096 (65536 - va % 65536))

/-- Width of a stream's elements. -/
def Slot.w (p : Slot) : Nat := typeW p.etype

/-- The rounding of a stream's transformation (R357, R358). -/
def Slot.rounding (p : Slot) : Rnd := { mode := p.rnd % 8 }

/-! ### Read streams: producing the output bytes of a transformation (R358, R359) -/

/-- The next `n` input bytes of a stream: of the stream that feeds it, or of memory. -/
def takeIn (up : Nat → Nat → M (List Byte)) (key n : Nat) : M (List Byte) := do
  let p ← getSlot key
  if p.xf = 3 ∧ p.lim < p.fed + n then engFail 12 ((p.src + p.fed) % 2 ^ 64) 0
  if p.xf = 4 ∧ p.lim * 8 < p.fed + n then engFail 12 ((p.src + p.fed) % 2 ^ 64) 0
  let l ← match p.up with
    | some u => up u n
    | none => engReadAll key (p.src + p.fed) n (n / 4096 + 1)
  modSlot key (fun p => { p with fed := p.fed + n })
  pure l

/-- The stream makes output bytes. -/
def putOut (key : Nat) (l : List Byte) (fl : Nat) : M Unit :=
  modSlot key (fun p => { p with inbuf := p.inbuf ++ l, written := p.written + l.length, fl := p.fl ||| fl ||| fl * 64 })

/-- The elements of a record, up to the stream's last (R358): their bytes and flags. -/
def recordElems (p : Slot) (rec : Nat) : List Byte × Nat :=
  let f := mxFmt p.mfmt
  (range' 0 (min 32 (p.len - p.written / p.w))).foldr (fun e (acc : List Byte × Nat) =>
    let (v, fl) := mxExpand f p.etype p.rounding (bitOf p.rnd 3) (rec % 256) (fld rec (8 + f.b * e) f.b)
    (bytesLE p.w v ++ acc.1, fl ||| acc.2)) ([], 0)

/-- One unit of output: some bytes, a record, a block, or part of a pointer's run; at most `n` bytes where it can be cut. -/
def makeUnit (up : Nat → Nat → M (List Byte)) (key n : Nat) : M Unit := do
  let p ← getSlot key
  if p.xf = 0 then
    let l ← takeIn up key (min n 4096)
    putOut key l 0
  else if p.xf = 1 then
    let l ← takeIn up key (mxFmt p.mfmt).z
    let (b, fl) := recordElems p (ofBytesLE l)
    putOut key b fl
  else if p.xf = 3 then
    let a := (p.src + p.fed) % 2 ^ 64
    let h := ofBytesLE (← takeIn up key 4)
    if !blkHeaderOk h then engFail 11 a 0
    let pay := ofBytesLE (← takeIn up key (blkPay h))
    if !blkBitmapOk h pay then engFail 11 a 0
    putOut key (blkRaw h pay) 0
  else
    if p.written % p.runb = 0 then
      let a := ofBytesLE (← takeIn up key 8)
      modSlot key (fun p => { p with ptr := a })
    let p ← getSlot key
    let o := p.written % p.runb
    let k := min (min n (p.runb - o)) 4096
    let l ← engRead key (p.ptr + o) k
    putOut key l 0

/-- Takes `n` output bytes of a stream, which makes as many units as it needs. -/
def pullLoop (up : Nat → Nat → M (List Byte)) (key n : Nat) : Nat → M (List Byte)
  | 0 => pure []
  | fuel + 1 => do
    let p ← getSlot key
    if n ≤ p.inbuf.length then
      modSlot key (fun p => { p with inbuf := p.inbuf.drop n })
      pure (p.inbuf.take n)
    else
      makeUnit up key (n - p.inbuf.length)
      pullLoop up key n fuel

/-- Takes output bytes of a stream of a chain; the fuel bounds the chain (R359). An upstream stream has no output beyond its `LEN`. -/
def pullOut : Nat → Nat → Nat → M (List Byte)
  | 0, _, _ => pure []
  | d + 1, key, n => do
    let p ← getSlot key
    if p.down.isSome ∧ p.len * p.w < p.written - p.inbuf.length + n then engFail 12 ((p.src + p.fed) % 2 ^ 64) 0
    pullLoop (pullOut d) key n (n + 1)

/-- The half of strip `j`, and setting it (R361). -/
def Slot.half (p : Slot) (j : Nat) : Half := if j % 2 = 0 then p.half0 else p.half1
def Slot.setHalf (p : Slot) (j : Nat) (h : Half) : Slot := if j % 2 = 0 then { p with half0 := h } else { p with half1 := h }

/-- A strip of the stream has failed. -/
def Slot.failed (p : Slot) : Bool := match p.half p.strips with | .failed _ => true | _ => false

/-- The streams that feed this one, and itself. -/
def chainUp (s : State) : Nat → Nat → List Nat
  | 0, _ => []
  | n + 1, key => match (Tab.get s.slots key).up with
    | some u => key :: chainUp s n u
    | none => [key]

/-- The streams that this one feeds, and itself. -/
def chainDown (s : State) : Nat → Nat → List Nat
  | 0, _ => []
  | n + 1, key => match (Tab.get s.slots key).down with
    | some u => key :: chainDown s n u
    | none => [key]

/-- Every stream of the chain. -/
def chainAll (s : State) (key : Nat) : List Nat := (chainUp s 4 key).tail ++ chainDown s 4 key

/-- The next strip can be fetched (R360, R361, R375): the stream is terminal, the first stream of its chain has a source, its half is Empty,
and the accesses of the strand before the chain's `CPDECL`s are performed. R375 names the `CPDECL` alone: whether the accesses between it and
the `CPLINK`, whose commit is a release (R105), come before the strip reads made after it is open, and they need not (DESIGN CHOICE, log 57). -/
def canFetch (s : State) (key : Nat) (p : Slot) : Bool :=
  !p.write && p.down.isNone && !p.draining && decide (p.strips * p.strip < p.len) && p.half p.strips == .empty && p.fault.isNone
    && (match (chainUp s 4 key).getLast? with | some u => (Tab.get s.slots u).src != 0 | none => false)
    && (chainUp s 4 key).all (fun u => engineMay s p (Tab.get s.slots u).seq)

/-- Flags raised by the chain's conversions accrue to the declaring strand (R358). -/
def takeFlags (key : Nat) : M Unit := do
  let s ← get
  let l := chainAll s key
  let fl := l.foldl (fun f k => f ||| (Tab.get s.slots k).fl / 64) 0
  let who := match (Tab.get s.slots key).owner with | some (w, _) => w | none => 0
  if fl ≠ 0 then modify (accrueOwner who fl)
  forList l (fun k => modSlot k (fun p => { p with fl := p.fl % 64 }))

/-- The answered transactions of operation `op` of a chain's streams have served their accesses. -/
def endChain (op : Nat) (l : List Nat) (s : State) : State :=
  { s with txns := s.txns.filter (fun t => t.op != op || t.done.isNone || !l.any (fun k => t.sid == 8192 + k)) }

/-- The failed transactions of a chain's streams are forgotten. What the others have brought or written stands, so that a retry performs only the
accesses that have failed (R365, R372). -/
def dropChain (l : List Nat) (s : State) : State :=
  { s with txns := s.txns.filter (fun t => (match t.done with | some (e, _) => e == 0 | none => true) || !l.any (fun k => t.sid == 8192 + k)) }

/-- Runs engine work whose accesses are of operation `op`, 0 reads or 1 writes, and which leaves no trace in the slots unless it succeeds; a failed
access is given to `failed`. -/
def attempt (op key : Nat) (m : M Unit) (failed : Trap → M Unit) : M Unit := do
  let s ← get
  let saved := s.slots
  let l := chainAll s key
  tryCatch (do
      m
      modify (endChain op l)
      modSlot key (fun p => { p with retry := false }))
    (fun x => do
      modify (fun s => { s with slots := saved })
      match x with
      | .trap t => do
        modify (dropChain l)
        failed t
      | x => throw x)

/-- Fetches the next strip, when it can be (R361): the strip becomes available, or fails (R372). -/
def fetchStrip (key : Nat) : M Unit := do
  let p ← getSlot key
  if canFetch (← get) key p then
    let j := p.strips
    let n := min p.strip (p.len - j * p.strip) * p.w
    attempt 0 key (do
        let l ← pullOut 4 key n
        modSlot key (fun p => { p.setHalf j (.full j (BitVec.ofNat 262144 (ofBytesLE l))) with strips := j + 1 })
        takeFlags key)
      (fun t => modSlot key (fun p => { p.setHalf j (.failed j) with
        fault := some { reason := t.w0, w1 := j * p.strip, va := t.w2, w3 := t.w3 } }))

/-- Work that waits for another package is left for a later step. -/
def softly (m : M Unit) : M Unit := tryCatch m (fun x => match x with
  | .wait => pure ()
  | x => throw x)

/-- Fetches strips while halves are Empty (R361), unless work is left to its event. -/
def fetchSoon (key : Nat) : M Unit := do
  let s ← get
  if s.defer then pure ()
  else softly (do fetchStrip key; fetchStrip key)

/-- The held access of a Failed strip is tried again (R361, R372). -/
def retryStrip (key : Nat) : M Unit := do
  modSlot key (fun p => { p.setHalf p.strips .empty with fault := none })
  fetchStrip key

/-- The words of a STREAM trap for a held failure (R372). -/
def streamFail {α : Type} (k : Nat) (f : CopyFail) (entry : Option Nat) : M α :=
  throw (.trap { cause := cSTREAM, eval := k, w0 := f.reason, w1 := f.w1, w2 := f.va, w3 := f.w3, entry := entry })

/-- The held failure of stream `key`, register `k`: an instruction that reaches it makes the engine retry the held access once by `again`, and
traps when that has failed (R372). -/
def retryOnce (key k : Nat) (entry : Option Nat) (held : M (Option CopyFail)) (again : M Unit) : M Unit := do
  if (← held).isSome then
    if !(← getSlot key).retry then
      modSlot key (fun p => { p with retry := true })
      again
    match ← held with
    | some f =>
      modSlot key (fun p => { p with retry := false })
      streamFail k f entry
    | none => pure ()

/-- A consumer of stream `key`, register `k`, needs an element (R269, R371, R372): a strip is fetched, a Failed strip is tried
again, and the consumer traps or waits when no element is available. -/
def needElement (key k : Nat) (entry : Option Nat) : M Unit := do
  let p ← getSlot key
  if p.avail = 0 ∧ !p.exhausted then
    if !p.failed then fetchStrip key
    retryOnce key k entry (do pure (← getSlot key).fault) (retryStrip key)
    if (← getSlot key).avail = 0 then wait

/-- Element `e` of the stream's output, as bits (R361). -/
def Slot.elem (p : Slot) (e : Nat) : Nat :=
  match p.half (e / p.strip) with
  | .full _ d => fld d.toNat (8 * p.w * (e % p.strip)) (8 * p.w)
  | _ => 0

/-- Elements `a` to `a + n - 1` are released, of which `r` and more are of the strip in a half: it is Empty when all of its strip's are (R361, R362). -/
def Slot.releaseHalf (p : Slot) (a n : Nat) (h : Half) (r : Nat) : Half × Nat :=
  match h with
  | .full j d =>
    let hi := min ((j + 1) * p.strip) p.len
    let r := r + (min (a + n) hi - max a (j * p.strip))
    if hi - j * p.strip ≤ r then (.empty, 0) else (.full j d, r)
  | h => (h, r)

def Slot.release (p : Slot) (a n : Nat) : Slot :=
  let (h0, r0) := p.releaseHalf a n p.half0 p.rel0
  let (h1, r1) := p.releaseHalf a n p.half1 p.rel1
  { p with half0 := h0, rel0 := r0, half1 := h1, rel1 := r1 }

/-- The `n` claimed elements from `a` on are released (R24, R362), and the next strips are fetched. -/
def releaseElems (key a n : Nat) : M Unit := do
  modSlot key (fun p => p.release a n)
  fetchSoon key

/-! ### `VLDS` (R269) -/

/-- The stream that an entry's word names: the slot of the current strand. -/
def streamOf (k : Nat) : M (Option (Nat × Slot)) := do
  let s ← get
  pure (s.slotOf (clusterOf s.cur) s.st.owner k)

/-- The stream register that a `VLDS` word names (R255). -/
def vldsReg (e : VEntry) : Nat := fld e.word.toNat 16 5 % 16

/-- What a `VLDS` writes; the width of the stream's elements is 1 to 8 bytes. -/
def vldsUse (vd : Nat) : Use := { res := .v vd, wr := true, lo := fun p => p, hi := fun e => (e + 1) * 8, past := fun p => p }

/-- `VLDS` (R269). It makes its claim after the older entries that R202 names. Its count is open until it has made its claim, and it then counts the elements claimed (R259). -/
def opVlds (vd k : Nat) : VOp where
  masked := false
  ownLanes := false
  uses := fun _ _ => [vldsUse vd]
  early := fun _ _ => [vldsUse vd]
  count := fun e st => if e.claim.isSome then e.vl else min e.vl (st.lanes * 256)
  begin := do
    let e ← headE
    match ← streamOf k with
    | none => if e.claim.isNone then entryTrap cSTREAM k 1
    | some (key, p) =>
      let st ← getSt
      let n := min e.vl (st.lanes * 256 / p.w)
      if e.p < n then ownCheck [(e.p * p.w, n * p.w)]
      if p.write then entryTrap cSTREAM k 2
      if p.internal then entryTrap cSTREAM k 7
      if e.claim.isNone then
        if n ≤ e.p then modSt (fun st => st.mapHead (fun h => { h with vl := n, fixed := true, claim := some 0 }))
        else
          needElement key k (some e.addr)
          let p ← getSlot key
          let c := min n p.avail
          modSlot key (fun p => { p with claimed := p.claimed + c })
          modSt (fun st => (st.setCrN 0x100 c).mapHead (fun h =>
            { h with vl := c, fixed := true, claim := some (p.claimed * 2 + 1) }))
  body := fun i => do
    let e ← headE
    match ← streamOf k with
    | none => pure (i + 1)
    | some (_, p) =>
      modSt (fun st => st.putV vd p.w i (p.elem (e.claim.getD 0 / 2 + i)))
      pure (i + 1)

/-- The claim of a retiring or lost entry is released (R269, R362). A claim of nothing is even. -/
def releaseClaim (e : VEntry) : M Unit := do
  match e.claim with
  | none => pure ()
  | some c =>
    if c % 2 = 1 then
      match ← streamOf (vldsReg e) with
      | some (key, _) => releaseElems key (c / 2) e.vl
      | none => pure ()

/-- The claims of `old` entries that no entry of `now` has kept are released (R269). -/
def releaseLost (old now : List VEntry) : M Unit :=
  forList old (fun e => do
    if e.claim.isSome ∧ !now.any (fun h => h.claim == e.claim && vldsReg h == vldsReg e) then releaseClaim e)

/-! ### Write streams (R358, R363) -/

/-- The chain of a write stream has a destination (R360). -/
def linked (s : State) (key : Nat) : Bool :=
  match (chainDown s 4 key).getLast? with
  | some k => (Tab.get s.slots k).dst != 0
  | none => false

/-- Every element of the stream has been fed into it. -/
def Slot.full (p : Slot) : Bool := decide (p.len * p.w ≤ p.fed)

/-- The record of up to 32 elements, with its flags (R358): the store rule of R212 under `RND` with saturation. -/
def elemsRecord (p : Slot) (l : List Byte) : List Byte × Nat :=
  let f := mxFmt p.mfmt
  let v := ofBytesLE l
  let vals := (range' 0 32).map (fun e =>
    if (e + 1) * p.w ≤ l.length then some (decodeF (fmtOf p.etype) (fld v (8 * p.w * e) (8 * p.w)), p.rounding) else none)
  let (rec, fls) := mxRecord f vals
  (bytesLE f.z rec, fls.foldl (· ||| ·) 0)

/-- The next unit that the stream can pass on: how many input bytes it takes, its bytes and its flags. -/
def Slot.nextUnit (p : Slot) : Option (Nat × List Byte × Nat) :=
  if p.inbuf.isEmpty then none
  else if p.xf = 0 then
    let l := p.inbuf.take 4096
    some (l.length, l, 0)
  else if p.xf = 1 then
    let l := p.inbuf.take (32 * p.w)
    if l.length = 32 * p.w ∨ p.full then some (l.length, elemsRecord p l) else none
  else
    let l := p.inbuf.take 256
    if l.length = 256 ∨ p.full then some (l.length, blkEncode l, 0) else none

/-- Operations whose last byte stream number `level` of the chain has consumed come one stream further (R363). -/
def advanceOps (level : Nat) (p : Slot) (l : List CopyOp) : List CopyOp :=
  l.map (fun o =>
    if o.released ∧ o.level = level ∧ o.mark ≤ p.fed - p.inbuf.length then
      { o with level := level + 1, mark := if p.xf = 0 then o.mark else p.written }
    else o)

/-- The operations of the chain `l` of write stream `term` come as far as the streams have consumed, from stream number `level` on. -/
def advanceChain (term : Nat) : List Nat → Nat → M Unit
  | [], _ => pure ()
  | k :: r, level => do
    let q ← getSlot k
    modSlot term (fun t => { t with ops := advanceOps level q t.ops })
    advanceChain term r (level + 1)

/-- An operation has come past the whole chain of `n` streams, and its last output byte is written (R363). -/
def CopyOp.visible (n sent : Nat) (o : CopyOp) : Bool := o.released && decide (n ≤ o.level) && decide (o.mark ≤ sent)

/-- A stream passes one unit on: to the stream that it feeds, or to the bytes that are to be written. -/
def pushUnit (key : Nat) : M Bool := do
  let p ← getSlot key
  match p.nextUnit with
  | none => pure false
  | some (k, l, fl) =>
    match p.down with
    | some d => modSlot d (fun q => { q with inbuf := q.inbuf ++ l, fed := q.fed + l.length })
    | none => modSlot key (fun q => { q with outbuf := q.outbuf ++ l })
    modSlot key (fun p => { p with
      inbuf := p.inbuf.drop k, written := p.written + l.length, fl := p.fl ||| fl ||| fl * 64 })
    pure true

/-- The first stream of a chain that can pass a unit on does. -/
def pushFirst : List Nat → M Bool
  | [] => pure false
  | k :: r => do
    if ← pushUnit k then pure true else pushFirst r

/-- Passes units on along the chain until nothing can move; the fuel bounds the units. -/
def pushChain (term : Nat) (l : List Nat) : Nat → M Unit
  | 0 => advanceChain term l 0
  | fuel + 1 => do
    advanceChain term l 0
    if ← pushFirst l then pushChain term l fuel

/-- The held failure of a write stream (R372): the ticket is that of the oldest operation concerned, by a destination write or by a source read. -/
def writeFailed (term ticket : Nat) (out : Bool) (t : Trap) : M Unit :=
  modSlot term (fun p => { p with fault := some { reason := t.w0, w1 := ticket, va := t.w2, w3 := t.w3, out := out } })

/-- The destination write in progress, or the next one that begins: at most the output bytes of one page. -/
def Slot.writing (p : Slot) : List Byte := if p.sending = 0 then nextWrite (p.dst + p.sent) p.outbuf else p.outbuf.take p.sending

/-- Writes the next output bytes of the last stream of a chain. -/
def sendOut (last : Nat) : M Unit := do
  let p ← getSlot last
  engWrite last (p.dst + p.sent) p.writing
  modSlot last (fun p => { p with outbuf := p.outbuf.drop p.writing.length, sent := p.sent + p.writing.length, sending := 0 })

/-- The destination writes that can be made are made, in ascending order (R363): a source read that has failed holds none of them up, since they
are those of lower tickets. The fuel bounds them. -/
def writeOut (term last n : Nat) : Nat → M Unit
  | 0 => pure ()
  | fuel + 1 => do
    let q ← getSlot last
    if !(((← getSlot term).fault.map CopyFail.out).getD false) ∧ !q.outbuf.isEmpty then
      modSlot last (fun p => { p with sending := p.writing.length })
      attempt 1 term (sendOut last) (fun t => do
        let p ← getSlot term
        writeFailed term (((p.ops.find? (fun o => !o.visible n q.sent)).map (fun o => o.ticket)).getD 0) true t)
      writeOut term last n fuel

/-- Destination writes (R363): operations whose last bytes are written are visible, and leave. -/
def opVisibleStep (term : Nat) : M Unit := do
  let s ← get
  if linked s term then
    let l := chainDown s 4 term
    let last := l.getLast?.getD term
    writeOut term last l.length ((Tab.get s.slots last).outbuf.length + 1)
    let q ← getSlot last
    modSlot term (fun p => { p with ops := p.ops.dropWhile (fun o => o.visible l.length q.sent) })

/-- The oldest operation that is not released reads its source, once the strand's earlier accesses are performed (R105, R363). Its elements are
fed into the chain, whose conversions raise their flags (R358). -/
def opReleasedStep (term : Nat) : M Unit := do
  let s ← get
  let p ← getSlot term
  match p.ops.find? (fun o => !o.released) with
  | none => pure ()
  | some o =>
    if p.fault.isNone ∧ linked s term ∧ engineMay s p o.seq then
      let chain := chainDown s 4 term
      attempt 0 term (do
          let n := o.n * p.w
          let l ← if n = 0 then pure [] else engReadAll term o.src n (n / 4096 + 1)
          modSlot term (fun p => { p with
            inbuf := p.inbuf ++ l, fed := p.fed + n
            ops := p.ops.map (fun q => if q.ticket = o.ticket then { q with released := true } else q) })
          let bytes := chain.foldl (fun n k => n + (Tab.get s.slots k).inbuf.length) n
          pushChain term chain ((bytes + 1) * 8)
          takeFlags term)
        (writeFailed term o.ticket false)

/-- Runs a write stream's operations as far as they go. -/
def runOps (term : Nat) : M Unit := do
  let n := (← getSlot term).ops.length
  opVisibleStep term
  forElems n 0 (fun _ => do
    opReleasedStep term
    opVisibleStep term)

/-- Runs them, unless work is left to its events. -/
def runOpsSoon (term : Nat) : M Unit := do
  let s ← get
  if s.defer then pure () else softly (runOps term)

/-- A failed access of a cancelled write chain is discarded (R370, R378; log 57): destination bytes that cannot be written are left out, and an
operation whose source cannot be read leaves its place in a plain stream out; the rest of another stream depends on it and is dropped. -/
def skipFailed (term : Nat) : M Unit := do
  let s ← get
  let p ← getSlot term
  let l := chainDown s 4 term
  let last := l.getLast?.getD term
  if (p.fault.map CopyFail.out).getD false then
    modify (endChain 1 l)
    modSlot last (fun q => { q with outbuf := q.outbuf.drop q.writing.length, sent := q.sent + q.writing.length, sending := 0 })
    modSlot term (fun p => { p with fault := none })
  else if last = term ∧ p.xf = 0 then
    modify (endChain 0 l)
    match p.ops.find? (fun o => !o.released) with
    | some o =>
      modSlot term (fun p => { p with
        fault := none, fed := p.fed + o.n * p.w, written := p.written + o.n * p.w, sent := p.sent + o.n * p.w
        ops := p.ops.filter (fun r => r.ticket != o.ticket) })
    | none => modSlot term (fun p => { p with fault := none })
  else modSlot term (fun p => { p with fault := none, ops := [] })

/-- Runs a cancelled write chain's operations to the end. -/
def drainOps (term : Nat) : Nat → M Unit
  | 0 => pure ()
  | n + 1 => do
    runOps term
    if (← getSlot term).fault.isSome then
      skipFailed term
      drainOps term n

/-- Requests of a chain are outstanding. -/
def chainOpen (s : State) (l : List Nat) : Bool :=
  s.txns.any (fun t => t.done.isNone && l.any (fun k => t.sid == 8192 + k))

/-- A cancelled chain drains, and its slots are Free (R370): a write chain runs its operations to the end, and what can no longer be formed is
dropped; a read chain's fetch in flight completes into a discarded half (R378). A chain whose work waits keeps its slots. -/
def drainChain (term : Nat) : M Unit := do
  match Tab.find (← get).slots term with
  | none => pure ()
  | some p =>
    let s ← get
    let l := chainAll s term
    let ended ← tryCatch (do
      if p.write then drainOps term ((p.ops.foldl (fun n o => n + o.n * p.w) 0 + p.outbuf.length + p.inbuf.length) / 4096 * 2 + 2 * p.ops.length + 8)
      pure true) (fun x => match x with
        | .wait => pure false
        | x => throw x)
    let t ← get
    let held := !ended || chainOpen t l || (Tab.get t.slots term).ops.any (fun o => !o.released && !engineMay t (Tab.get t.slots term) o.seq)
    if !held then modify (fun t => endChain 0 l (endChain 1 l { t with slots := t.slots.filter (fun q => !l.contains q.1) }))

/-- Cancels the chain of stream `key` (R370): its registers are unbound, and its slots drain. -/
def cancelChain (key : Nat) : M Unit := do
  let s ← get
  let l := chainAll s key
  forList l (fun k => modSlot k (fun p => { p with draining := true, fault := none, retry := false }))
  match (chainUp s 4 key).getLast? with
  | some term => if s.defer && (Tab.get s.slots key).write then modify (fun s => s.raise (.slotDrained (term / 8) (term % 8))) else drainChain term
  | none => pure ()

/-- Cancels every stream that the strand of owner number `who` has bound in engine `eng` (R160, R370). -/
def cancelAll (eng who : Nat) : M Unit := do
  let s ← get
  forList (s.slots.filter (fun p => decide (p.1 / 8 = eng))) (fun p => do
    let q := Tab.find (← get).slots p.1
    match q with
    | some q => match q.owner with
      | some (w, _) => if w = who ∧ !q.draining then cancelChain p.1
      | none => pure ()
    | none => pure ())

/-- Slots of owner `who` that still drain. -/
def draining (s : State) (who : Nat) : Bool :=
  s.slots.any (fun p => p.2.draining && (match p.2.owner with | some (w, _) => w == who | none => false))

/-! ### Declarations (R357) -/

/-- Field of the 64-byte record at offset `o`, `n` bytes. -/
def recFld (r o n : Nat) : Nat := fld r (8 * o) (8 * n)

/-- The offset of the first field that breaks the map, if one does (R357). -/
def badRecord (r : Nat) : Option Nat :=
  let kind := recFld r 0 1
  let xf := recFld r 1 1
  let et := recFld r 3 1
  let etOk := decide (et < 13) || et == 14
  let w := if etOk then typeW et else 1
  let checks : List (Nat × Bool) :=
    [(0x00, kind == 1 || kind == 2),
     (0x01, decide (xf ≤ 4) && !(xf == 2 && kind != 2) && !((xf == 3 || xf == 4) && kind != 1)),
     (0x02, if xf = 1 then decide (1 ≤ recFld r 2 1) && decide (recFld r 2 1 ≤ 4) else recFld r 2 1 == 0),
     (0x03, if xf = 1 then et == 8 || et == 9 || et == 10 else etOk),
     (0x04, decide (1 ≤ recFld r 4 4) && decide (recFld r 4 4 * w ≤ 32768) && (xf != 1 || recFld r 4 4 % 32 == 0)),
     (0x08, decide (1 ≤ recFld r 8 8) && decide (recFld r 8 8 ≤ 2 ^ 40)),
     (0x10, if kind = 2 then recFld r 0x10 8 == 0 else xf != 0 || recFld r 0x10 8 % w == 0),
     (0x18, if kind = 1 then recFld r 0x18 8 == 0 else xf != 0 || recFld r 0x18 8 % w == 0),
     (0x20, if xf = 4 then decide (1 ≤ recFld r 0x20 4) && decide (recFld r 0x20 4 ≤ 65536) && recFld r 0x20 4 % w == 0
            else recFld r 0x20 4 == 0),
     (0x24, decide (recFld r 0x24 1 % 8 ≤ 4) && decide (recFld r 0x24 1 < 16)),
     (0x25, recFld r 0x25 3 == 0),
     (0x28, if xf = 3 ∨ xf = 4 then decide (1 ≤ recFld r 0x28 8) else recFld r 0x28 8 == 0),
     (0x30, recFld r 0x30 16 == 0)]
  (checks.find? (fun c => !c.2)).map (fun c => c.1)

/-- The slot that a record declares for stream register `k` of a strand (R357, R368). -/
def declared (r k seq : Nat) (st : Strand) : Slot :=
  { owner := some (st.owner, k), draining := false, write := recFld r 0 1 == 2, xf := recFld r 1 1, mfmt := recFld r 2 1,
    etype := recFld r 3 1, strip := recFld r 4 4, len := recFld r 8 8, src := recFld r 0x10 8, dst := recFld r 0x18 8,
    runb := recFld r 0x20 4, rnd := recFld r 0x24 1, lim := recFld r 0x28 8, ptr := 0, asid := st.asid, pl := st.pl.toNat,
    lspart := (st.cr 0x005).toNat, ddom := st.ddom, up := none, down := none, half0 := .empty, half1 := .empty, strips := 0,
    claimed := 0, tickets := 0, pos := 0, ops := [], fed := 0, inbuf := [], written := 0, fl := 0, fault := none,
    seq := seq }

/-- The lowest Free slot of an engine (R368). -/
def freeSlot (s : State) (eng : Nat) : Option Nat :=
  ((range' 0 8).map (slotKey eng)).find? (fun k => (Tab.find s.slots k).isNone)

/-- Drains what it can of an engine's Draining slots. -/
def drainEngine (eng : Nat) : M Unit := do
  let s ← get
  forList (s.slots.filter (fun p => decide (p.1 / 8 = eng) && p.2.draining && p.2.up.isNone)) (fun p => drainChain p.1)

/-- A STREAM trap of the instruction itself (R368). -/
def streamTrap {α : Type} (k reason : Nat) (w1 : Nat := 0) : M α := trap cSTREAM k reason w1

/-- `CPDECL` (R368) from the record's address on. -/
def declare (k va : Nat) : M Unit := do
  if va % 64 ≠ 0 then trap cALIGN va
  let s ← get
  let a := Acc.copyRead.forStrand s
  let l ← xlate a va 64
  if (← streamOf k).isSome then streamTrap k 3
  match ← readPieces a.dom (splitPieces l) va with
  | .error (e, at0) => scalarErr e at0
  | .ok r =>
    match badRecord r with
    | some o => streamTrap k 6 o
    | none =>
      let eng := clusterOf s.cur
      if (freeSlot (← get) eng).isNone then drainEngine eng
      let s ← get
      match freeSlot s eng with
      | some key =>
        set { s with slots := Tab.set s.slots key (declared r k s.seqNow s.st) }
        fetchSoon key
      | none =>
        if s.slots.any (fun p => decide (p.1 / 8 = eng) && p.2.draining) then wait
        else streamTrap k 5

/-- `CPLINK` is refused (R359): sj is stream `j`, which is to feed stream `k`. -/
def linkRefused (s : State) (j k : Nat) : Bool :=
  let pj := Tab.get s.slots j
  let pk := Tab.get s.slots k
  j == k || pj.write != pk.write || pj.down.isSome || pk.up.isSome
    || (chainDown s 4 k).contains j
    || decide (4 < (chainUp s 4 j).length + (chainDown s 4 k).length)
    || (if pk.write then pj.dst != 0 || pj.tickets != 0 || pk.tickets != 0
        else pk.src != 0 || pk.claimed != 0 || pj.claimed != 0)

/-- The bytes of the strips that a stream has made available: they become its output when it is linked. -/
def Slot.stripBytes (p : Slot) : List Byte :=
  (range' 0 p.strips).flatMap (fun j => match p.half j with
    | .full i d => if i = j then bytesLE (min p.strip (p.len - j * p.strip) * p.w) d.toNat else []
    | _ => [])

/-- Links stream `j` to feed stream `k` (R359, R373). -/
def link (j k : Nat) : M Unit := do
  modSlot j (fun p =>
    let p := { p with down := some k, fault := none, retry := false }
    if p.write then p
    else { p with inbuf := p.stripBytes ++ p.inbuf, strips := 0, half0 := .empty, half1 := .empty })
  modSlot k (fun p => { p with up := some j })
  if (← getSlot k).write then
    match (chainUp (← get) 4 k).getLast? with
    | some term => runOpsSoon term
    | none => pure ()
  else
    match (chainDown (← get) 4 k).getLast? with
    | some last => fetchSoon last
    | none => pure ()

/-- The stream that an instruction names, of the kind it needs and terminal (R360, R368): 1 a read stream, 2 a write stream, 0 any. -/
def needStream (k kind : Nat) (terminal : Bool) : M (Nat × Slot) := do
  match ← streamOf k with
  | none => streamTrap k 1
  | some (key, p) =>
    if (kind = 1 ∧ p.write) ∨ (kind = 2 ∧ !p.write) then streamTrap k 2
    if terminal ∧ p.internal then streamTrap k 7
    pure (key, p)

/-- The operations that a wait covers (R369). -/
def coveredOps (p : Slot) (a : Nat) : List CopyOp := p.ops.filter (fun o => decide (o.ticket ≤ a))

/-- The operations covered by a wait are released, or visible (R369). -/
def waitHolds (p : Slot) (a : Nat) (vis : Bool) : Bool := (coveredOps p a).all (fun o => !vis && o.released)

/-- The failure that a write stream holds, when a wait up to ticket `a` covers it (R372). -/
def coveredFault (key a : Nat) : M (Option CopyFail) := do
  match (← getSlot key).fault with
  | some f => pure (if f.w1 ≤ a then some f else none)
  | none => pure none

/-- The wait of `CPWAIT` (R369, R372): a failed access that it covers is tried again, once; then it traps, or waits for the engine. -/
def copyWait (key k a : Nat) (vis : Bool) : M Unit := do
  if (← coveredFault key a).isNone ∧ !waitHolds (← getSlot key) a vis then runOps key
  retryOnce key k none (coveredFault key a) (do
    modSlot key (fun p => { p with fault := none })
    runOps key)
  if waitHolds (← getSlot key) a vis then pure () else wait

/-- The cancelled chains of the package go on as far as they can (R370). -/
def drainSlots (s : State) : State :=
  s.slots.foldl (fun s p =>
    if p.2.draining && p.2.up.isNone then
      match drainChain p.1 s with
      | .ok _ t => t
      | .error _ t => t
    else s) s

end Sys2Proof.Machine
end

