-- ==== Sys2Proof/Machine/Lookup.lean ====
section
/-! DEFINITION. The lookup stacks and the bank queue (R301 to R347): regions, codebooks, tables, passes, near-bank work, the
commit of a bank-queue instruction and the records of errors. -/

namespace Sys2Proof.Machine

/-! ### Regions (R306, R307, R327, R329) -/

/-- The figures of a region's shape word. -/
structure Geo where
  ns : Nat
  nd : Nat
  nb : Nat
  /-- Index width, group size, pattern bits. -/
  b : Nat
  g : Nat
  p : Nat
  /-- Batch rows and window columns. -/
  bm : Nat
  cw : Nat
  /-- Anchor. -/
  an : Int
  j : Nat
  kg : Nat

def geoOf (gs : Nat) : Geo :=
  let iw := fld gs 16 2
  let bm := fld gs 20 3 + 1
  { ns := fld gs 0 3 + 1, nd := fld gs 4 4 + 1, nb := fld gs 8 5 + 1, b := iw + 1,
    g := if iw = 0 then 8 else if iw = 1 then 4 else 2, p := if iw = 2 then 6 else 8,
    bm := bm, cw := if bm ≤ 2 then 1024 else if bm ≤ 4 then 512 else 256,
    an := toSigned 8 (fld gs 24 8), j := fld gs 32 8 + 1, kg := fld gs 40 16 + 1 }

/-- Number of banks. -/
def Geo.q (g : Geo) : Nat := g.ns * g.nd * g.nb

/-- The offset from V0 of byte 0 of row0 of region bank `q` (R329). -/
def Geo.bankOff (g : Geo) (q : Nat) : Nat :=
  q / (g.nd * g.nb) * 2 ^ 36 + q / g.nb % g.nd * 2 ^ 15 + q % g.nb * 2 ^ 10

/-- The reserved bits of a shape word, bit 63 with them (R327, R328). -/
def gsReserved (v : Nat) : Bool :=
  bitOf v 3 || fld v 13 3 != 0 || fld v 18 2 != 0 || bitOf v 23 || fld v 56 8 != 0

/-! ### Work inside the stacks -/

/-- A bank-queue entry at work: the machine, the banks at which it found uncorrectable words, and the flags it raised. -/
structure BRun where
  s : State
  err : List Nat := []
  fl : Nat := 0
  dot : Dot := {}

/-- A run in which a word of the bank at `pa` was found uncorrectable. -/
def BRun.bad (r : BRun) (pa : Nat) : BRun := { r with err := if r.err.contains (bankOf pa) then r.err else r.err ++ [bankOf pa] }

/-- Checks the words of the given parts, each within one column word (R316 to R318): those found uncorrectable, by offset and
length. -/
def checkParts (tag sid pa : Nat) : List (Nat × Nat) → BRun → BRun × List (Nat × Nat)
  | [], r => (r, [])
  | (o, k) :: l, r =>
    let (s, bad) := checkWord r.s (pa + o) 0 tag sid
    let r := { r with s := s }
    let r := if bad then r.bad (pa + o) else r
    let (r, t) := checkParts tag sid pa l r
    (r, if bad then (o, k) :: t else t)

/-- `n` bytes of stack DRAM as they are delivered. -/
def State.dramBytes (s : State) (pa n : Nat) : Nat :=
  if s.wordErr.isEmpty then Mem.readLE s.mem pa n
  else (wordPieces pa n (n / 32 + 2)).foldr (fun q v => v ||| s.dramRead (pa + q.1) q.2 * 2 ^ (8 * q.1)) 0

/-- Reads `n` bytes of BR memory: their value, and the parts that lie in uncorrectable words. -/
def bRead (tag sid pa n : Nat) (r : BRun) : BRun × Nat × List (Nat × Nat) :=
  let (r, bad) := checkParts tag sid pa (wordPieces pa n (n / 32 + 2)) r
  (r, r.s.dramBytes pa n, bad)

/-- Reads the pieces of an operand as one run of bytes. -/
def bReadAll (tag sid : Nat) : List (Nat × Nat) → BRun → BRun × Nat × List (Nat × Nat)
  | [], r => (r, 0, [])
  | (pa, n) :: l, r =>
    let (r, v, bad) := bRead tag sid pa n r
    let (r, w, bads) := bReadAll tag sid l r
    (r, v + w * 2 ^ (8 * n), bad ++ bads.map (fun q => (q.1 + n, q.2)))

/-- Bytes `o` to `o + k` − 1 touch an uncorrectable word. -/
def hitBad (bad : List (Nat × Nat)) (o k : Nat) : Bool := bad.any (fun q => overlaps q.1 q.2 o k)

/-- The 64 KiB granules, or the 1 KiB blocks, that a run of bytes touches, by number. -/
def blocksOf (unit pa n : Nat) : List Nat := if n = 0 then [] else range' (pa / unit) ((pa + n - 1) / unit - pa / unit + 1)

/-- Writes `n` bytes of BR memory at the bank: a whole word takes fresh check bits (R316); a part is merged into its word, which stays marked
where `bad` says that it was read and found uncorrectable (R387; log 26). -/
def bMerge (bad : List (Nat × Nat)) (pa n v : Nat) (r : BRun) : BRun :=
  let words := wordPieces pa n (n / 32 + 2)
  let marked := fun (q : Nat × Nat) => decide (q.2 < 32) && hitBad bad q.1 q.2
  let s := words.foldl (fun s q => if q.2 < 32 ∧ !marked q then correctWord s (pa + q.1) else s) r.s
  let s := { s with mem := Mem.writeLE s.mem pa n v }
  let s := words.foldl (fun s q => markWord s (pa + q.1) (marked q)) s
  { r with s := (blocksOf 65536 pa n).foldl (fun s g => dropImages s (g * 65536)) s }

/-- The same where the words have not been read: those written in part are read and checked first (R316 to R318). -/
def bWrite (tag sid pa n v : Nat) (r : BRun) : BRun :=
  let (r, bad) := checkParts tag sid pa ((wordPieces pa n (n / 32 + 2)).filter (fun q => decide (q.2 < 32))) r
  bMerge bad pa n v r

/-- Marks the column word at `pa` uncorrectable (R342). -/
def bMark (pa : Nat) (r : BRun) : BRun := { r with s := markWord r.s pa true }

/-- An entry of a table: FX24 bits with the poison bit 24 (R305). -/
abbrev poisonEntry : Nat := 2 ^ 24

/-- The codebook value `v` of slot `cb` of a bank's die (R308). -/
def codeAt (s : State) (bank cb v : Nat) : Nat := Tab.get s.codebooks (bank / 32 * 256 + cb * 16 + v)

/-- The product of a finite activation and a codebook value, rounded to the anchor's step (R309). -/
def tableProd (an : Int) (neg : Bool) (m : Nat) (e : Int) (code : Nat) : Int × Nat :=
  let (c, ce) := csd24 code
  let n := neg != decide (c < 0)
  let (k, inexact) := roundUnits rne n (m * c.natAbs) (e + ce) an
  (if n then -(k : Int) else k, if inexact then fNX else 0)

/-- The rounded products of one activation with every codebook value; `none` for a poison value. -/
def prodRow (an : Int) (codes : List Nat) : FVal → List (Option Int) × Nat
  | .fin neg m e =>
    codes.foldr (fun c (acc : List (Option Int) × Nat) =>
      if bitOf c 24 then (none :: acc.1, acc.2)
      else let (v, fl) := tableProd an neg m e c; (some v :: acc.1, acc.2 ||| fl)) ([], 0)
  | _ => ([], 0)

/-- The sum that pattern `p` selects from the product rows; `none` when it selects a poison value. -/
def patternSum (b p : Nat) : Nat → List (List (Option Int)) → Option Int
  | _, [] => some 0
  | i, row :: l => match row.getD (fld p (b * i) b) none, patternSum b p (i + 1) l with
    | some v, some w => some (v + w)
    | _, _ => none

/-- One table entry from its exact sum, with its flags (R309, R330). -/
def tableEntry : Option Int → Nat × Nat
  | none => (poisonEntry, fPZ)
  | some v =>
    if v < -(2 ^ 23) then (ofInt 24 (-(2 ^ 23)), fOF + fNX)
    else if 2 ^ 23 - 1 < v then (2 ^ 23 - 1, fOF + fNX)
    else (ofInt 24 v, 0)

/-- A table from its activations and its codebook (R309, R330). -/
def buildTable (g : Geo) (codes : List Nat) (acts : List FVal) : List Nat × Nat :=
  let n := 2 ^ g.p
  let rows := acts.map (prodRow g.an codes)
  let fl := rows.foldl (fun f r => f ||| r.2) 0
  if acts.any (fun a => match a with | .fin _ _ _ => false | _ => true) then
    (List.replicate n poisonEntry,
      fl ||| (if acts.any FVal.isPoison || codes.any (fun c => bitOf c 24) then fPZ else 0)
        ||| (if acts.any (fun a => match a with | .fin _ _ _ => false | a => !a.isPoison) then fNV else 0))
  else
    (range' 0 n).foldr (fun p (acc : List Nat × Nat) =>
      let (v, f) := tableEntry (patternSum g.b p 0 (rows.map (fun r => r.1)))
      (v :: acc.1, acc.2 ||| f)) ([], fl)

/-- Activation element `o` bytes into the operand's data (R332): one that lies in an uncorrectable word is poison. -/
def actAt (t data : Nat) (bad : List (Nat × Nat)) (o : Nat) : FVal :=
  let w := typeW t
  if hitBad bad o w then .poison
  else
    let v := fld data (8 * o) (8 * w)
    if isFloat t then decodeF (fmtOf t) v else FVal.ofInt (asInt t v)

/-- The activations of k-group `k` (counted from the first read) of batch row `r`, when each row's data is `per` bytes. -/
def actsOf (g : Geo) (t data : Nat) (bad : List (Nat × Nat)) (per k r : Nat) : List FVal :=
  (range' 0 g.g).map (fun i => actAt t data bad (r * per + (k * g.g + i) * typeW t))

/-- The codebook values that a bank's die holds for an index width. -/
def codesOf (g : Geo) (bank cb : Nat) (s : State) : List Nat := (range' 0 (2 ^ g.b)).map (codeAt s bank cb)

/-- Puts a table into a slot of a bank; entries beyond it stay (R332). -/
def putTable (bank slot : Nat) (t : List Nat) (s : State) : State :=
  let b := s.bank bank
  s.setBank bank { b with
    tables := ((range' 0 t.length).zip t).foldl (fun (m : Tab Nat) q =>
      let k := slot * 256 + q.1
      if q.2 = 0 then Tab.erase m k else Tab.set m k q.2) b.tables }

/-- The first `n` entries of a table slot. -/
def getTable (bank slot n : Nat) (s : State) : List Nat := (range' 0 n).map (fun i => Tab.get (s.bank bank).tables (slot * 256 + i))

/-- A sparse table as a list of `n` entries from index `j` on. -/
def dense {α : Type} (d : α) : Nat → Nat → Tab α → List α
  | 0, _, _ => []
  | n + 1, j, [] => d :: dense d n (j + 1) []
  | n + 1, j, (k, v) :: r => if k = j then v :: dense d n (j + 1) r else d :: dense d n (j + 1) ((k, v) :: r)

/-- A list as a sparse table from index `j` on, without the entries equal to `d`. -/
def sparse {α : Type} [DecidableEq α] (d : α) : Nat → List α → Tab α
  | _, [] => []
  | j, v :: r => if v = d then sparse d (j + 1) r else (j, v) :: sparse d (j + 1) r

/-- One accumulator takes one table entry (R311): the sum, its poison bit, and OF when it saturates. -/
def accAdd (x : Int) (pz : Bool) (entry : Nat) (bad : Bool) : Int × Bool × Nat :=
  let pz := pz || bad || bitOf entry 24
  if bitOf entry 24 then (x, pz, 0)
  else
    let v := x + toSigned 24 entry
    let c := saturate true 64 v
    (c, pz, if c = v then 0 else fOF)

/-- What each accumulator of the window takes (R311): for batch row r in order, the entry of each byte's pattern. -/
def rowAdds (g : Geo) (tabs : List (List Nat)) (data : Nat) (bad : List (Nat × Nat)) : List (Nat × Bool) :=
  let bytes := (range' 0 g.cw).map (fun m => (if hitBad bad m 1 then 0 else fld data (8 * m) g.p, hitBad bad m 1))
  tabs.flatMap (fun t => bytes.map (fun b => (t.getD b.1 0, b.2)))

/-- Adds them into the accumulators, which stand in a dense list. -/
def addAll : List (Int × Bool) → List (Nat × Bool) → List (Int × Bool) × Nat
  | x :: l, a :: r =>
    let (v, pz, fl) := accAdd x.1 x.2 a.1 a.2
    let (t, f) := addAll l r
    ((v, pz) :: t, fl ||| f)
  | l, _ => (l, 0)

/-- One row of a pass at one bank (R311, R335). -/
def passRow (tag sid : Nat) (g : Geo) (tabs : List (List Nat)) (bank pa : Nat) (r : BRun) : BRun :=
  let (r, data, bad) := bRead tag sid pa g.cw r
  let b := r.s.bank bank
  let old := (dense 0 2048 0 b.acc).zip (dense false 2048 0 b.poison)
  let (new, fl) := addAll old (rowAdds g tabs data bad)
  { r with
    s := r.s.setBank bank { b with acc := sparse 0 0 (new.map (fun x => x.1)), poison := sparse false 0 (new.map (fun x => x.2)) }
    fl := r.fl ||| fl }

/-! ### The entries' effects -/

/-- The fields of a bank-queue word (R37, F-K). -/
def BankEntry.slot (e : BankEntry) : Nat := fld e.word.toNat 8 5
def BankEntry.mode (e : BankEntry) : Nat := fld e.word.toNat 0 4
def BankEntry.geo (e : BankEntry) : Geo := geoOf e.gs.toNat

/-- The banks of the entry's region, in region order, with the physical address of byte 0 of row0 in each (R329). -/
def BankEntry.banks (e : BankEntry) : List (Nat × Nat) :=
  (range' 0 e.geo.q).map (fun q => (bankOf (e.pa0 + e.geo.bankOff q), e.pa0 + e.geo.bankOff q))

/-- The entry's operand number `k`. -/
def BankEntry.opnd (e : BankEntry) (k : Nat) : List (Nat × Nat) := e.ops.getD k []

/-- The banks of a run of bytes. -/
def banksOf (p : Nat × Nat) : List Nat := (blocksOf 1024 p.1 p.2).map (fun b => bankOf (b * 1024))

/-- The banks of its region, and those of its operands. -/
def BankEntry.regionBanks (e : BankEntry) : List Nat := if e.major = 0x32 then [] else e.banks.map (fun b => b.1)
def BankEntry.opndBanks (e : BankEntry) : List Nat := e.ops.flatMap (fun o => o.flatMap banksOf)

/-- The banks that the entry names (R314). -/
def BankEntry.names (e : BankEntry) : List Nat := (e.regionBanks ++ e.opndBanks).eraseDups

/-- The codebook slots that it names, as die × 16 + slot: those of its region's dies (R331). -/
def BankEntry.codes (e : BankEntry) : List Nat :=
  if e.major = 0x30 && (e.func == 1 || e.func == 2) || e.major = 0x31 && e.func == 1 then
    (e.banks.map (fun b => b.1 / 32 * 16 + e.slot)).eraseDups
  else []

/-- It reads an operand before it begins at its banks: `CBLD`, `TBLD` and `LKAB`. -/
def BankEntry.reads (e : BankEntry) : Bool := e.major != 0x32 && !(e.opnd 0).isEmpty

/-- The stacks that perform its parts (R312): those of its region, or of its operands. -/
def BankEntry.inStacks (e : BankEntry) : List Nat :=
  ((if e.major = 0x32 then e.opndBanks.take 1 else e.regionBanks).map (fun b => b / 512)).eraseDups

/-- The region's banks in stack `t`, and its dies there. -/
def BankEntry.banksIn (e : BankEntry) (t : Nat) : List (Nat × Nat) := e.banks.filter (fun b => b.1 / 512 == t)
def BankEntry.diesIn (e : BankEntry) (t : Nat) : List Nat := ((e.banksIn t).map (fun b => b.1 / 32)).eraseDups

/-- Its operand as it was read. -/
def BankEntry.bytes (e : BankEntry) : Nat × List (Nat × Nat) := e.data.getD (0, [])

/-- `CBLD` in stack `t` (R330). -/
def doCbld (e : BankEntry) (t : Nat) (r : BRun) : BRun :=
  let (data, bad) := e.bytes
  { r with s := (e.diesIn t).foldl (fun s d =>
      (range' 0 16).foldl (fun (s : State) v =>
        let c := if hitBad bad (4 * v) 4 then poisonEntry else fld data (32 * v) 24
        { s with codebooks := Tab.set s.codebooks (d * 256 + e.slot * 16 + v) c }) s) r.s }

/-- The tables of one k-group for a bank, and their flags. -/
def tablesFor (e : BankEntry) (per k bank : Nat) (s : State) : List (List Nat) × Nat :=
  let g := e.geo
  let (data, bad) := e.bytes
  (range' 0 g.bm).foldr (fun r (acc : List (List Nat) × Nat) =>
    let (t, fl) := buildTable g (codesOf g bank e.slot s) (actsOf g e.mode data bad per k r)
    (t :: acc.1, acc.2 ||| fl)) ([], 0)

/-- The tables of every die of the region in stack `t`, and their flags. -/
def dieTables (e : BankEntry) (t per k : Nat) (s : State) : Tab (List (List Nat)) × Nat :=
  (e.diesIn t).foldl (fun (acc : Tab (List (List Nat)) × Nat) d =>
    let (l, fl) := tablesFor e per k (d * 32) s
    (Tab.set acc.1 d l, acc.2 ||| fl)) ([], 0)

/-- Puts the tables of a k-group into slots `lo` and up of every bank of the region in stack `t`. -/
def putTables (e : BankEntry) (t lo : Nat) (tabs : Tab (List (List Nat))) (s : State) : State :=
  (e.banksIn t).foldl (fun s b =>
    let l := Tab.get tabs (b.1 / 32)
    ((range' lo l.length).zip l).foldl (fun s q => putTable b.1 q.1 q.2 s) s) s

/-- Bytes of each batch row's activations in an operand of `k` k-groups. -/
def BankEntry.perRow (e : BankEntry) (k : Nat) : Nat := k * e.geo.g * typeW e.mode

/-- `TBLD` in stack `t` (R332). -/
def doTbld (e : BankEntry) (t : Nat) (r : BRun) : BRun :=
  let (tabs, fl) := dieTables e t (e.perRow 1) 0 r.s
  { r with s := putTables e t (fld e.op2.toNat 16 3) tabs r.s, fl := r.fl ||| fl }

/-- `LKZ` in stack `t` (R333). -/
def doLkz (e : BankEntry) (t : Nat) (r : BRun) : BRun :=
  { r with s := (e.banksIn t).foldl (fun s b => s.setBank b.1 { s.bank b.1 with acc := [], poison := [] }) r.s }

/-- The row of k-group `k` of the pass, as an offset from a bank's row0, with the window's first byte (R334, R335). -/
def BankEntry.rowOff (e : BankEntry) (k : Nat) : Nat :=
  let w := e.op2.toNat
  (fld w 0 8 * e.geo.kg + k) * 2 ^ 19 + fld w 8 2 * e.geo.cw

/-- `LKA` in stack `t` (R335): the tables of slots tj to tj + B − 1. -/
def doLka (e : BankEntry) (sid t : Nat) (r : BRun) : BRun :=
  let g := e.geo
  (e.banksIn t).foldl (fun r b =>
    let tabs := (range' e.slot g.bm).map (fun j => getTable b.1 j (2 ^ g.p) r.s)
    passRow e.tag sid g tabs b.1 (b.2 + e.rowOff (fld e.op2.toNat 16 16)) r) r

/-- k-group number `k` of an `LKAB` in stack `t` (R335): its tables are built and its row is streamed; the last one's tables stay. -/
def doLkab (e : BankEntry) (sid t k : Nat) (r : BRun) : BRun :=
  let kn := fld e.op2.toNat 32 16
  let (tabs, fl) := dieTables e t (e.perRow (kn + 1)) k r.s
  let r := (e.banksIn t).foldl (fun r b =>
    passRow e.tag sid e.geo (Tab.get tabs (b.1 / 32)) b.1 (b.2 + e.rowOff (fld e.op2.toNat 16 16 + k)) r) { r with fl := r.fl ||| fl }
  if k = kn then
    { r with s := putTables e t 0 tabs ((e.banksIn t).foldl (fun s b =>
        s.setBank b.1 { s.bank b.1 with tables := (s.bank b.1).tables.filter (fun q => decide (q.1 < e.geo.bm * 256)) }) r.s) }
  else r

/-- Element `i` of an operand that has been read as a run of f16 elements; one in an uncorrectable word is poison (R317). -/
def f16At (data : Nat) (bad : List (Nat × Nat)) (i : Nat) : FVal :=
  if hitBad bad (2 * i) 2 then .poison else decodeF fmtF16 (fld data (16 * i) 16)

/-- One product joins a dot product. -/
def Dot.step (d : Dot) (a b : FVal) : Dot :=
  if a.isPoison || b.isPoison then { d with pz := true }
  else if a.isNan || b.isNan then { d with nan := true, sig := d.sig || a.isSig || b.isSig }
  else if zeroTimesInf a b then { d with inv := true }
  else match (mulNum a b).1 with
    | .inf n => if n then { d with ninf := true } else { d with pinf := true }
    | .fin n m e =>
      { d with
        sum := d.sum + (if n then -1 else 1) * ((m * 2 ^ (e + 48).toNat : Nat) : Int)
        neg0 := d.neg0 && m == 0 && n }
    | .nan _ _ => d

/-- The f32 result and the flags (R340). -/
def Dot.result (d : Dot) (mode : Nat) : Nat × Nat :=
  if d.pz then (fmtF32.poisonBits, fPZ)
  else if d.nan then (fmtF32.canonBits, if d.sig then fNV else 0)
  else if d.inv || (d.pinf && d.ninf) then (fmtF32.canonBits, fNV)
  else if d.pinf then (fmtF32.infBits false, 0)
  else if d.ninf then (fmtF32.infBits true, 0)
  else if d.sum = 0 then (if mode = 2 ∨ d.neg0 then 2 ^ 31 else 0, 0)
  else
    let (v, fl) := roundTo fmtF32 { mode := mode } false (.fin (decide (d.sum < 0)) d.sum.natAbs (-48))
    (v, fl &&& (fNX ||| fNV ||| fPZ))

/-- The physical address of byte `o` of an operand, and how many bytes follow it in its piece. -/
def pieceAt : List (Nat × Nat) → Nat → Nat × Nat
  | [], _ => (0, 0)
  | (pa, n) :: l, o => if o < n then (pa + o, n - o) else pieceAt l (o - n)

/-- The strips from element `i` on of an instruction whose bank vectors are `vs` (R339): each one's first element and length. -/
def stripsFrom (vs : List (List (Nat × Nat))) (len : Nat) : Nat → Nat → List (Nat × Nat)
  | 0, _ => []
  | fuel + 1, i =>
    if len ≤ i then []
    else
      let n := vs.foldl (fun n v => min n ((pieceAt v (2 * i)).2 / 2)) (len - i)
      if n = 0 then [] else (i, n) :: stripsFrom vs len fuel (i + n)

/-- The strips of a `BDOT`, `BAXPY` or `BFILL`. -/
def BankEntry.strips (e : BankEntry) : List (Nat × Nat) :=
  stripsFrom (if e.func = 4 then [e.opnd 0] else [e.opnd 0, e.opnd 1]) e.nblen e.nblen 0

/-- Strip `k` of a `BDOT` (R340); the last one writes the result. -/
def doBdot (e : BankEntry) (sid k : Nat) (r : BRun) : BRun :=
  match e.strips[k]? with
  | none => r
  | some (i, n) =>
    let (r, x, xb) := bRead e.tag sid (pieceAt (e.opnd 0) (2 * i)).1 (2 * n) r
    let (r, y, yb) := bRead e.tag sid (pieceAt (e.opnd 1) (2 * i)).1 (2 * n) r
    let r := { r with dot := (range' 0 n).foldl (fun (d : Dot) j => d.step (f16At x xb j) (f16At y yb j)) r.dot }
    if k + 1 < e.strips.length then r
    else
      let (v, fl) := r.dot.result (e.rm % 8)
      match e.opnd 2 with
      | (pa, _) :: _ => bWrite e.tag sid pa 4 v { r with fl := r.fl ||| fl }
      | [] => r

/-- The elements `k` to `k + n` − 1 of a `BAXPY` strip: their results and flags. -/
def axpyElems (mode : Nat) (alpha : FVal) (x y : Nat) (xb yb : List (Nat × Nat)) : Nat → Nat → Nat × Nat
  | 0, _ => (0, 0)
  | n + 1, i =>
    let r : Rnd := { mode := mode }
    let (v, fl) := fFma r false (f16At y yb i) alpha (f16At x xb i)
    let (z, f) := roundTo fmtF16 r false v
    let (w, g) := axpyElems mode alpha x y xb yb n (i + 1)
    (z + w * 2 ^ 16, fl ||| f ||| g)

/-- Strip `k` of a `BAXPY` (R339, R341). -/
def doBaxpy (e : BankEntry) (sid k : Nat) (r : BRun) : BRun :=
  match e.strips[k]? with
  | none => r
  | some (i, n) =>
    let ya := (pieceAt (e.opnd 1) (2 * i)).1
    let (r, x, xb) := bRead e.tag sid (pieceAt (e.opnd 0) (2 * i)).1 (2 * n) r
    let (r, y, yb) := bRead e.tag sid ya (2 * n) r
    let (v, fl) := axpyElems (e.rm % 8) (decodeF fmtF16 (e.op2.toNat % 65536)) x y xb yb n 0
    bMerge yb ya (2 * n) v { r with fl := r.fl ||| fl }

/-- Writes a destination row whose words at the offsets of `bad` are marked uncorrectable (R342). -/
def writeRow (pa v : Nat) (bad : List (Nat × Nat)) (r : BRun) : BRun :=
  bad.foldl (fun r q => bMark (pa + q.1) r) (bMerge [] pa 1024 v r)

/-- What `BBIT` makes of two rows (R342). -/
def bitRow (op a b : Nat) : Nat :=
  let m := 2 ^ 8192
  if op = 0 then a &&& b
  else if op = 1 then a ||| b
  else if op = 2 then a ^^^ b
  else if op = 3 then a &&& (m - 1 - b)
  else m - 1 - a

/-- Row `t` of a `BCOPY` or `BBIT` (R342): `two` says whether there is a second source; `f` makes the destination row. -/
def rowWork (e : BankEntry) (sid : Nat) (two : Bool) (f : Nat → Nat → Nat) (t : Nat) (r : BRun) : BRun :=
  let src := (e.opnd 0).getD t (0, 0)
  let dst := (e.opnd (if two then 2 else 1)).getD t (0, 0)
  let (r, a, ab) := bRead e.tag sid src.1 1024 r
  let (r, b, bb) := if two then bRead e.tag sid ((e.opnd 1).getD t (0, 0)).1 1024 r else (r, 0, [])
  writeRow dst.1 (f a b) (ab ++ bb) r

def doBcopy (e : BankEntry) (sid k : Nat) (r : BRun) : BRun := rowWork e sid false (fun a _ => a) k r

def doBbit (e : BankEntry) (sid k : Nat) (r : BRun) : BRun := rowWork e sid (e.mode != 4) (bitRow e.mode) k r

/-- `n` copies of a 16-bit element. -/
def repeat16 (v : Nat) : Nat → Nat
  | 0 => 0
  | n + 1 => v + repeat16 v n * 2 ^ 16

/-- Strip `k` of a `BFILL` (R342). -/
def doBfill (e : BankEntry) (sid k : Nat) (r : BRun) : BRun :=
  match e.strips[k]? with
  | none => r
  | some (i, n) => bWrite e.tag sid (pieceAt (e.opnd 0) (2 * i)).1 (2 * n) (repeat16 (e.op2.toNat % 65536) n) r

/-- How many rows or strips each part of the entry has (R313). -/
def BankEntry.units (e : BankEntry) : Nat :=
  if e.major = 0x31 ∧ e.func = 1 then fld e.op2.toNat 32 16 + 1
  else if e.major = 0x32 then (if e.func = 2 ∨ e.func = 3 then e.nblen else e.strips.length)
  else 1

/-- Row or strip `k` of the entry's part in stack `t` (R330 to R342). -/
def bankUnit (e : BankEntry) (sid t k : Nat) (r : BRun) : BRun :=
  if e.major = 0x30 then
    if e.func = 1 then doCbld e t r
    else if e.func = 2 then doTbld e t r
    else if e.func = 3 then doLkz e t r
    else r
  else if e.major = 0x31 then
    if e.func = 0 then doLka e sid t r
    else if e.func = 1 then doLkab e sid t k r
    else r
  else if e.func = 0 then doBdot e sid k r
  else if e.func = 1 then doBaxpy e sid k r
  else if e.func = 2 then doBcopy e sid k r
  else if e.func = 3 then doBbit e sid k r
  else if e.func = 4 then doBfill e sid k r
  else r

/-! ### Records of errors (R343, R346) -/

/-- A record takes its place by the order of its entry, BANKERR before FPX (R343). -/
def placeRecord (n : BankErr) : List BankErr → List BankErr
  | [] => [n]
  | o :: l => if n.seq < o.seq then n :: o :: l else o :: placeRecord n l

/-- A record joins the pending ones, or is merged into the newest when there are 16 (R343). -/
def addRecord (l : List BankErr) (n : BankErr) : List BankErr :=
  if l.length < 16 then placeRecord n l
  else match l.getLast? with
    | none => [n]
    | some o =>
      let m : BankErr :=
        if n.fpx then { o with flags := o.flags ||| n.flags }
        else if o.fpx then { o with fpx := false, low := n.low, banks := n.banks }
        else { o with low := min o.low n.low, banks := o.banks + n.banks }
      l.dropLast ++ [{ m with merged := true, names := o.names ++ n.names }]

/-- What a completed entry leaves with its strand: its flags, and its records (R336, R343, R346). -/
def completeRecords (e : BankEntry) (st : Strand) : Strand :=
  let st := st.accrue e.fl
  let en := e.fl &&& fld e.rm 8 6
  let base : BankErr :=
    { tag := e.tag, pc := e.pc, fpx := false, low := e.err.foldl min (e.err.headD 0), banks := e.err.length, flags := 0,
      merged := false, names := if e.err.isEmpty && en == 0 then [] else e.names, seq := e.seq }
  let st := if e.err.isEmpty then st else { st with bankErrs := addRecord st.bankErrs base }
  if en = 0 then st
  else { st with bankErrs := addRecord st.bankErrs { base with fpx := true, low := 0, banks := 0, flags := en } }

/-- The trap of a record (R343, R346). -/
def recordTrap (b : BankErr) : Trap :=
  let m := if b.merged then 1 else 0
  if b.fpx then { cause := cFPX, eval := b.flags, w0 := m, w1 := b.tag, w3 := b.pc }
  else { cause := cBANKERR, eval := b.tag, w0 := m, w1 := b.low, w2 := b.banks % 65536 + b.flags * 2 ^ 16, w3 := b.pc }

/-! ### The order of the bank queue's work (R312 to R314, R331) -/

/-- Rows or strips that the entry's part in stack `t` has finished, if it has reached the sequencer. -/
def BankEntry.partAt (e : BankEntry) (t : Nat) : Option BankPart := e.parts.find? (fun p => p.stack == t)
def BankEntry.doneAt (e : BankEntry) (t : Nat) : Nat := match e.partAt t with | some p => p.done | none => 0

/-- Elements of an `LKX` that are still to be delivered, from its marker in the vector queue: none while the strand's trap record holds it. -/
def lkxLeft (st : Strand) (e : BankEntry) : Option (Nat × Nat) :=
  (st.vq.find? (fun v => v.marker == some e.tag)).map (fun v => (v.p, min v.vl (e.lanes * 256 / typeW (e.word.toNat % 16))))

/-- Where element `f` of the extraction lies: its region bank and accumulator; none when it lies beyond the region (R337). -/
def lkxPlace (g : Geo) (f : Nat) : Option (Nat × Nat) :=
  if f < g.bm * g.q * g.cw then some (f / g.cw % g.q, f / (g.q * g.cw) * g.cw + f % g.cw) else none

/-- The bank that supplies element `k` of an `LKX`. -/
def lkxBank (e : BankEntry) (k : Nat) : Option Nat :=
  (lkxPlace e.geo (e.op1.toNat + k)).map (fun q => bankOf (e.pa0 + e.geo.bankOff q.1))

/-- The entry has finished at bank `b` (R314, R338): its part in the bank's stack, its reading of operands there, and, for an `LKX`, the
elements that the bank supplies. -/
def finishedAt (st : Strand) (e : BankEntry) (b : Nat) : Bool :=
  if e.complete then true
  else if e.isLkx then
    match lkxLeft st e with
    | none => false
    | some (p, n) => (range' p (n - p)).all (fun k => lkxBank e k != some b)
  else
    let rows := decide (e.units ≤ e.doneAt (b / 512))
    (rows || !e.regionBanks.contains b) && (!e.opndBanks.contains b || (if e.major = 0x32 then rows else e.data.isSome))

/-- The older entries have finished at the banks given, and with the codebook slots given. -/
def olderDone (st : Strand) (older : List BankEntry) (banks codes : List Nat) : Bool :=
  older.all (fun o => o.complete ||
    (let names := o.names
     banks.all (fun b => !names.contains b || finishedAt st o b))
    && (codes.isEmpty || o.codes.all (fun c => !codes.contains c || decide (o.units ≤ o.doneAt (c / 256)))))

/-- The older entries have begun (R19, R314). -/
def olderBegun (older : List BankEntry) : Bool := older.all (fun o => o.complete || o.begun)

/-- The strands of the package, those on no context with them (R20). -/
def State.everyStrand (s : State) : List Strand := s.strands.map (fun p => p.2) ++ s.away

/-- The banks of stack `t` that the entry's part there holds from its first row to its last. -/
def BankEntry.holds (e : BankEntry) (t : Nat) : List Nat :=
  (if e.major = 0x32 then e.opndBanks else e.regionBanks).filter (fun b => b / 512 == t) |>.eraseDups

/-- Work of another strand at one of these banks of stack `t`, or with one of these codebook slots, reached the sequencer first and has not
finished there (R313, R331, R348). -/
def heldBefore (s : State) (me : Nat) (t : Nat) (banks codes : List Nat) (arrived : Nat) : Bool :=
  s.everyStrand.any (fun st => st.owner != me && st.bankQ.any (fun o => !o.complete && (match o.partAt t with
    | none => false
    | some p => decide (p.arrived < arrived)
      && ((o.holds t).any (fun b => banks.contains b && !finishedAt st o b)
        || (decide (p.done < o.units) && o.codes.any (fun c => codes.contains c))))))

/-- A bank is held while a part has begun there and has rows left (R313). -/
def holdBank (k n : Nat) (s : State) (b : Nat) : State :=
  let x := s.bank b
  if k < n then s.setBank b { x with held := some k } else if x.held.isSome then s.setBank b { x with held := none, visit := none } else s

/-- Up to `n` rows of the entry's part in stack `t`, from row `k` on. -/
def bankRows (e : BankEntry) (sid t units : Nat) (holds : List Nat) : Nat → Nat → BRun → BRun × Nat
  | 0, k, r => (r, k)
  | n + 1, k, r =>
    if units ≤ k then (r, k)
    else
      let r := bankUnit e sid t k r
      bankRows e sid t units holds n (k + 1) { r with s := holds.foldl (holdBank (k + 1) units) r.s }

/-- The rows of its operand that the entry reads, by a byte of each. -/
def BankEntry.opndRows (e : BankEntry) : List Nat := (e.opnd 0).flatMap (fun p => (blocksOf 1024 p.1 p.2).map (fun b => b * 1024))

/-- The entry reads its operand (R330, R332, R335): at a bank that is held, in a centre visit (R313). -/
def readOpnd (e : BankEntry) (sid : Nat) (s : State) : State × BankEntry :=
  let s := e.opndRows.foldl centreVisit s
  let (r, v, bad) := bReadAll e.tag sid (e.opnd 0) { s := s, err := e.err }
  (r.s, { e with data := some (v, bad), err := r.err, begun := true })

/-- Sets entry `j` of the bank queue of context `c`. -/
def setBankEntry (c j : Nat) (e : BankEntry) (s : State) : State :=
  s.setStrand c { s.strandAt c with bankQ := (s.strandAt c).bankQ.set j e }

/-- The place in the order of arrival at a sequencer of what reaches it in this step (R313). -/
def State.arrival (s : State) (c : Nat) : Nat := s.tick * 8192 + c

/-- Entry `j` of the bank queue of context `c` does up to `n` rows of its part in stack `t`: once every earlier access of the strand is
performed (R105), every older entry of the queue has begun, and has finished at the part's banks (R314), and it is its turn at the sequencer
(R313). -/
def bankPart (c j t n : Nat) (s : State) : State :=
  let st := s.strandAt c
  match st.bankQ[j]? with
  | none => s
  | some e =>
    let older := st.bankQ.take j
    let holds := e.holds t
    let codes := e.codes.filter (fun d => d / 256 == t)
    if e.complete || e.isLkx || !e.inStacks.contains t || !earlierDone s c e.seq || !olderBegun older || !olderDone st older holds codes then s
    else if e.reads && e.data.isNone && !(olderDone st older e.opndBanks [] && e.opndRows.all (centreOpen s)) then s
    else
      let (s, e) := if e.reads && e.data.isNone then readOpnd e st.sid s else (s, e)
      let p : BankPart := (e.partAt t).getD { stack := t, done := 0, arrived := s.arrival c }
      let rest := e.parts.filter (fun q => q.stack != t)
      if heldBefore s st.owner t holds codes p.arrived then setBankEntry c j { e with parts := p :: rest } s
      else
        let (r, k) := bankRows e st.sid t e.units holds n p.done { s := s, err := e.err, fl := e.fl, dot := e.dot }
        setBankEntry c j
          { e with parts := { p with done := k } :: rest, err := r.err, fl := r.fl, dot := r.dot, begun := e.begun || decide (0 < k) } r.s

/-- Entry `j` is complete when every part has finished (R314); its flags and records go to the strand. -/
def bankFinish (c j : Nat) (s : State) : State :=
  let st := s.strandAt c
  match st.bankQ[j]? with
  | none => s
  | some e =>
    if e.complete || e.isLkx || !e.inStacks.all (fun t => decide (e.units ≤ e.doneAt t)) then s
    else setBankEntry c j { e with complete := true } (s.setStrand c (completeRecords e st))

/-- Complete entries retire in program order (R314). -/
def retireBank (st : Strand) : Strand := { st with bankQ := st.bankQ.dropWhile (fun e => e.complete) }

/-- Entry `j` of the bank queue of context `c` does up to `n` rows in each of the stacks given, and is complete when it has done all. -/
def bankWork (c j n : Nat) (ts : List Nat) (s : State) : State :=
  bankFinish c j (ts.foldl (fun s t => bankPart c j t n s) s)

/-- What can be done of the bank queue of context `c` is done, the oldest entry first. -/
def settleBank (c : Nat) (s : State) : State :=
  let q := (s.strandAt c).bankQ
  if q.isEmpty then s
  else
    let s := (range' 0 q.length).foldl (fun s j =>
      match (s.strandAt c).bankQ[j]? with
      | some e => bankWork c j e.units e.inStacks s
      | none => s) s
    s.setStrand c (retireBank (s.strandAt c))

/-- The work of the strands on no context goes on as far as it can: their scalar accesses, and their bank queues (R20, R126). -/
def settleAway (s : State) : State :=
  s.away.foldl (fun s st =>
    if st.bankQ.isEmpty && st.loads.isEmpty && st.stores.isEmpty then s
    else onAway st.owner (fun c s => settleBank c (drainScalar c s)) s) s

/-! ### Commit (R324) -/

/-- The operand error of R324: ILL, reason 0xF. -/
def operandIll {α : Type} (w k : Nat) : M α := trap cILL w 0xF k

/-- The accessor of a bank-queue operand of the current strand. -/
def bankAcc (rd wr : Bool) (s : State) : Acc := (Acc.bank rd wr).forStrand s

/-- A piece of an operand: its virtual address, its translation and its bytes. -/
structure BankPiece where
  va : Nat
  x : Xl
  n : Nat

/-- Translates bytes `va` to `va + n` − 1, lowest first, cut at 64 KiB. -/
def bankXlate (a : Acc) (va n : Nat) : Nat → M (List BankPiece)
  | 0 => pure []
  | fuel + 1 => do
    if n = 0 then pure []
    else
      let k := min n (65536 - va % 65536)
      let x ← xlate1 a (va % 2 ^ 64)
      let l ← bankXlate a (va + k) (n - k) fuel
      pure ({ va := va % 2 ^ 64, x := x, n := k } :: l)

/-- Translates the parts of an operand. -/
def bankXlateAll (a : Acc) : List (Nat × Nat) → M (List BankPiece)
  | [] => pure []
  | (va, n) :: r => do
    let l ← bankXlate a va n (n / 65536 + 2)
    let t ← bankXlateAll a r
    pure (l ++ t)

/-- The parts of a bank vector of `n` bytes that are still to come, when the next one begins `o` bytes into row number `s`: one for
each row (R339). -/
def vecRows (a step : Nat) : Nat → Nat → Nat → Nat → List (Nat × Nat)
  | 0, _, _, _ => []
  | fuel + 1, s, o, n =>
    if n = 0 then []
    else
      let k := min n (1024 - o)
      ((a - a % 1024 + s * step * 2 ^ 19 + o) % 2 ^ 64, k) :: vecRows a step fuel (s + 1) 0 (n - k)

/-- A bank vector (R339). -/
def bankVector (a step len : Nat) : List (Nat × Nat) := vecRows a step (len / 512 + 2) 0 (a % 1024) (2 * len)

/-- A row operand (R339). -/
def rowOperand (a step len : Nat) : List (Nat × Nat) := (range' 0 len).map (fun t => ((a + t * step * 2 ^ 19) % 2 ^ 64, 1024))

/-- The activations that an instruction reads (R332, R335): one part for each batch row. -/
def actParts (g : Geo) (t a k0 n : Nat) : List (Nat × Nat) :=
  (range' 0 g.bm).map (fun r => ((a + (r * g.g * g.kg + k0 * g.g) * typeW t) % 2 ^ 64, n * g.g * typeW t))

/-- An operand: its parts, and whether it is read and written. -/
structure BankOpnd where
  parts : List (Nat × Nat)
  rd : Bool := true
  wr : Bool := false

/-- Translates the operands in order (R324, check 6). -/
def xlateOpnds : List BankOpnd → M (List (List BankPiece))
  | [] => pure []
  | o :: r => do
    let a := bankAcc o.rd o.wr (← get)
    let l ← bankXlateAll a o.parts
    let t ← xlateOpnds r
    pure (l :: t)

/-- The rows of a pass in every bank of the region, lowest byte first, as offsets from V0 (R329, R335). -/
def passRows (g : Geo) (word : Nat) : List Nat :=
  let k0 := fld word 16 16
  let kn := fld word 32 16
  (range' 0 g.ns).flatMap (fun i => (range' k0 (kn + 1)).flatMap (fun k =>
    (range' 0 (g.nd * g.nb)).map (fun q =>
      i * 2 ^ 36 + (fld word 0 8 * g.kg + k) * 2 ^ 19 + q / g.nb * 2 ^ 15 + q % g.nb * 2 ^ 10 + fld word 8 2 * g.cw)))

/-- A streamed row must translate to its place relative to V0 (R329): the translations used. -/
def streamRows (v0 pa0 n : Nat) : List Nat → M (List Xl)
  | [] => pure []
  | o :: r => do
    let va := (v0 + o) % 2 ^ 64
    let a := bankAcc true false (← get)
    let x ← xlate1 a va
    if x.pa ≠ pa0 + o then trap cPROT va (faultWord 7 (leafLevel x.size) 7)
    let y ← xlate1 a ((va + n - 1) % 2 ^ 64)
    if y.pa ≠ pa0 + o + n - 1 then trap cPROT ((va + n - 1) % 2 ^ 64) (faultWord 7 (leafLevel y.size) 7)
    let l ← streamRows v0 pa0 n r
    pure (x :: y :: l)

/-- The page of a translation in an address space, as a TLB would keep it. -/
def Xl.page (asid : Nat) (x : Xl) : TlbEntry := { (default : TlbEntry) with asid := asid, base := x.base, size := x.size }

/-- What the commit of an instruction must know (R324). -/
structure BankInfo where
  regs : List Nat
  /-- Its region register, when it names one. -/
  region : Option Nat := none
  /-- Its word limits (checks 3 and 4): the value of W1 of the check that fails. -/
  limits : Geo → Strand → Option Nat := fun _ _ => none
  /-- Its alignment (check 5): the first address that breaks it. -/
  align : Strand → Option Nat := fun _ => none
  /-- Its operands (check 6). -/
  opnds : Geo → Strand → List BankOpnd := fun _ _ => []
  /-- The rows that it streams. -/
  rows : Geo → Strand → List Nat := fun _ _ => []
  /-- Co-location (check 7): none, one bank, or one subarray. -/
  coloc : Nat := 0
  /-- It works on `NBLEN` elements or rows: with none, it completes at commit (R339). -/
  counted : Bool := false
  xa : Nat := 0
  xb : Nat := 0
  xc : Nat := 0

/-- `NBLEN.LEN` and `NBRS.STEP`. -/
def Strand.nblen (st : Strand) : Nat := (st.cr 0x290).toNat % 65536
def Strand.nbrs (st : Strand) : Nat := let v := (st.cr 0x291).toNat % 256; if v = 0 then 1 else v

/-- The region registers `GBk` and `GSk`. -/
def Strand.gb (st : Strand) (k : Nat) : Dword := st.cr (0x280 + 2 * k)
def Strand.gs (st : Strand) (k : Nat) : Dword := st.cr (0x281 + 2 * k)

/-- The co-location group of a physical address (R303). -/
def colocKey (kind pa : Nat) : Nat := if kind = 2 then bankOf pa * 256 + fld pa 28 8 else bankOf pa

/-- The check of co-location (R339). -/
def checkColoc (kind : Nat) (l : List (List BankPiece)) : M Unit :=
  match l.flatten with
  | [] => pure ()
  | q :: r =>
    if kind = 0 then pure ()
    else match r.find? (fun p => colocKey kind p.x.pa != colocKey kind q.x.pa) with
      | some p => trap cCOLOC p.va
      | none => pure ()

/-- The bank queue takes an entry, and the strand goes on (R315, R324). -/
def pushBank (e : BankEntry) (st : Strand) : Strand :=
  ({ st with bankQ := st.bankQ ++ [e], bankTag := (st.bankTag + 1) % 65536 }).advance

/-- The entry is work for the lookup logic of every stack that it names a bank of (R472). -/
def wakeStacks (e : BankEntry) (s : State) : State := e.names.foldl (fun s b => s.wake (20 + b / 512)) s

/-- The checks of R324 from the region on, in order, and the entry that commits. -/
def bankEntryOf (word : Nat) (i : BankInfo) : M BankEntry := do
  let s ← get
  let st := s.st
  let gb := match i.region with | some k => st.gb k | none => 0
  let gs := match i.region with | some k => st.gs k | none => 0
  let g := geoOf gs.toNat
  if i.region.isSome ∧ !bitOf gs.toNat 63 then operandIll word 1
  match i.limits g st with
  | some k => operandIll word k
  | none =>
    match i.align st with
    | some va => trap cALIGN va
    | none =>
      let none_ := i.counted && st.nblen == 0
      let l ← if none_ then pure [] else xlateOpnds (i.opnds g st)
      let (pa0, xs) ← match i.region with
        | none => pure (0, [])
        | some _ => do
          let v0 := fld gb.toNat 10 45 * 1024
          let x ← xlate1 (bankAcc true false (← get)) v0
          let xs ← streamRows v0 x.pa g.cw (i.rows g st)
          pure (x.pa, x :: xs)
      checkColoc i.coloc l
      pure { tag := st.bankTag, pc := st.pc.toNat, word := BitVec.ofNat 32 word, op1 := st.xr i.xa, op2 := st.xr i.xb,
             op3 := st.xr i.xc, gb := gb, gs := gs, nblen := st.nblen, nbrs := st.nbrs, rm := (st.cr 0x107).toNat, pa0 := pa0,
             ops := l.map (fun o => o.map (fun p => (p.x.pa, p.n))), early := none_, complete := none_,
             pages := ((l.flatten.map (fun p => p.x) ++ xs).map (Xl.page st.asid)).eraseDups, ebase := st.ebase, lanes := st.lanes,
             seq := s.seqNow }

/-- Room in the bank queue (R18): a strand whose queue is full waits until an entry has retired. -/
def bankRoom : M Unit := do
  modify (fun s => if 16 ≤ s.st.bankQ.length then settleBank s.cur s else s)
  if 16 ≤ (← getSt).bankQ.length then wait

/-- What follows the commit of an entry: it is carried out as far as it goes, unless work is left to its events. -/
def kickBank : M Unit := modify (fun s => if s.defer then s else settleBank s.cur s)

/-- Commits a bank-queue instruction other than `BREG`, `LKX` and `BSYNC` (R324). -/
def commitB (word : Nat) (i : BankInfo) : M Unit := do
  start word { reads := i.regs.map (fun r => (RegKind.x, r)) }
  bankRoom
  let e ← bankEntryOf word i
  modSt (pushBank e)
  modify (wakeStacks e)
  kickBank

/-- `BREG` (R328): it sets its region at commit, and its entry is complete then. -/
def commitBreg (word k a b : Nat) : M Unit := do
  start word { reads := [(.x, a), (.x, b)] }
  bankRoom
  let st ← getSt
  let xa := (st.xr a).toNat
  let xb := (st.xr b).toNat
  let e : BankEntry :=
    { tag := st.bankTag, pc := st.pc.toNat, word := BitVec.ofNat 32 word, op1 := st.xr a, op2 := st.xr b, op3 := 0, gb := 0, gs := 0,
      nblen := 0, nbrs := 0, rm := 0, pa0 := 0, ops := [], early := true, complete := true }
  if xb = 0 then
    modSt (fun st => pushBank e ((st.setCr (0x280 + 2 * k) 0).setCr (0x281 + 2 * k) 0))
  else
    if gsReserved xb then operandIll word 2
    if xa % 1024 ≠ 0 then trap cALIGN xa
    let x ← xlate1 (bankAcc true false (← get)) xa
    let g := geoOf xb
    if 8 < fld x.pa 36 3 + g.ns ∨ 16 < fld x.pa 15 4 + g.nd ∨ 32 < fld x.pa 10 5 + g.nb
        ∨ 131072 < fld x.pa 19 17 + g.j * g.kg then operandIll word 2
    modSt (fun st => pushBank e
      ((st.setCrN (0x280 + 2 * k) (fld xa 10 45 * 1024)).setCrN (0x281 + 2 * k) (xb + 2 ^ 63)))
  kickBank

/-! ### `LKX` (R337, R338, R343, R344) -/

/-- The element width of an `LKX` word. -/
def lkxType (w : Nat) : Nat := w % 16

/-- The bank-queue entry behind a marker: by its tag, or, for an image entry that has lost it, the oldest `LKX` of its address. -/
def lkxEntry (st : Strand) (e : VEntry) : Option BankEntry :=
  match e.marker with
  | some t => st.bankQ.find? (fun b => b.isLkx && b.tag == t)
  | none => st.bankQ.find? (fun b => b.isLkx && b.pc == e.addr)

/-- An element that the `LKX` has still to read has its poison bit set. -/
def lkxPoison (s : State) (b : BankEntry) (x p n : Nat) : Bool :=
  (range' p (n - p)).any (fun e => match lkxPlace b.geo (x + e) with
    | some (q, k) => Tab.getD (s.bank (bankOf (b.pa0 + b.geo.bankOff q))).poison k false
    | none => false)

/-- Changes the bank-queue entry of tag `t`. -/
def Strand.mapBank (t : Nat) (f : BankEntry → BankEntry) (st : Strand) : Strand :=
  { st with bankQ := st.bankQ.map (fun x => if x.tag = t then f x else x) }

/-- The `LKX` has begun at its banks, and keeps its place there until it finishes or is halted. -/
def BankEntry.served (b : BankEntry) : Bool := b.parts.any (fun p => p.done != 0)

/-- The `LKX` reads its banks when every older entry of the queue has begun, and those that name one of them have finished there (R314, R338). It
takes its place in the order in which work reaches the banks' sequencers, and waits for its turn (R313, R348). -/
def settleBefore (b : BankEntry) : M Unit := do
  modify (fun s => settleBank s.cur s)
  let s ← get
  let older := s.st.bankQ.takeWhile (fun x => x.tag != b.tag)
  if !olderBegun older || !olderDone s.st older b.regionBanks [] then wait
  let here := if b.parts.isEmpty then b.inStacks.map (fun t => { stack := t, done := 0, arrived := s.arrival s.cur }) else b.parts
  modSt (Strand.mapBank b.tag (fun x => { x with parts := here }))
  if here.any (fun p => heldBefore s s.st.owner p.stack (b.holds p.stack) [] p.arrived) then wait

/-- The pending record of an older entry of which the `LKX` has still to read a poisoned sum (R343): the oldest record is delivered. -/
def lkxRecord (s : State) (b : BankEntry) (e : VEntry) (n : Nat) : Option (BankErr × List BankErr) :=
  match s.st.bankErrs with
  | r :: l =>
    if s.st.bankErrs.any (fun r => decide (r.seq < b.seq) && r.names.any (fun k => b.names.contains k)) && lkxPoison s b e.op1.toNat e.p n then
      some (r, l)
    else none
  | [] => none

/-- The element count of an `LKX`: its captured `VL` and `LANES` (R324, R337). -/
def countLkx (w : Nat) (e : VEntry) (st : Strand) : Nat :=
  match lkxEntry st e with
  | some b => min e.vl (min b.lanes st.lanes * 256 / w)
  | none => countW w e st

/-- `LKX` at its turn in the vector queue (R337, R338). A pending record is delivered before its first element (R344). -/
def opLkx (vd t : Nat) : VOp where
  w := typeW t
  masked := false
  uses := usesV (typeW t) vd []
  count := countLkx (typeW t)
  begin := do
    let st ← getSt
    let e := st.head
    match lkxEntry st e with
    | none => pure ()
    | some b =>
      if !b.served then
        settleBefore b
        let s ← get
        match lkxRecord s b e (countLkx (typeW t) e s.st) with
        | some (r, l) =>
          modSt (fun st => { st with bankErrs := l })
          throw (.trap { recordTrap r with entry := some e.addr })
        | none => modSt (Strand.mapBank b.tag (fun x => { x with parts := x.parts.map (fun p => { p with done := 1 }), begun := true }))
  body := fun p => do
    let s ← get
    let st := s.st
    let e := st.head
    match lkxEntry st e with
    | none => pure (p + 1)
    | some b =>
      match lkxPlace b.geo (e.op1.toNat + p) with
      | none => pure (p + 1)
      | some (q, k) =>
        let bk := s.bank (bankOf (b.pa0 + b.geo.bankOff q))
        let acc := Tab.getD bk.acc k 0
        let v : FVal := if Tab.getD bk.poison k false then .poison else .fin (decide (acc < 0)) acc.natAbs b.geo.an
        let r := rndWith b.rm st e (b.ebase + p)
        let (z, fl) :=
          if isFloat t then roundTo (fmtOf t) r (bitOf b.rm 4) v
          else let (i, fl) := roundInt (isSigned t) (typeBits t) r v; (ofInt (typeBits t) i, fl)
        modSt (fun st =>
          ((st.setVelem vd (typeW t) p z).accrue fl).mapHead (fun h => h.noteFlags (fld b.rm 8 6) fl p))
        pure (p + 1)
  done := do
    let st ← getSt
    match lkxEntry st st.head with
    | some b => modSt (fun st =>
        retireBank { st with bankQ := st.bankQ.map (fun x => if x.tag = b.tag ∧ x.isLkx then { x with complete := true } else x) })
    | none => pure ()

end Sys2Proof.Machine
end

