-- ==== Sys2Proof/Machine/Matrix.lean ====
section
/-! DEFINITION. Matrix mode (R280 to R294): the tiles, their configuration, outer products, extraction and insertion. -/

namespace Sys2Proof.Machine

/-- The tile type of tile `t`, and its anchor (R280, R283). -/
def Strand.tileType (st : Strand) (t : Nat) : Nat := fld (st.cr 0x201).toNat (16 * t) 2
def Strand.anchor (st : Strand) (t : Nat) : Int := toSigned 8 (fld (st.cr 0x201).toNat (16 * t + 8) 8)

/-- The place of a tile element (R280). -/
def tileKey (t i j : Nat) : Nat := t * 4096 + i * 64 + j

/-- A tile element: zero with tag 0 until it is written (R281, R286). -/
def Strand.tile (st : Strand) (t i j : Nat) : XElem := Tab.getD st.tiles (tileKey t i j) { val := 0, tag := 0 }

/-- Writes a tile element; a zero with tag 0 is not listed. -/
def Strand.setTile (st : Strand) (t i j : Nat) (x : XElem) : Strand :=
  { st with
    tiles := if x = { val := 0, tag := 0 } then Tab.erase st.tiles (tileKey t i j)
      else Tab.set st.tiles (tileKey t i j) x }

/-- Zeroes a tile. -/
def Strand.zeroTile (t : Nat) (st : Strand) : Strand :=
  { st with tiles := st.tiles.filter (fun p => p.1 / 4096 != t) }

/-- Leaves matrix mode (R286): every tile is zero, and `MVL` and `MCFG` are 0. -/
def Strand.endMatrix (st : Strand) : Strand := { (st.setCr 0x200 0).setCr 0x201 0 with tiles := [] }

/-- The exponent of a tile's step: 2^−60, or 2^`AN` (R280). -/
def Strand.tileExp (st : Strand) (t : Nat) : Int := if st.tileType t = 1 then -60 else st.anchor t

/-- A tile accepts the products of an operand type (R280). -/
def tileAccepts (ty t : Nat) : Bool :=
  if ty = 1 then t == 0 || t == 4 || t == 8 || t == 11 || t == 12 else ty == 2 && t == 9

/-- The entry checks of R285 on the named tile. -/
def tileCheck (k : Nat) (ty : Option Nat) : M Unit := do
  let st ← getSt
  let w := st.head.word.toNat
  if st.mvl = 0 ∨ st.tileType k = 0 then entryTrap cILL w 0xC
  match ty with
  | some t => if !tileAccepts (st.tileType k) t then entryTrap cILL w 0xD
  | none => pure ()

/-- Tile `k` in its lanes from number `lo p` to `hi e` − 1: column j lies in lane j (R280). -/
def tileUse (k : Nat) (lo hi : Nat → Nat) : Use :=
  { res := .tile k, wr := true, lo := fun p => 256 * lo p, hi := fun e => 256 * hi e, past := fun _ => 0 }

/-- Every lane of tile `k`. -/
def tileAll (k : Nat) (st : Strand) : Use := tileUse k (fun _ => 0) (fun _ => st.mvl)

/-- A configuration word that `MSETM` takes (R285): no reserved bit, no tile type 3. -/
def mcfgOk (c : Nat) : Bool := (range' 0 4).all (fun t => fld c (16 * t + 2) 6 == 0 && fld c (16 * t) 2 != 3)

/-- The configuration word as `MCFG` keeps it (R286): an anchor only where the type is windowed. -/
def mcfgKeep (c : Nat) : Nat :=
  (range' 0 4).foldr (fun t v => v * 2 ^ 16 + (fld c (16 * t) 2
    + if fld c (16 * t) 2 = 2 then fld c (16 * t + 8) 8 * 2 ^ 8 else 0)) 0

/-- `MSETM` zeroes tile `t` (R286): the dimension or the tile's configuration changes. -/
def Strand.tileChanges (st : Strand) (m c t : Nat) : Bool :=
  m != st.mvl || fld c (16 * t) 16 != fld (st.cr 0x201).toNat (16 * t) 16

/-- The lanes of the tiles that `MSETM` changes (R226, R286): none where it changes no tile. -/
def msetmLanes (e : VEntry) (st : Strand) : Nat :=
  let c := e.op2.toNat
  let m := min e.op1.toNat st.lanes
  if e.op1 = 0 then st.mvl
  else if mcfgOk c && (range' 0 4).any (st.tileChanges m (mcfgKeep c)) then max st.mvl m
  else 0

/-- What `MSETM` does to the strand once its configuration word has been accepted (R286). -/
def Strand.configure (r c : Nat) (st : Strand) : Strand :=
  if r = 0 then st.endMatrix
  else
    let m := min r st.lanes
    let c := mcfgKeep c
    let st := (range' 0 4).foldl (fun (s : Strand) t =>
      if st.tileChanges m c t then s.zeroTile t else s) st
    (st.setCrN 0x200 m).setCrN 0x201 c

/-- `MSETM` (R286). -/
def opMsetm : VOp where
  atHead := true
  masked := false
  uses := fun e st => [tileUse 0 (fun _ => 0) (fun _ => msetmLanes e st)]
  count := countOne
  body := fun _ => do
    let st ← getSt
    let e := st.head
    if e.op1 ≠ 0 ∧ !mcfgOk e.op2.toNat then entryTrap cILL e.word.toNat 0xE
    modSt (Strand.configure e.op1.toNat e.op2.toNat)
    pure 1

/-- `MZERO` (R289). -/
def opMzero (k : Nat) : VOp where
  masked := false
  uses := fun _ st => [tileAll k st]
  count := countOne
  body := fun _ => do
    tileCheck k none
    modSt (Strand.zeroTile k)
    pure 1

/-- The limit of a tile element's magnitude (R281). -/
def tileMax : Int := 2 ^ 127 - 1

/-- A value saturated to the range of a tile element, and whether it was beyond it. -/
def tileSat (i : Int) : Int × Bool := if tileMax < i then (tileMax, true) else if i < -tileMax then (-tileMax, true) else (i, false)

/-- An exact value rounded to the step of a tile (R287, R290), with NX when inexact and OF when it saturates; `nx` says whether a
saturation also sets NX. -/
def toTile (r : Rnd) (u : Int) (nx : Bool) (neg : Bool) (m : Nat) (e : Int) : Int × Nat :=
  let (k, inexact) := roundUnits r neg m e u
  let (v, sat) := tileSat (if neg then -(k : Int) else k)
  (v, if sat then fOF + (if nx then fNX else 0) else if inexact then fNX else 0)

/-- `Accumulate` of a finite product into a finite element (R287): the exact sum, rounded once to the tile's step. -/
def accumulate (mode : Nat) (exact : Bool) (u : Int) (x : Int) (neg : Bool) (m : Nat) (e : Int) : Int × Nat :=
  let c := if e < u then e else u
  let s : Int := x * 2 ^ (u - c).toNat + (if neg then -(m : Int) else m) * 2 ^ (e - c).toNat
  toTile { mode := mode } u (!exact) (decide (s < 0)) s.natAbs c

/-- One product meets one element (R287, R288): the element after it, and the flags. `add` adds a finite product to a finite element. -/
def meetProduct (add : Int → Bool → Nat → Int → Int × Nat) (neg isFp : Bool) (x : XElem) (a b : FVal) : XElem × Nat :=
  if !isFp && x.tag != 0 then (x, 0)
  else if a.isPoison || b.isPoison || x.tag == 4 then ({ x with tag := 4 }, fPZ)
  else if x.tag = 3 then (x, if a.isSig || b.isSig then fNV else 0)
  else if a.isNan || b.isNan then ({ x with tag := 3 }, if a.isSig || b.isSig then fNV else 0)
  else if zeroTimesInf a b then ({ x with tag := 3 }, fNV)
  else match (mulNum a b).1 with
    | .inf n =>
      let n := n != neg
      if x.tag = 0 then ({ x with tag := if n then 2 else 1 }, 0)
      else if (x.tag == 2) != n then ({ x with tag := 3 }, fNV)
      else (x, 0)
    | .fin n m e =>
      if x.tag ≠ 0 then (x, 0)
      else
        let (v, fl) := add x.val (n != neg) m e
        ({ x with val := v }, fl)
    | .nan _ _ => (x, 0)

/-- An operand of a product: the element as an exact value (R287). -/
def Strand.opnd (st : Strand) (t r e : Nat) : FVal :=
  if isFloat t then st.felem t r e else FVal.ofInt (asInt t (st.velem r (typeW t) e))

/-- Depth step `p` of an outer product, for the element in row `i` and column `j` (R287). -/
def stepElem (neg : Bool) (k va vb t n p i j : Nat) (st : Strand) : Strand × Nat :=
  let d := 256 / typeW t
  let act := fun (e : Nat) => decide (e < n) && sel st.head st st.head.mf e
  if act (i * d + p) && act (j * d + p) then
    let (x, fl) := meetProduct (accumulate (rmMode st) (st.tileType k == 1) (st.tileExp k)) neg (isFloat t) (st.tile k i j)
      (st.opnd t va (i * d + p)) (st.opnd t vb (j * d + p))
    (st.setTile k i j x, fl)
  else (st, 0)

/-- Depth step `p` of an outer product, over all elements of the tile (R287). -/
def stepAll (neg : Bool) (k va vb t n p : Nat) (st : Strand) : Strand × Nat :=
  let m := st.mvl
  (range' 0 (m * m)).foldl (fun (a : Strand × Nat) q =>
    let (st, fl) := stepElem neg k va vb t n p (q / m) (q % m) a.1
    (st, a.2 ||| fl)) (st, 0)

/-- The element count of an outer product: its depth, unless there is nothing to multiply (R287). -/
def countDepth (t : Nat) (e : VEntry) (st : Strand) : Nat := if countW (typeW t) e st = 0 then 0 else 256 / typeW t

/-- `OPACC` and `OPSUB` (R287, R288). -/
def vOuter (neg : Bool) (k va vb t : Nat) : VOp where
  w := typeW t
  step := true
  maskBelow := true
  maskTo := fun e st p => min (countW (typeW t) e st) ((st.mvl - 1) * (256 / typeW t) + p + 1)
  uses := fun e st =>
    let n := countW (typeW t) e st * typeW t
    let read := some (min n (256 * st.mvl))
    [{ Use.all (.v va) false n with top := read }, { Use.all (.v vb) false n with top := read },
     { tileAll k st with acc := true, past := fun p => if 256 / typeW t ≤ p then 1 else 0 }]
  count := countDepth t
  check := do
    let st ← getSt
    if (lowest (act st.head st) (countW (typeW t) st.head st)).isSome then tileCheck k (some t)
  body := fun p => do
    modSt (fun st =>
      let (st, fl) := stepAll neg k va vb t (countW (typeW t) st.head st) p st
      st.raiseFlags fl p)
    pure (p + 1)

/-- `OPACC` (R287): Adds outer products over depth steps into a tile. -/
def opOpacc (k va vb t : Nat) : VOp := vOuter false k va vb t
/-- `OPSUB` (R287): Subtracts outer products over depth steps from a tile. -/
def opOpsub (k va vb t : Nat) : VOp := vOuter true k va vb t

/-- The value of a tile element (R290). -/
def XElem.fval (x : XElem) (u : Int) : FVal :=
  if x.tag = 0 then .fin (decide (x.val < 0)) x.val.natAbs u
  else if x.tag = 1 then .inf false
  else if x.tag = 2 then .inf true
  else if x.tag = 3 then .qnan
  else .poison

/-- `Out` of R290: a tile element as an element of type `t`, with its flags; `idx` is the index of a stochastic rounding. -/
def tileOut (st : Strand) (t k i j : Nat) : Nat × Nat :=
  let x := (st.tile k i j).fval (st.tileExp k)
  let r := rmRnd st st.head (st.ebase + 64 * i + j)
  if isFloat t then roundTo (fmtOf t) r (rmSat st) x
  else
    let (v, fl) := roundInt (isSigned t) (typeBits t) r x
    (ofInt (typeBits t) v, fl)

/-- `In` of R290: an element as a tile element, with its flags. -/
def tileIn (mode : Nat) (u : Int) (v : FVal) : XElem × Nat :=
  match v with
  | .nan _ true => ({ val := 0, tag := 4 }, fPZ)
  | .nan s false => ({ val := 0, tag := 3 }, if s then fNV else 0)
  | .inf n => ({ val := 0, tag := if n then 2 else 1 }, 0)
  | .fin n m e =>
    let (i, fl) := toTile { mode := mode } u true n m e
    ({ val := i, tag := 0 }, fl)

/-- The element count of an extraction or insertion (R290): c is the captured index. -/
def countTile (t : Nat) (e : VEntry) (st : Strand) : Nat :=
  if e.op1.toNat < st.mvl then min st.mvl (countW (typeW t) e st) else 0

/-- The elements that the check of the tile asks about: those of the instruction, or, with matrix mode off, those of its vector operand, since
an element count of 0 would let no check be made (R199, R285; DEDUCED, log 69). -/
def countAsked (t : Nat) (e : VEntry) (st : Strand) : Nat := if st.mvl = 0 then countW (typeW t) e st else countTile t e st

/-- The check of R285 for an extraction or insertion with an active element (R199). -/
def extractCheck (k t : Nat) : M Unit := whenActive (countAsked t) act (tileCheck k none)

/-- `MEXTR` (`col` = false) and `MEXTC`, with or without `.z` (R290). -/
def vExtract (col : Bool) (k vd t : Nat) (z : Bool) : VOp where
  w := typeW t
  uses := fun e _ =>
    [Use.at (.v vd) true (typeW t),
     if col then tileUse k (fun _ => e.op1.toNat) (fun _ => e.op1.toNat + 1) else tileUse k id (fun i => i + 1)]
  count := countTile t
  check := extractCheck k t
  body := fun p => do
    modSt (fun st =>
      let e := st.head
      let c := e.op1.toNat
      let (i, j) := if col then (p, c) else (c, p)
      if act e st p then
        let (v, fl) := tileOut st t k i j
        let st := (st.setVelem vd (typeW t) p v).raiseFlags fl p
        if z then st.setTile k i j { val := 0, tag := 0 } else st
      else st)
    pure (p + 1)

/-- `MEXTR` (R290): Extracts a tile row into a vector, optionally clearing it. -/
def opMextr (k vd t : Nat) (z : Bool) : VOp := vExtract false k vd t z
/-- `MEXTC` (R290): Extracts a tile column into a vector, optionally clearing it. -/
def opMextc (k vd t : Nat) (z : Bool) : VOp := vExtract true k vd t z

/-- `MPUTR` (R290). -/
def opMputr (k vs t : Nat) : VOp where
  w := typeW t
  uses := fun _ _ => [Use.at (.v vs) false (typeW t), tileUse k id (fun i => i + 1)]
  count := countTile t
  check := extractCheck k t
  body := fun p => do
    modSt (fun st =>
      let e := st.head
      if act e st p then
        let (x, fl) := tileIn (rmMode st) (st.tileExp k) (st.opnd t vs p)
        (st.setTile k e.op1.toNat p x).raiseFlags fl p
      else st)
    pure (p + 1)

end Sys2Proof.Machine
end

