-- ==== Sys2Proof/Machine/TapArea.lean ====
section
/-! DEFINITION. The rows of tap state, and the tap area that they are kept in while a strand is pre-empted (R408, R409, R426). -/

namespace Sys2Proof.Machine

/-- A row's state; a row at its initial values is not listed. -/
def Strand.setRow (r : Nat) (x : TapRow) (st : Strand) : Strand :=
  { st with rows := if x.count = 0 ∧ x.sel = 0 ∧ x.scores.isEmpty then Tab.erase st.rows r else Tab.set st.rows r x }

/-- Score `j` of a row. -/
def TapRow.score (x : TapRow) (j : Nat) : XElem := Tab.getD x.scores j { val := 0, tag := 0 }

/-- Sets score `j`; a zero with tag 0 is not listed. -/
def TapRow.setScore (j : Nat) (v : XElem) (x : TapRow) : TapRow :=
  { x with scores := if v = { val := 0, tag := 0 } then Tab.erase x.scores j else Tab.set x.scores j v }

/-! ### The tap area (R409, R426) -/

/-- The tap area of `SID` k. -/
def tapArea (s : State) (k : Nat) : Nat := fld (s.pkr 0x841).toNat 16 36 * 65536 + 65536 * k

/-- Writes the row state of rows below `TL` into the tap area at `a`; R382 names no domain for these writes, which carry 0 (log 58). -/
def saveRows (a : Nat) (st : Strand) (s : State) : State :=
  (range' 0 (min st.tl 256)).foldl (fun s r =>
    let x := st.tapRow r
    let s := physWrite s (a + 2 * r) 2 (x.count % 256 + x.sel % 256 * 256)
    let s := (range' 0 8).foldl (fun s j =>
      let v := x.score j
      let s := physWrite s (a + 0x400 + 128 * r + 16 * j) 16 (ofInt 128 v.val)
      physWrite s (a + 0x8400 + 8 * r + j) 1 v.tag) s
    physWrite s (a + 0xC000 + 2 * r) 2 (Tab.get st.uc r)) s

/-- Reads one score of a row back, with the strand's domain (R382); what cannot be read is a free value (log 58). -/
def loadScore (dom a r j : Nat) (q : State × TapRow) : State × TapRow :=
  let (s, v) := physReadFree q.1 (a + 0x400 + 128 * r + 16 * j) 16 dom
  let (s, t) := physReadFree s (a + 0x8400 + 8 * r + j) 1 dom
  (s, q.2.setScore j { val := toSigned 128 v, tag := min 4 t })

/-- Reads the row state of rows below `TL` back from the tap area at `a`. -/
def loadRows (a : Nat) (s : State) (st : Strand) : State × Strand :=
  (range' 0 (min st.tl 256)).foldl (fun (q : State × Strand) r =>
    let (s, h) := physReadFree q.1 (a + 2 * r) 2 st.ddom
    let (s, x) := (range' 0 8).foldl (fun t j => loadScore st.ddom a r j t) (s, { count := h % 256, sel := min 16 (h / 256), scores := [] })
    let (s, u) := physReadFree s (a + 0xC000 + 2 * r) 2 st.ddom
    (s, { q.2.setRow r x with uc := if u = 0 then Tab.erase q.2.uc r else Tab.set q.2.uc r u })) (s, st)

end Sys2Proof.Machine
end

