-- ==== Sys2Proof/Machine/Tap.lean ====
section
/-! DEFINITION. The tap unit (R403 to R416): plans, probe images, scores, and what its three instructions do at their turn in the
vector queue. -/

namespace Sys2Proof.Machine

/-! ### Rows (R408) -/

/-- Bit `r` of `SQM` (R427). -/
def Strand.sqm (st : Strand) (r : Nat) : Bool := bitOf (st.cr (0x402 + r / 64)).toNat (r % 64)

/-- Clears bit `r` of `SQM`. -/
def Strand.clearSqm (r : Nat) (st : Strand) : Strand :=
  st.setCrN (0x402 + r / 64) (setFld (st.cr (0x402 + r / 64)).toNat (r % 64) 1 0)

/-- Row `r` is live for an entry that captured `tl` (R408). -/
def Strand.live (st : Strand) (tl r : Nat) : Bool := decide (r < tl) && decide (r < 256) && st.sqm r

/-- The live rows, in ascending order. -/
def Strand.liveRows (st : Strand) (tl : Nat) : List Nat := (range' 0 (min tl 256)).filter (st.live tl)

/-- The words W0 to W3 of a set of rows. -/
def rowMask (l : List Nat) (k : Nat) : Nat := l.foldl (fun v r => if r / 64 = k then setFld v (r % 64) 1 1 else v) 0

/-- The doublewords of the extension at 0xA00 that hold one byte for each row (R413). -/
def rowBytes (f : Nat → Nat) : List Nat :=
  (range' 0 32).map (fun k => (range' 0 8).foldr (fun i v => f (8 * k + i) % 256 + v * 256) 0)

/-! ### The bound plan -/

/-- The plan bound to the current strand's gang, if `TPLAN.V` is 1 (R406). -/
def boundPlan (s : State) : Option TapBind :=
  if bitOf (s.st.cr 0x3C0).toNat 0 then (s.st.gang.bind (fun g => Tab.find s.gangs g)).bind (fun g => g.tapPlan) else none

/-- The physical address of byte `o` of the plan. -/
def TapBind.at (b : TapBind) (o : Nat) : Nat :=
  if b.plan % 65536 + o < 65536 then b.plan + o else b.next + (b.plan % 65536 + o - 65536)

/-- Reads `n` bytes of the plan, which do not cross a page, for element `f`: a plain load at the home quadrant (R406). -/
def planRead (b : TapBind) (o n f : Nat) : M Nat := do
  let s ← get
  let (s, v, bad) := physRead s (b.at o) n s.st.ddom
  set s
  if bad then
    entryTrap cBANKERR ((b.word / 16 * 16 + o) % 2 ^ 55) 0x15 f (b.at o / 32 * 32) (bankOf (b.at o))
  else pure v

/-- A plan entry (R403). -/
structure PlanEntry where
  layer : Nat
  point : Nat
  nprb : Nat
  pfirst : Nat
  sfirst : Nat
  nstr : Nat
  factor : Nat

/-- A plan entry from its sixteen bytes. -/
def planEntryOf (v : Nat) : PlanEntry :=
  { layer := fld v 0 16, point := fld v 16 8, nprb := fld v 24 8, pfirst := fld v 32 16, sfirst := fld v 48 16,
    nstr := fld v 64 8, factor := fld v 96 32 }

/-- Entry `c` of the plan. -/
def planEntry (b : TapBind) (c f : Nat) : M PlanEntry := do
  let v ← planRead b (0x80 + 16 * c) 16 f
  pure (planEntryOf v)

/-- `NTAP` of the plan. -/
def planCount (b : TapBind) (f : Nat) : M Nat := planRead b 6 2 f

/-- An error of a read of the tap unit or the sampler (R388). -/
def unitErr {α : Type} (e : AccErr) (va elem : Nat) : M α :=
  match e with
  | .bank pa w3 => entryTrap cBANKERR va 0x15 elem pa w3
  | .link w0 w1 w2 w3 => entryTrap cLINKERR va w0 w1 w2 w3

/-- Reads bytes of the probe image (R411, R414), for element `f`. -/
def probeRead (va n f : Nat) : M Nat := do
  let a := Acc.tap.forStrand (← get)
  let l ← elemAccess f 0 (xlate a (va % 2 ^ 64) n)
  match ← readPieces a.dom (splitPieces l) (va % 2 ^ 64) with
  | .ok v => pure v
  | .error (e, at0) => unitErr e at0 f

/-- Reads element `i` of vector `p` of `DIM` elements of type `t`, at `off` in the image. -/
def imageElem (b : TapBind) (off p i t f : Nat) : M FVal := do
  let v ← probeRead (b.img + off + (p * b.dim + i) * typeW t) (typeW t) f
  pure (decodeF (fmtOf t) v)

/-! ### Scores (R407) -/

/-- A finite product joins a score: rounded alone to the anchor's step, limited to 2^100 steps, and added exactly. -/
def scoreAdd (an : Int) (x : Int) (neg : Bool) (m : Nat) (e : Int) : Int × Nat :=
  let (k, inexact) := roundUnits rne neg m e an
  let (k, fl) := if 2 ^ 100 < k then (2 ^ 100, fOF + fNX) else (k, if inexact then fNX else 0)
  let (v, sat) := tileSat (x + (if neg then -(k : Int) else k))
  (v, fl ||| (if sat then fOF else 0))

/-- The products of one residual element with the probes of the entry, added together. -/
def addProducts (an : Int) (a : FVal) (qs : List FVal) (x : TapRow) : TapRow × Nat :=
  ((range' 0 qs.length).zip qs).foldl (fun (acc : TapRow × Nat) q =>
    let (v, fl) := meetProduct (scoreAdd an) false true (acc.1.score q.1) a q.2
    (acc.1.setScore q.1 v, acc.2 ||| fl)) (x, 0)

/-- Runs a read for each number of a list. -/
def mapReads (f : Nat → M FVal) : List Nat → M (List FVal)
  | [] => pure []
  | k :: r => do
    let v ← f k
    let l ← mapReads f r
    pure (v :: l)

/-- `TAP` (R411): the row is the captured operand. -/
def opTap (vs t : Nat) : VOp where
  w := typeW t
  uses := fun _ _ => [Use.at (.v vs) false (typeW t), Use.unit]
  engine := true
  early := fun _ _ => [Use.unit]
  count := countW (typeW t)
  body := fun p => do
    let s ← get
    let st := s.st
    let e := st.head
    let n := countW (typeW t) e st
    let r := e.op1.toNat
    match boundPlan s with
    | none => pure n
    | some b =>
      let row := st.tapRow r
      if !st.live e.tl r then pure n
      else if !act e st p then pure (p + 1)
      else
        let ntap ← planCount b p
        if ntap ≤ row.count then pure n
        else
          let i := st.ebase + p
          if b.dim ≤ i then pure (p + 1)
          else
            let pe ← planEntry b row.count p
            let qs ← mapReads (fun j => imageElem b b.proff (pe.pfirst + j) i b.ptype p) (range' 0 pe.nprb)
            modSt (fun st =>
              let (x, fl) := addProducts b.an (st.felem t vs p) qs (st.tapRow r)
              (st.setRow r x).raiseFlags fl p)
            pure (p + 1)

/-- The rows of a list that do not match a tap word (R412). -/
def badRows (b : Option TapBind) (layer point : Nat) : List Nat → M (List Nat)
  | [] => pure []
  | r :: l => do
    let st ← getSt
    let c := (st.tapRow r).count
    let bad ← match b with
      | none => pure true
      | some b => do
        let n ← planCount b 0
        if n ≤ c then pure true
        else
          let pe ← planEntry b c 0
          pure (pe.layer != layer || pe.point != point)
    let t ← badRows b layer point l
    pure (if bad then r :: t else t)

/-- A probe is crossed (R407). -/
def crossed (x : XElem) (th : Int) : Bool :=
  if x.tag = 0 then decide (th ≤ x.val) else x.tag != 2

/-- The probes of a row that are crossed, as a byte (R412). -/
def crossByte (b : TapBind) (x : TapRow) (pe : PlanEntry) : Nat → Nat → M Nat
  | 0, _ => pure 0
  | n + 1, j => do
    let th ← probeRead (b.img + b.thoff + 16 * (pe.pfirst + j)) 16 0
    let v ← crossByte b x pe n (j + 1)
    pure (if crossed (x.score j) (toSigned 128 th) then setFld v j 1 1 else v)

/-- The crossings of the live rows: (row, its entry, its byte). -/
def crossRows (b : TapBind) : List Nat → M (List (Nat × PlanEntry × Nat))
  | [] => pure []
  | r :: l => do
    let x := (← getSt).tapRow r
    let pe ← planEntry b x.count 0
    let v ← crossByte b x pe pe.nprb 0
    let t ← crossRows b l
    pure ((r, pe, v) :: t)

/-- A trap of the head entry with rows marked in W0 to W3 and an extension (R412, R413). -/
def rowTrap {α : Type} (cause eval : Nat) (rows : List Nat) (ext : List Nat) : M α := do
  let e ← headE
  throw (.trap { cause := cause, eval := eval, w0 := rowMask rows 0, w1 := rowMask rows 1, w2 := rowMask rows 2,
                 w3 := rowMask rows 3, ext := ext, entry := some e.addr })

/-- The bytes that the extension of TAPCOV holds: `COUNT` of the marked rows. -/
def countBytes (st : Strand) (rows : List Nat) : List Nat :=
  rowBytes (fun r => if rows.contains r then (st.tapRow r).count else 0)

/-- `TAPEND` (R412, R413): the tap word is the captured operand. -/
def opTapend : VOp where
  atHead := true
  masked := false
  uses := fun _ _ => [Use.unit]
  engine := true
  count := countOne
  body := fun _ => do
    let s ← get
    let st := s.st
    let e := st.head
    let w := e.op1.toNat
    let live := st.liveRows e.tl
    let bad ← badRows (boundPlan s) (w % 65536) (fld w 16 1) live
    match bad, boundPlan s with
    | r :: _, _ => rowTrap cTAPCOV r bad (countBytes st bad ++ [w % 2 ^ 17])
    | [], none => pure 1
    | [], some b =>
      let l ← crossRows b live
      let idx := match live with | r :: _ => (st.tapRow r).count | [] => 0
      modSt (fun st => l.foldl (fun (st : Strand) q =>
        let x := st.tapRow q.1
        let st := st.setRow q.1 { x with count := x.count + 1, scores := [] }
        if q.2.2 = 0 then st else st.clearSqm q.1) st)
      let cross := l.filter (fun q => q.2.2 != 0)
      match cross with
      | [] => pure 1
      | (_, pe, x) :: _ =>
        modSt (fun st => st.mapHead (fun h => { h with p := 1, finished := true }))
        let low := (lowest (bitOf x) 8).getD 0
        rowTrap cSEQTRAP (pe.pfirst + low) (cross.map (fun q => q.1))
          (rowBytes (fun r => match cross.find? (fun q => q.1 == r) with | some q => q.2.2 | none => 0)
            ++ [pe.layer + pe.point * 2 ^ 16 + idx * 2 ^ 24, pe.pfirst])

/-- `TAPSTEER` (R414): the row is the captured operand. -/
def opTapsteer (vd t : Nat) : VOp where
  w := typeW t
  uses := fun _ _ => [Use.at (.v vd) true (typeW t), Use.at (.v vd) false (typeW t), Use.unit]
  engine := true
  early := fun _ _ => [Use.unit]
  count := countW (typeW t)
  body := fun p => do
    let s ← get
    let st := s.st
    let e := st.head
    let n := countW (typeW t) e st
    let r := e.op1.toNat
    match boundPlan s with
    | none => pure n
    | some b =>
      let row := st.tapRow r
      if !st.live e.tl r || row.count == 0 then pure n
      else if !act e st p then pure (p + 1)
      else
        let pe ← planEntry b (row.count - 1) p
        if row.sel = 0 ∨ pe.nstr < row.sel then pure n
        else
          let i := st.ebase + p
          if b.dim ≤ i then pure (p + 1)
          else
            let v ← imageElem b b.stoff (pe.sfirst + row.sel - 1) i b.stype p
            modSt (fun st =>
              let e := st.head
              let (z, fl) := roundElem t st e p
                (fFma (rmRnd st e (st.ebase + p)) false (st.felem t vd p) (decodeF fmtF32 pe.factor) v)
              (st.putV vd (typeW t) p z).raiseFlags fl p)
            pure (p + 1)

end Sys2Proof.Machine
end

