-- ==== Sys2Proof/Machine/Sampler.lean ====
section
/-! DEFINITION. The sampler (R424 to R440): uniform rings, shortlists, draft verification and the commit of a step. -/

namespace Sys2Proof.Machine

/-- A read of the sampler, for element `f` (R431). -/
def sampRead (va n f : Nat) : M Nat := do
  let a := (Acc.sampler true false).forStrand (← get)
  let l ← elemAccess f 0 (xlate a (va % 2 ^ 64) n)
  match ← readPieces a.dom (splitPieces l) (va % 2 ^ 64) with
  | .ok v => pure v
  | .error (e, at0) => unitErr e at0 f

/-- A write of the sampler, for element `f`. -/
def sampWrite (va n v f : Nat) : M Unit := do
  let a := (Acc.sampler false true).forStrand (← get)
  let l ← elemAccess f 0 (xlate a (va % 2 ^ 64) n)
  match ← writePieces a.dom false (splitPieces l) (va % 2 ^ 64) v with
  | .ok _ => pure ()
  | .error (e, at0) => unitErr e at0 f

/-- Translates bytes that will be accessed, for element `f` (R438, R439). -/
def sampCheck (rd wr : Bool) (va n f : Nat) : M Unit := do
  let a := (Acc.sampler rd wr).forStrand (← get)
  let _ ← elemAccess f 0 (xlate a (va % 2 ^ 64) n)

/-- A ring descriptor (R424). -/
structure Ring where
  ubase : Nat
  logu : Nat
  logo : Nat
  rnum : Nat
  low : Nat
  widx : Nat
  ridx : Nat
  obase : Nat
  oidx : Nat
  step : Nat
  eos : Nat

/-- A descriptor from its 64 bytes. -/
def ringOf (v : Nat) : Ring :=
  let g := fun o n => fld v (8 * o) (8 * n)
  { ubase := g 0 8, logu := g 8 1, logo := g 9 1, rnum := g 0xA 2, low := g 0xC 4, widx := g 0x10 8, ridx := g 0x18 8,
    obase := g 0x20 8, oidx := g 0x28 8, step := g 0x30 8, eos := g 0x38 4 }

/-- The descriptor is malformed (R424). -/
def Ring.malformed (d : Ring) : Bool :=
  decide (d.logu < 4) || decide (20 < d.logu) || decide (d.logo < 4) || decide (20 < d.logo)
    || d.ubase % 64 != 0 || d.obase % 64 != 0

/-- The address of row `r`'s descriptor. -/
def Strand.ringAddr (st : Strand) (r : Nat) : Nat := (st.cr 0x401).toNat / 64 * 64 + 64 * r

/-- `URT.V`. -/
def Strand.ringsValid (st : Strand) : Bool := bitOf (st.cr 0x401).toNat 0

/-- `UC[r]`, and setting it (R426). -/
def Strand.ucOf (st : Strand) (r : Nat) : Nat := Tab.get st.uc r
def Strand.setUc (r v : Nat) (st : Strand) : Strand := { st with uc := if v = 0 then Tab.erase st.uc r else Tab.set st.uc r v }

/-- The low mark is reached (R429): `ULOW`, or an event for the host. -/
def lowMark (r rnum : Nat) (s : State) : State :=
  if bitOf (s.pkr 0x800).toNat 2 then
    postEvent s { kind := 2, queue := 0, subject := rnum, ecause := 0, eval := 0, trec := 0 }
  else
    s.mapSt (fun st =>
      let u := (st.cr 0x406).toNat
      if !bitOf u 8 || decide (r < u % 256) then st.setCrN 0x406 (r + 2 ^ 8) else st)

/-- `UniformRead` of row `r` (R432), for element `f`. -/
def uniformRead (r f : Nat) : M Nat := do
  let st ← getSt
  if !st.ringsValid then entryTrap cUNDERRUN 0 4 r
  let d := ringOf (← sampRead (st.ringAddr r) 64 f)
  if d.malformed then entryTrap cUNDERRUN d.rnum 3 r
  let u := st.ucOf r
  if u = 65535 then entryTrap cUNDERRUN d.rnum 2 r
  if d.widx ≤ d.ridx + u then entryTrap cUNDERRUN d.rnum 1 r
  let n ← sampRead (d.ubase + 4 * ((d.ridx + u) % 2 ^ d.logu)) 4 f
  modSt (Strand.setUc r (u + 1))
  let a := d.widx - d.ridx - u
  if a - 1 ≤ d.low ∧ d.low < a then modify (lowMark r d.rnum)
  pure n

/-- A uniform as the result of type `t` (R432). -/
def uniformAs (t n : Nat) : Nat := if t = 0xA then (roundTo fmtF32 rtz false (.fin false n (-32))).1 else n

/-- `URD` (R433): the row is the captured operand. -/
def opUrd (t : Nat) : VOp where
  masked := false
  uses := fun _ _ => [Use.unit]
  engine := true
  count := countOne
  body := fun _ => do
    let st ← getSt
    let e := st.head
    let r := e.op1.toNat
    if st.live e.tl r then
      let n ← uniformRead r 0
      produce (BitVec.ofNat 64 (uniformAs t n))
    else produce 0
    pure 1

/-- The element count of a row instruction (R431). -/
def countRows (e : VEntry) (_ : Strand) : Nat := min e.vl e.tl

/-- Element `p` of a row instruction is active (R431). -/
def rowAct (e : VEntry) (st : Strand) (p : Nat) : Bool := act e st p && st.live e.tl p

/-- `VURD` (R434). -/
def opVurd (vd t : Nat) : VOp where
  w := 4
  uses := fun _ _ => [Use.at (.v vd) true 4, Use.unit]
  engine := true
  early := fun _ _ => [Use.unit]
  count := countRows
  body := fun p => do
    let st ← getSt
    if rowAct st.head st p then
      let n ← uniformRead p p
      modSt (fun st => st.putV vd 4 p (uniformAs t n))
    pure (p + 1)

/-- Q of R435 for element `p`: whether the element qualifies. -/
def qualifies (t vs : Nat) (st : Strand) (p : Nat) : Bool :=
  let thr := (st.cr 0x400).toNat % 2 ^ 32
  if isFloat t then
    let x := st.felem t vs p
    let y := decodeF fmtF32 thr
    !x.isNan && !y.isNan && !fLt x y
  else decide (thr ≤ st.velem vs (typeW t) p)

/-- value32 of R435. -/
def value32 (t vs : Nat) (st : Strand) (p : Nat) : Nat :=
  if isFloat t then (roundTo fmtF32 rne false (st.felem t vs p)).1 else st.velem vs (typeW t) p

/-- Active qualifying elements below `p`. -/
def qualBelow (t vs : Nat) (st : Strand) (p : Nat) : Nat :=
  ((range' 0 p).filter (fun k => act st.head st k && qualifies t vs st k)).length

/-- `VSHORT` (R435, R436): the pair area is the captured operand. -/
def opVshort (vs t : Nat) : VOp where
  w := typeW t
  step := true
  maskBelow := true
  uses := fun _ _ => [{ Use.at (.v vs) false (typeW t) with past := fun _ => 0 }, Use.unit]
  engine := true
  early := fun _ _ => [Use.unit]
  count := countW (typeW t)
  check := whenActive (countW (typeW t)) act (do
    let e ← headE
    if e.op1.toNat % 8 ≠ 0 then entryTrap cALIGN e.op1.toNat)
  body := fun p => do
    let st ← getSt
    let e := st.head
    if act e st p then
      if qualifies t vs st p then
        let o := qualBelow t vs st p
        if o < fld (st.cr 0x400).toNat 32 16 then
          sampWrite (e.op1.toNat + 8 * o) 8 (value32 t vs st p + (st.ebase + p) % 2 ^ 32 * 2 ^ 32) p
      if isFloat t && (st.felem t vs p).isPoison then modSt (fun st => st.raiseFlags fPZ p)
    pure (p + 1)
  done := do
    let st ← getSt
    produce (BitVec.ofNat 64 (qualBelow t vs st (countW (typeW t) st.head st)))

/-! ### Draft verification (R437, R438) -/

/-- Byte, word fields of a record. -/
def recTok (r j : Nat) : Nat := fld r (8 * (0x40 + 16 * j)) 32
def recTgt (r j : Nat) : Nat := fld r (8 * (0x44 + 16 * j)) 32
def recPar (r j : Nat) : Nat := fld r (8 * (0x48 + 16 * j)) 8

/-- The accepted path from node `c` on; the fuel bounds the nodes. -/
def acceptPath (r n : Nat) : Nat → Nat → List Nat
  | 0, _ => []
  | k + 1, c =>
    match (range' (c + 1) (n - (c + 1))).find? (fun j => recPar r j == c && recTok r j == recTgt r c) with
    | none => []
    | some j => j :: acceptPath r n k j

/-- The record's bytes 0x04 to 0x23 after verification: `BONUS` and `PATH`. -/
def acceptTail (r : Nat) (path : List Nat) : Nat :=
  recTgt r (path.getLast?.getD 0) + ofBytesLE (path.map (fun j => BitVec.ofNat 8 j)) * 2 ^ 32

/-- `VACCEPT` (R438): the records are at the captured operand. -/
def opVaccept (vd : Nat) : VOp where
  w := 4
  uses := fun _ _ => [Use.at (.v vd) true 4, Use.unit]
  engine := true
  early := fun _ _ => [Use.unit]
  count := countRows
  check := whenActive countRows rowAct (do
    let e ← headE
    if e.op1.toNat % 64 ≠ 0 then entryTrap cALIGN e.op1.toNat)
  body := fun p => do
    let st ← getSt
    let e := st.head
    if rowAct e st p then
      let a := e.op1.toNat + 512 * p
      sampCheck true true a 512 p
      let r ← sampRead a 512 p
      let path := acceptPath r (min (max (r % 256) 1) 28) 28 0
      sampWrite (a + 1) 1 path.length p
      sampWrite (a + 4) 32 (acceptTail r path) p
      modSt (fun st => st.putV vd 4 p path.length)
    pure (p + 1)

/-! ### Commit (R439) -/

/-- The coverage step (R416): `COUNT` of every live row. -/
def coverage (tl : Nat) : M Unit := do
  let s ← get
  let st := s.st
  let want ← match boundPlan s with
    | some b => planCount b 0
    | none => pure 0
  let live := st.liveRows tl
  let bad := live.filter (fun r => (st.tapRow r).count != want)
  match bad with
  | r :: _ => rowTrap cTAPCOV r bad (countBytes st bad)
  | [] => modSt (fun st => live.foldl (fun (st : Strand) r => st.setRow r { st.tapRow r with count := 0 }) st)

/-- The tokens that a record gives (R439). -/
def recTokens (r : Nat) : List Nat :=
  (range' 0 (min (fld r 8 8) 27)).map (fun i =>
      let j := fld r (8 * (8 + i)) 8
      recTok r (if 28 ≤ j then 0 else j))
    ++ [fld r 32 32]

/-- Token `t` ends the row: it is the end token, and there is one (R424). -/
def Ring.ends (d : Ring) (t : Nat) : Bool := t == d.eos && d.eos != 0xFFFFFFFF

/-- The tokens that a row takes: up to its end token. -/
def takeTokens (d : Ring) : List Nat → List Nat
  | [] => []
  | t :: r => if d.ends t then [t] else t :: takeTokens d r

/-- Translates, or writes, the output slots of the tokens from index `i` on. -/
def forTokens (f : Nat → Nat → M Unit) (d : Ring) : List Nat → Nat → M Unit
  | [], _ => pure ()
  | t :: r, i => do
    f (d.obase + 4 * (i % 2 ^ d.logo)) t
    forTokens f d r (i + 1)

/-- Commits row `r` (R439): the records are at `a`. -/
def commitRow (a r : Nat) : M Unit := do
  let st ← getSt
  let da := st.ringAddr r
  let f := r + 1
  sampCheck true true da 64 f
  let d := ringOf (← sampRead da 64 f)
  if d.malformed then entryTrap cUNDERRUN d.rnum 3 r
  let rec ← sampRead (a + 512 * r) 512 f
  let toks := takeTokens d (recTokens rec)
  forTokens (fun va _ => sampCheck false true va 4 f) d toks d.oidx
  forTokens (fun va t => sampWrite va 4 t f) d toks d.oidx
  if toks.any d.ends then modSt (Strand.clearSqm r)
  sampWrite (da + 0x18) 8 ((d.ridx + st.ucOf r) % 2 ^ 64) f
  sampWrite (da + 0x28) 16 ((d.oidx + toks.length) % 2 ^ 64 + (d.step + 1) % 2 ^ 64 * 2 ^ 64) f
  modSt (Strand.setUc r 0)

/-- `SCOMMIT` (R439): the records are at the captured operand. -/
def opScommit : VOp where
  step := true
  masked := false
  uses := fun _ _ => [Use.unit]
  engine := true
  count := fun e _ => e.tl + 1
  body := fun p => do
    let st ← getSt
    let e := st.head
    if p = 0 then coverage e.tl
    if !st.ringsValid then
      modSt (fun st => (st.liveRows e.tl).foldl (fun (st : Strand) r => st.setUc r 0) st)
      pure (e.tl + 1)
    else
      if 0 < p ∧ st.live e.tl (p - 1) then commitRow e.op1.toNat (p - 1)
      pure (p + 1)

end Sys2Proof.Machine
end

