-- ==== Sys2Proof/Machine/Lanes.lean ====
section
/-! DEFINITION. Contexts, trap records and lanes: granules and their owners, the lane order, the grant, the start of a gang and
the resumption of a pre-empted strand (R120 to R123, R135, R136, R221, R224). -/

namespace Sys2Proof.Machine

/-! ### Granules (R122) -/

def State.gran (s : State) (cl g : Nat) : Gran := Tab.getD s.grans (cl * 8 + g) .free

/-- Sets a granule's state; a Free granule is not listed. -/
def State.setGran (s : State) (cl g : Nat) (x : Gran) : State :=
  { s with grans := if x = .free then Tab.erase s.grans (cl * 8 + g) else Tab.set s.grans (cl * 8 + g) x }

/-- The granule's registers are zeroed; it is then Free, or Held by `next` (R122). -/
def zeroGran (cl g : Nat) (next : Option Nat) (s : State) : State :=
  (s.setGran cl g (.zeroing next)).raise (.granuleZeroed cl g)

/-- Strand `q` stops, is killed or leaves its lanes (R122, R222): Held is zeroed, Lent becomes Stale for its owner. -/
def leaveGran (cl q : Nat) (s : State) (g : Nat) : State :=
  match s.gran cl g with
  | .held k => if k = q then zeroGran cl g none s else s
  | .lent k p => if k = q then s.setGran cl g (.stale p) else s
  | .zeroing (some k) => if k = q then s.setGran cl g (.zeroing none) else s
  | _ => s

/-- Strand `q` gives up every granule it holds in its cluster. -/
def leaveLanes (cl q : Nat) (s : State) : State := ((range' 0 8).foldl (leaveGran cl q) s).raise (.laneGrant cl)

/-- The gang of register owner `p` is killed (R122). -/
def killGran (cl p : Nat) (s : State) (g : Nat) : State :=
  match s.gran cl g with
  | .held k => if k = p then zeroGran cl g none s else s
  | .lent q k => if k = p then zeroGran cl g (some q) s else s
  | .stale k => if k = p then zeroGran cl g none s else s
  | _ => s

/-- `VSAVE` of owner `p` completes (R122). -/
def savedGran (cl p : Nat) (s : State) (g : Nat) : State :=
  match s.gran cl g with
  | .lent q k => if k = p then zeroGran cl g (some q) s else s
  | .stale k => if k = p then zeroGran cl g none s else s
  | _ => s

/-- Strand `p` is pre-empted: its Held granules become Stale, and those it was lent are Stale for their owner; one that is being zeroed for it
holds its registers, all zero (R122). -/
def preemptGran (cl p : Nat) (s : State) (g : Nat) : State :=
  match s.gran cl g with
  | .held k => if k = p then s.setGran cl g (.stale p) else s
  | .lent q k => if q = p then s.setGran cl g (.stale k) else s
  | .zeroing (some k) => if k = p then s.setGran cl g (.stale p) else s
  | _ => s

/-- The granules that strand `q` has been granted, in ascending order. -/
def grantedTo (s : State) (cl q : Nat) : List Nat := (range' 0 8).filter (fun g => match s.gran cl g with
  | .held k => k == q
  | .lent k _ => k == q
  | .zeroing (some k) => k == q
  | _ => false)

/-- The granules whose register owner is `p`: those that are Stale, and whether one of them is Lent or being zeroed. -/
def staleOf (s : State) (cl p : Nat) : List Nat := (range' 0 8).filter (fun g => s.gran cl g == .stale p)
def lentFrom (s : State) (cl p : Nat) : Bool := (range' 0 8).any (fun g => match s.gran cl g with
  | .lent _ k => k == p
  | _ => false)

/-- Register owner `p` has granules (R223). -/
def ownsLanes (s : State) (cl p : Nat) : Bool := (range' 0 8).any (fun g => match s.gran cl g with
  | .held k => k == p
  | .lent _ k => k == p
  | .stale k => k == p
  | _ => false)

/-- The granules that can be granted, in the order they are taken (log 13): Free ones, then Stale ones, each by number. -/
def grantable (s : State) (cl : Nat) : List Nat :=
  (range' 0 8).filter (fun g => s.gran cl g == .free)
    ++ (range' 0 8).filter (fun g => match s.gran cl g with | .stale _ => true | _ => false)

/-- Granule `g` is granted to strand `q` (R122). -/
def giveGran (cl q : Nat) (s : State) (g : Nat) : State :=
  match s.gran cl g with
  | .free => s.setGran cl g (.held q)
  | .stale p => s.setGran cl g (if p = q then .held q else .lent q p)
  | _ => s

/-! ### Contexts and trap records -/

/-- A context is reserved for a gang that has not started. -/
def reserved (s : State) (c : Nat) : Bool := s.gangs.any (fun g => !g.2.started && g.2.ctxs.contains c)

/-- The contexts of a cluster that a gang may take: free, and not among those `FORDCTL.SRES` keeps for the supervisor (R120, R477). -/
def freeContexts (s : State) (cl : Nat) : List Nat :=
  (range' (cl * 16) (16 - min 4 (fld (s.pkr 0x823).toNat 8 3))).filter (fun c => (s.strandAt c).run == .free && !reserved s c)

/-- The trap records of the pool that nothing holds, by number (R120). -/
def freeRecords (s : State) : List Nat :=
  let used := s.strands.filterMap (fun p => if p.2.run = .free then none else p.2.pool)
    ++ s.preempted.filterMap (fun p => p.strand.pool)
    ++ s.gangs.flatMap (fun g => if g.2.started then [] else g.2.recs)
  (range' 0 ((s.pkr 0x822).toNat % 8192)).filter (fun k => !used.contains k)

/-- The address of record 0 of the pool, and of trap record `k` (R129). -/
def poolAt (s : State) : Nat := fld (s.pkr 0x822).toNat 16 36 * 65536
def recordOfPool (s : State) (k : Nat) : Nat := poolAt s + 4096 * k

/-- The trap registers, `TCMP` and the machine trap registers exist once per context and outlive its strands (R129, R141). -/
def contextRegs (st : Strand) : Tab Dword := st.csr.filter (fun p => decide (0x800 ≤ p.1))

/-- A context without a strand. -/
def freeStrand (st : Strand) : Strand := { csr := contextRegs st }

/-- `TREC` for a record's address: its bits [51:12] (R9, R129). -/
def trecOf (a : Nat) : Nat := fld a 12 40 * 4096

/-- A strand that starts on a context with trap record `k` of the pool: every register not named is zero or at its reset value
(R123, R129). An entry address is a multiple of 4 (R35, R67). -/
def startStrand (s : State) (c k : Nat) (pl : BitVec 2) (entry : Dword) (x2 : Dword) (regs : List (Nat × Nat)) : Strand :=
  let st : Strand := { csr := contextRegs (s.strandAt c), run := .run, pc := entry / 4 * 4, pl := pl, pool := some k }
  let st := regs.foldl (fun (st : Strand) r => st.setCrN r.1 r.2) ((st.setCrN 0x000 k).setCrN 0x805 (trecOf (recordOfPool s k)))
  st.setX 2 x2

/-- The strand once its waiting `VGRANT` has been granted `n` lanes: zeroed vector registers, `VL` = 0, `LW` = 0, and the result, with which
the instruction is complete (R123, R221, R225). -/
def grantedStrand (n : Nat) (st : Strand) : Strand :=
  let d := (st.want.map (fun w => w.2)).getD 0
  { (st.setCrN 0x100 0).setCrN 0x101 0 with lanes := n, want := none, v := [], m := [], h := [], tiles := [] }.result d (BitVec.ofNat 64 n)

/-- The strand without lanes (R222): matrix mode ends, and `LANES`, `VL` and the field `VLMAX` read 0. `LW` keeps its value (R198). -/
def dropLanes (st : Strand) : Strand :=
  { (st.setCrN 0x100 0).setCrN 0x200 0 |>.setCrN 0x201 0 with
    lanes := 0, v := [], m := [], h := [], tiles := [] }

/-! ### The lane order (R121) -/

/-- Who waits in a cluster's lane allocator. -/
inductive Who where
  | gang (gid : Nat)
  | strand (ctx : Nat)
  /-- A pre-empted strand, by its place in the list. -/
  | back (k : Nat)
deriving DecidableEq, Repr

structure Waiter where
  cls : Nat
  age : Nat
  who : Who
deriving DecidableEq, Repr

/-- Class and age of a strand's gang, the core cycle of its admission; a strand that belongs to no gang has class 7 and age 0 (log 13). -/
def classOf (s : State) (st : Strand) : Nat × Nat :=
  match st.gang.bind (fun g => Tab.find s.gangs g) with
  | some g => (g.cls, g.age)
  | none => (7, 0)

/-- The waiters of a cluster (R121, R136, R221). -/
def waiters (s : State) (cl : Nat) : List Waiter :=
  s.gangs.filterMap (fun p =>
      if p.2.cluster = cl ∧ !p.2.started ∧ p.2.killed.isNone then some { cls := p.2.cls, age := p.2.age, who := .gang p.1 } else none)
    ++ (range' (cl * 16) 16).filterMap (fun c =>
      let st := s.strandAt c
      match st.want with
      | some _ => some { cls := (classOf s st).1, age := (classOf s st).2, who := .strand c }
      | none => none)
    ++ (s.preempted.mapIdx (fun i p => (i, p))).filterMap (fun p =>
      if p.2.cluster = cl ∧ p.2.strand.run = .run then
        some { cls := (classOf s p.2.strand).1, age := (classOf s p.2.strand).2, who := .back p.1 }
      else none)

/-- The effective class of a waiter: it rises with the core cycles since the admission, by the Ford's count (R121; log 13). -/
def effClass (s : State) (w : Waiter) : Nat :=
  min 7 (w.cls + (s.fordNow - w.age) / 2 ^ ((s.pkr 0x823).toNat % 32))

/-- The first waiter in the lane order. -/
def headWaiter (s : State) : List Waiter → Option Waiter
  | [] => none
  | w :: r => match headWaiter s r with
    | none => some w
    | some u =>
      let a := effClass s w
      let b := effClass s u
      if a > b ∨ (a = b ∧ w.age ≤ u.age) then some w else some u

/-! ### Starting and resuming -/

/-- The lanes granted to the strand of context `c`: the next `k` granules of the list. -/
def giveLanes (cl q : Nat) (l : List Nat) (s : State) : State := l.foldl (giveGran cl q) s

/-- Starts the member of rank `r` of a gang on context `c` with trap record `k` (R123). -/
def startMember (gid : Nat) (g : Gang) (r c k : Nat) (s : State) : State :=
  let n := g.lanes / 8
  let st := startStrand s c k 0 g.entry g.args
    [(0x001, gid), (0x002, r), (0x003, g.size), (0x004, g.asid), (0x005, g.lsBase + g.lsSize * 2 ^ 8), (0x380, g.ddom),
     (0x10A, g.vceil), (0x3C0, match g.tapPlan with | some b => b.word | none => 0)]
  let st := st.setCrN 0x805 (trecOf (g.recBase + 4096 * k))
  let s := s.setStrand c { st with gang := some gid, lanes := g.lanes }
  giveLanes g.cluster k ((grantable s g.cluster).take n) s

/-- Starts the members from rank `r` on. -/
def startMembers (gid : Nat) (g : Gang) : Nat → List (Nat × Nat) → State → State
  | _, [], s => s
  | r, (c, k) :: l, s => startMembers gid g (r + 1) l (startMember gid g r c k s)

/-- Starts all strands of a gang in one step (R123). -/
def startGang (gid : Nat) (g : Gang) (s : State) : State :=
  let s := startMembers gid g 0 (g.ctxs.zip g.recs) s
  { s with gangs := Tab.set s.gangs gid { g with started := true } }

/-- The user-visible control registers that the strand itself holds, in ascending order (R132; log 14). -/
def userCrs : List Nat :=
  [0x000, 0x001, 0x002, 0x003, 0x004, 0x005] ++ range' 0x100 12 ++ [0x200, 0x201] ++ range' 0x280 20
    ++ [0x380, 0x3C0, 0x3C1, 0x3C2] ++ range' 0x400 9 ++ [0x441]

/-- Those of them that a resumption takes from the record. -/
def resumedCrs : List Nat := [0x100, 0x101, 0x102, 0x105, 0x106, 0x107, 0x108, 0x109, 0x290, 0x291, 0x3C1, 0x400, 0x401, 0x407]

/-- What register `n` can hold: its reserved bits read zero, and its limits hold (R8, R9, R198). -/
def crKeep (n v : Nat) : Nat :=
  if n = 0x100 then v % 65536
  else if n = 0x101 then fld v 16 3 * 65536
  else if n = 0x102 then min (v % 512) 256
  else if n = 0x109 then v % 64
  else match crMap n with
    | some m => crLimit n (v &&& m.rw)
    | none => 0

/-- The value at place `k` of the control registers saved in the record at `a`. -/
def savedCr (s : State) (a n : Nat) : State × Nat := recRead s (a + 0x800 + 8 * (userCrs.findIdx (· == n)))

/-- Takes the saved control registers back. -/
def restoreCrs (a : Nat) : List Nat → State → Strand → State × Strand
  | [], s, st => (s, st)
  | n :: r, s, st =>
    let (s, v) := savedCr s a n
    restoreCrs a r s (st.setCrN n (crKeep n v))

/-- `VL` after a change of `LANES` (R136, R224). -/
def capVl (st : Strand) : Strand :=
  let m := st.lanes * 256 / 2 ^ fld (st.cr 0x101).toNat 16 3
  st.setCrN 0x100 (min st.vl m)

/-- A strand moves to context `c` (log 14): the handler addresses, the machine record and the timer are the context's own (R129, R141). -/
def ontoContext (s : State) (c : Nat) (st : Strand) : Strand :=
  let o := s.strandAt c
  { [0x806, 0x807, 0xC05, 0xC06].foldl (fun (st : Strand) n => st.setCr n (o.cr n)) st with timer := false }

/-- `ERET` itself (R157): the return, and the release of the stream claims that no restored entry keeps (R269). -/
def returnFromTrap : M Unit := do
  let old := ((← getSt).shadow.head?.map (fun h => h.2)).getD []
  trapReturn (wordOf .eret)
  releaseLost old (← getSt).vq

/-- The Ford performs `ERET` for the strand of the current context, whose record the host may have rewritten (R134, R157): `EPC` and the fields
of `ESTAT` come from the record first. The current level is the strand's own, since a strand rises only by a trap (R128; log 60). -/
def eretFor (s : State) : State :=
  let (s, head) := recReads s (s.st.recordAt 0x805) 4
  let estat := head.getD 3 0
  let st := (s.st.setCrN 0x801 (head.getD 0 0)).setStat 0x804 (fld estat 2 2) (bitOf estat 4) (bitOf estat 5)
  match returnFromTrap (s.setSt { st with run := .run }) with
  | .ok _ t => t
  | .error (.trap x) t => deliver t x
  | .error _ t => t

/-- Runs `f` with context `c` as the current one. -/
def onCtx (c : Nat) (f : State → State) (s : State) : State := { f { s with cur := c } with cur := s.cur }

/-- A pre-empted strand goes on, on context `c` with `n` lanes (R136, R224): its state comes back from its record at the level it had (R128);
a parked one that the host has answered goes on as by `ERET` (R134), and one whose vector context has been saved starts its handler. -/
def resumeStrand (p : Preempted) (c n : Nat) (s : State) : State :=
  let st := p.strand
  let a := st.recordAt 0x805
  let (s, head) := recReads s a 4
  let (s, rpc) := recordRpc s a
  let (s, st) := restoreCrs a resumedCrs s st
  let st := ontoContext s c (capVl { st with lanes := n })
  let st := { st.accrue st.away with away := 0, run := .run }
  let estat := head.getD 3 0
  if bitOf (st.cr 0x10B).toNat 1 then
    let st := ((st.setCrN 0x801 (head.getD 0 0)).setCrN 0x802 cVOWN).setCrN 0x803 st.sid
    let st := st.setStat 0x804 (estat % 4) (bitOf estat 4) (bitOf estat 5)
    let st := (st.setCr 0x200 0).setCr 0x201 0
    s.setStrand c { st with pl := 1, pc := st.cr 0x806, latch := 0, v := [], m := [], h := [], tiles := [] }
  else if p.eret then onCtx c eretFor (s.setStrand c st)
  else
    let (s, st) := restoreRecord s st a
    let t := if bitOf estat 5 then rpc else head.getD 0 0
    s.setStrand c { st with pc := BitVec.ofNat 64 (t / 4 * 4) }

/-- The lists of `k` members of a list, in its order. -/
def sublists : Nat → List Nat → List (List Nat)
  | 0, _ => [[]]
  | _ + 1, [] => []
  | k + 1, g :: r => (sublists k r).map (g :: ·) ++ sublists (k + 1) r

/-- The granules that hold a strand's registers stand for the lanes that they stood for. -/
def keepsPlaces (own was now : List Nat) : Bool :=
  own.all (fun g => now.contains g && now.findIdx (· == g) == was.findIdx (· == g))

/-- `k` granules for a strand to resume on: every one that holds its registers, each in its place, and others that can be granted. -/
def resumeOn (s : State) (p : Preempted) (k : Nat) : Option (List Nat) :=
  ((sublists k (grantable s p.cluster)).map (fun l => (range' 0 8).filter l.contains)).find?
    (keepsPlaces (staleOf s p.cluster p.strand.owner) p.grans)

/-- The lanes per strand of a strand's gang. -/
def gangLanes (s : State) (st : Strand) : Nat := ((st.gang.bind (fun g => Tab.find s.gangs g)).map Gang.lanes).getD 0

/-- A pre-empted strand may receive any number of granules (R136): its image is empty, its `VSTART` is 0, and matrix mode is off. -/
def anyLanes (s : State) (st : Strand) : Bool :=
  let a := st.recordAt 0x805
  s.peekLE (a + 0x44) 1 % 64 == 0 && s.peekLE (a + 0x48) 8 == 0 && st.mvl == 0

/-- Which granules a pre-empted strand would receive now; none where it must wait (R122, R136). Where any number will do, it is at most the greater of
its gang's lanes and what it had, which a `VGRANT` may have made more; R136 does not say (DESIGN CHOICE, log 13). -/
def resumeGrans (s : State) (p : Preempted) : Option (List Nat) :=
  let st := p.strand
  let k := st.lanes / 8
  if lentFrom s p.cluster st.owner then none
  else if k = 0 then some []
  else if anyLanes s st then (range' 1 (max (gangLanes s st / 8) k)).reverse.findSome? (resumeOn s p)
  else resumeOn s p k

/-- A strand that has gone on has its tap state back from its tap area (R409, R426). -/
def reloadRows (c : Nat) (s : State) : State :=
  let st := s.strandAt c
  let (s, st) := loadRows (tapArea s st.sid) s st
  s.setStrand c st

/-- The lane allocator tries the head of its order (R121): the state after the grant, or none when the head waits. -/
def grantHead (cl : Nat) (s : State) : Option State :=
  match headWaiter s (waiters s cl) with
  | none => none
  | some w => match w.who with
    | .gang gid =>
      match Tab.find s.gangs gid with
      | none => none
      | some g => if g.size * g.lanes / 8 ≤ (grantable s cl).length then some (startGang gid g s) else none
    | .strand c =>
      let st := s.strandAt c
      let n := (st.want.map (fun w => w.1)).getD 0
      let l := grantable s cl
      if n / 8 ≤ l.length then
        let s := giveLanes cl st.owner (l.take (n / 8)) s
        some (s.setStrand c (grantedStrand n st))
      else none
    | .back k =>
      match s.preempted[k]?, freeContexts s cl with
      | some p, c :: _ =>
        match resumeGrans s p with
        | none => none
        | some l =>
          let s := (physReadFree { s with preempted := s.preempted.eraseIdx k } (p.strand.recordAt 0x805 + 0x40) 16).1
          let s := giveLanes cl p.strand.owner l s
          some (reloadRows c (resumeStrand p c (8 * l.length) s))
      | _, _ => none

/-- What the head of the lane order lacks (R135): granules, and whether it needs a context. -/
def lacks (s : State) (cl : Nat) (w : Waiter) : Nat × Bool :=
  match w.who with
  | .gang gid => (match Tab.find s.gangs gid with | some g => g.size * g.lanes / 8 | none => 0, false)
  | .strand c => (((s.strandAt c).want.map (fun w => w.1)).getD 0 / 8, false)
  | .back k => match s.preempted[k]? with
    | some p => (if anyLanes s p.strand && decide (8 ≤ p.strand.lanes) then 1 else p.strand.lanes / 8, (freeContexts s cl).isEmpty)
    | none => (0, false)

/-- The granule `g` is lent to strand `q` from the strand that waits as `w`. -/
def lentTo (s : State) (cl q : Nat) (w : Waiter) : Bool :=
  match w.who with
  | .back k => match s.preempted[k]? with
    | some p => (range' 0 8).any (fun g => s.gran cl g == .lent q p.strand.owner)
    | none => false
  | _ => false

/-- The strands of a cluster that may be pre-empted for the head `w` (R135): members of gangs of a lower class than the head's own, whose
context or lanes it lacks. Where its registers are lent, it needs those granules (R122). -/
def victims (s : State) (cl : Nat) (w : Waiter) : List Nat :=
  let (_, ctx) := lacks s cl w
  let lent := match w.who with | .back k => (match s.preempted[k]? with | some p => lentFrom s cl p.strand.owner | none => false) | _ => false
  (range' (cl * 16) 16).filter (fun c =>
    let st := s.strandAt c
    st.run != .free && st.gang.isSome && decide ((classOf s st).1 < w.cls)
      && (ctx || (if lent then lentTo s cl st.owner w else decide (0 < st.lanes))))

/-- Class and age decide which strand is pre-empted first: the lowest class, then the youngest (R135). -/
def before (s : State) (c d : Nat) : Bool :=
  let x := classOf s (s.strandAt c)
  let y := classOf s (s.strandAt d)
  decide (x.1 < y.1) || (x.1 == y.1 && decide (y.2 < x.2))

/-- The Ford pre-empts the strand of context `c` now (R135): the head of its cluster's lane order cannot be granted, and `c` is among the first
of those whose pre-emption it needs. -/
def shouldPreempt (s : State) (c : Nat) : Bool :=
  let cl := clusterOf c
  match headWaiter s (waiters s cl) with
  | none => false
  | some w =>
    (grantHead cl s).isNone && (victims s cl w).contains c && !(victims s cl w).any (fun d => before s d c)

/-- One turn of a cluster's lane allocator (R121, R135): it grants to the head of the order, or pre-empts for it. -/
def laneTurn (cl : Nat) (s : State) : State :=
  match grantHead cl s with
  | some s => s.raise (.laneGrant cl)
  | none =>
    match (range' (cl * 16) 16).find? (shouldPreempt s) with
    | some c => s.raise (.preempt c)
    | none => s

end Sys2Proof.Machine
end

