-- ==== Sys2Proof/Machine/VecCfg.lean ====
section
/-! DEFINITION. The configuration instructions of the vector engine (R218 to R224): what those that act at the head of the vector
queue do there. -/

namespace Sys2Proof.Machine

/-- `SETVL` and `SETTL` are complete at commit (R219): nothing is left to do at the head. -/
def opSetvl : VOp where
  masked := false
  count := countOne
  body := fun _ => pure 1

/-- `SETMF` and `SETRM` write register `n` and return its old value (R220). -/
def opSetCr (n : Nat) : VOp where
  atHead := true
  masked := false
  count := countOne
  body := fun _ => do
    let s ← get
    let old := readCr s n
    let v := s.st.head.op1.toNat
    set (writeCr s n v 0 none)
    produce old
    pure 1

/-- Every produced result of the read queue reaches its register (R167). -/
def writeBacks (st : Strand) : Strand :=
  { st.readQ.foldl (fun (st : Strand) r => match r.val with
      | some v => (if r.cv then (st.setX r.dst v).setX r.cpy v else st.setX r.dst v)
      | none => st) st with readQ := st.readQ.filter (fun r => r.val.isNone) }

/-- `VREL` at the head (R222). -/
def opVrel : VOp where
  atHead := true
  masked := false
  count := countOne
  body := fun _ => do
    modSt writeBacks
    let s ← get
    set ((leaveLanes (clusterOf s.cur) s.st.owner s).mapSt dropLanes)
    pure 1

/-! ### `VSAVE` and `VRST` (R223, R224, R293) -/

/-- The strand that holds trap record `sid` of the pool, on a context or pre-empted. -/
def strandOf (s : State) (sid : Nat) : Option Strand :=
  match s.strands.find? (fun p => p.2.run != .free && p.2.pool == some sid) with
  | some p => some p.2
  | none => (s.preempted.find? (fun p => p.strand.pool == some sid)).map (fun p => p.strand)

/-- Changes the strand that holds trap record `sid` of the pool. -/
def mapStrandOf (sid : Nat) (f : Strand → Strand) (s : State) : State :=
  { s with
    strands := s.strands.map (fun p => if p.2.run != .free && p.2.pool == some sid then (p.1, f p.2) else p)
    preempted := s.preempted.map (fun p => if p.strand.pool == some sid then { p with strand := f p.strand } else p) }

/-- The tile area of R293 as (bytes, value) parts: a tile of type 0 is zeros. -/
def tileParts (st : Strand) : List (Nat × Nat) :=
  let m := st.mvl
  let elems := (range' 0 (4 * m * m)).map (fun q =>
    if fld (st.cr 0x201).toNat (16 * (q / (m * m))) 2 = 0 then { val := 0, tag := 0 } else st.tile (q / (m * m)) (q % (m * m) / m) (q % m))
  [(64, m + (st.cr 0x201).toNat * 2 ^ 64)]
    ++ elems.map (fun x => (16, ofInt 128 x.val))
    ++ elems.map (fun x => (1, x.tag))

/-- The area of R223 as (bytes, value) parts. -/
def saveParts (st : Strand) : List (Nat × Nat) :=
  let sz := st.lanes * 256
  [(64, st.lanes + (if st.mvl = 0 then 0 else 2 ^ 16))]
    ++ (range' 0 8).map (fun r => (sz / 8, if r = 0 then 0 else (Tab.get st.m r).toNat % 2 ^ sz))
    ++ (range' 0 4).map (fun r => (1024, (Tab.get st.h r).toNat))
    ++ (range' 0 32).map (fun r => (sz, (Tab.get st.v r).toNat % 2 ^ (8 * sz)))
    ++ (if st.mvl = 0 then [] else tileParts st)

/-- The size of the area for `l` lanes and tiles of dimension `m` (R223, R293). -/
def areaSize (l m : Nat) : Nat := 0x1040 + 33 * 256 * l + (if m = 0 then 0 else 64 + 68 * m * m)

/-- Every byte of a range can be translated: one probe in each 64 KiB that it reaches (R55, R223). -/
def xlateAll (a : Acc) (va size : Nat) : Nat → M Unit
  | 0 => pure ()
  | n + 1 => do
    if size = 0 then pure ()
    else
      let k := min size (65536 - va % 65536)
      let _ ← elemAccess 0 0 (xlate1By (pageOf a) a (va % 2 ^ 64))
      xlateAll a (va + k) (size - k) n

/-- Writes a part in pieces of 64 bytes. -/
def writePart (va size v : Nat) : Nat → M Unit
  | 0 => pure ()
  | n + 1 => do
    if size = 0 then pure ()
    else
      let k := min size 64
      vWrite false 1 (va % 2 ^ 64) k (v % 2 ^ (8 * k)) 0 0
      writePart (va + k) (size - k) (v / 2 ^ (8 * k)) n

/-- Writes parts one after another. -/
def writeParts : List (Nat × Nat) → Nat → M Unit
  | [], _ => pure ()
  | (k, v) :: r, va => do
    writePart va k v (k / 64 + 1)
    writeParts r (va + k)

/-- `VSAVE` at the head (R223): the first captured operand names the owner, the second is the area. -/
def opVsave : VOp where
  atHead := true
  masked := false
  touch := fun _ _ _ => some { wr := true, all := true, spans := [] }
  count := countOne
  body := fun _ => do
    let e ← headE
    let sid := e.op1.toNat % 4096
    let va := e.op2.toNat
    if va % 64 ≠ 0 then entryTrap cALIGN va
    let s ← get
    match (range' 0 16).find? (fun cl => ownsLanes s cl sid), strandOf s sid with
    | some cl, some p =>
      let n := areaSize p.lanes p.mvl
      xlateAll (vAcc .vstore false s) va n (n / 65536 + 2)
      writeParts (saveParts p) va
      modify (fun s =>
        let s := mapStrandOf sid (fun st => st.setCrN 0x10B (setFld (st.cr 0x10B).toNat 1 1 1)) s
        ((range' 0 8).foldl (savedGran cl sid) s).raise (.laneGrant cl))
      pure 1
    | _, _ => pure 1

/-- Reads a part in pieces of 64 bytes. -/
def readPart (va size : Nat) : Nat → M Nat
  | 0 => pure 0
  | n + 1 => do
    if size = 0 then pure 0
    else
      let k := min size 64
      let v ← vRead false 1 (va % 2 ^ 64) k 0 0
      let w ← readPart (va + k) (size - k) n
      pure (v % 2 ^ (8 * k) + w * 2 ^ (8 * k))

/-- Reads `n` parts of `k` bytes each. -/
def readParts (va k : Nat) : Nat → M (List Nat)
  | 0 => pure []
  | n + 1 => do
    let v ← readPart va k (k / 64 + 1)
    let l ← readParts (va + k) k n
    pure (v :: l)

/-- The tile elements of a saved area, under configuration `c`: a tile of type 0 holds none (R293). -/
def tilesOf (m c : Nat) (vals tags : List Nat) : Tab XElem :=
  ((range' 0 (4 * m * m)).zip (vals.zip tags)).foldl (fun (t : Tab XElem) q =>
    let k := tileKey (q.1 / (m * m)) (q.1 % (m * m) / m) (q.1 % m)
    if fld c (16 * (q.1 / (m * m))) 2 = 0 ∨ (q.2.1 = 0 ∧ q.2.2 = 0) then t else Tab.set t k { val := toSigned 128 q.2.1, tag := q.2.2 }) []

/-- The strand's granules that it holds itself, by their places among its lanes; none while one is being zeroed (R122, R224). -/
def heldPlaces (s : State) : Option (List Nat) :=
  let l := s.granulesOf (clusterOf s.cur) s.st.owner
  if l.any (fun g => match g.2 with | .zeroing _ => true | _ => false) then none
  else some ((range' 0 l.length).filter (fun j => l[j]?.any (fun g => g.2 == Gran.held s.st.owner)))

/-- The value `old` with the parts of `u` bits at the places given taken from `new`. -/
def mergeAt (u : Nat) (held : List Nat) (old new : Nat) : Nat := held.foldl (fun a j => setFld a (u * j) u (fld new (u * j) u)) old

/-- What `VRST` does to the strand's registers in the granules that it holds (R224): `l` is the saved lane count. -/
def restoreVec (held : List Nat) (l : Nat) (ms hs vs : List Nat) (st : Strand) : Strand :=
  let n := min l st.lanes * 256
  let st := { st with
    m := ((range' 1 7).zip (ms.drop 1)).map (fun (p : Nat × Nat) =>
      (p.1, BitVec.ofNat 16384 (mergeAt 2048 held (Tab.get st.m p.1).toNat (p.2 % 2 ^ n))))
    h := ((range' 0 4).zip hs).map (fun (p : Nat × Nat) => (p.1, BitVec.ofNat 8192 p.2))
    v := ((range' 0 32).zip vs).map (fun (p : Nat × Nat) =>
      (p.1, BitVec.ofNat 131072 (mergeAt 16384 held (Tab.get st.v p.1).toNat (p.2 % 2 ^ (8 * n))))) }
  let st := st.setCrN 0x10B (setFld (st.cr 0x10B).toNat 1 1 0)
  if l = st.lanes then st else capVl st

/-- The tiles after `VRST` (R224, R293): columns in the granules that the strand holds are those saved. -/
def restoreTiles (held : List Nat) (old new : Tab XElem) : Tab XElem :=
  (new.filter (fun x => held.contains (x.1 % 64 / 8))).foldl (fun t x => Tab.set t x.1 x.2)
    (old.filter (fun x => !held.contains (x.1 % 64 / 8)))

/-- `VRST` at the head (R224, R293). -/
def opVrst : VOp where
  atHead := true
  masked := false
  touch := fun _ _ _ => some { wr := false, all := true, spans := [] }
  count := countOne
  body := fun _ => do
    let e ← headE
    let va := e.op1.toNat
    if va % 64 ≠ 0 then entryTrap cALIGN va
    let w := e.word.toNat
    let h ← vRead false 1 va 64 0 0
    let l := h % 65536
    if 64 < l ∨ l % 8 ≠ 0 ∨ h / 2 ^ 24 ≠ 0 then entryTrap cILL w 4
    let mm := bitOf h 16
    let s ← get
    let held ← match heldPlaces s with
      | some l => pure l
      | none => wait
    let st := s.st
    let n := areaSize l 0
    xlateAll (vAcc .vload false s) va n (n / 65536 + 2)
    let ms ← readParts (va + 0x40) (l * 32) 8
    let hs ← readParts (va + 0x40 + l * 256) 1024 4
    let vs ← readParts (va + 0x1040 + l * 256) (l * 256) 32
    if mm then
      let t := va + n
      xlateAll (vAcc .vload false s) t 64 2
      let g ← readPart t 64 1
      let mvl := g % 2 ^ 64
      if l ≠ st.lanes ∨ mvl = 0 ∨ l < mvl then entryTrap cILL w 4
      xlateAll (vAcc .vload false s) t (64 + 68 * mvl * mvl) 8
      let vals ← readParts (t + 64) 16 (4 * mvl * mvl)
      let tags ← readParts (t + 64 + 64 * mvl * mvl) 1 (4 * mvl * mvl)
      if tags.any (fun x => decide (4 < x)) then entryTrap cILL w 4
      let c := mcfgKeep (g / 2 ^ 64 % 2 ^ 64)
      modSt (fun st => { ((restoreVec held l ms hs vs st).setCrN 0x200 mvl).setCrN 0x201 c with
        tiles := restoreTiles held st.tiles (tilesOf mvl c vals tags) })
    else modSt (restoreVec held l ms hs vs)
    pure 1

/-- Lanes are wanted: the strand waits in the lane allocator until they are granted (R221). -/
def wantLanes (n d : Nat) : M Unit := do
  modSt (fun st => { st with want := some (n, d) })
  modify (fun s => laneTurn (clusterOf s.cur) s)

end Sys2Proof.Machine
end

