-- ==== Sys2Proof/Machine/VecTable.lean ====
section
/-! DEFINITION. The table of the vector queue: what each instruction that enters it does at its turn (R194), and how a strand's
queued work is carried out. -/

namespace Sys2Proof.Machine

/-- The addressing of a `VAMO` by its mode field (R255, R275): the third field is a stride's register, or an index vector. -/
def vamoMode (o : BitVec 2) (c : BitVec 5) : Mode :=
  if o = 0 then .unit else if o = 1 then .strided else .indexed c.toNat

/-- The register that it reads for its addresses, and the stride it captures. -/
def vamoReads (o : BitVec 2) (c : BitVec 5) : List (RegKind × Nat) :=
  if o = 0 then [] else if o = 1 then [(.x, c.toNat)] else [(.v, c.toNat)]
def vamoStride (o : BitVec 2) (c : BitVec 5) (st : Strand) : Dword := if o = 1 then st.rx c else 0

/-- What an instruction of the vector queue does; none for an instruction of another class. -/
def vopOf (e : VEntry) (i : Instr) : Option VOp :=
  match i with
  | .setvl _ _ _ => some opSetvl
  | .settl _ _ => some opSetvl
  | .vgrant _ _ => some opSetvl
  | .vrel => some opVrel
  | .setmf _ _ => some (opSetCr 0x106)
  | .setrm _ _ => some (opSetCr 0x107)
  | .vsave _ _ => some opVsave
  | .vrst _ => some opVrst
  | .vaddInt d a b _ t => some (opVaddInt d.toNat a.toNat b.toNat t.toNat)
  | .vsubInt d a b _ t => some (opVsubInt d.toNat a.toNat b.toNat t.toNat)
  | .vmulInt d a b _ t => some (opVmulInt d.toNat a.toNat b.toNat t.toNat)
  | .vmulh d a b _ t => some (opVmulh d.toNat a.toNat b.toNat t.toNat)
  | .vminInt d a b _ t => some (opVminInt d.toNat a.toNat b.toNat t.toNat)
  | .vmaxInt d a b _ t => some (opVmaxInt d.toNat a.toNat b.toNat t.toNat)
  | .vsatadd d a b _ t => some (opVsatadd d.toNat a.toNat b.toNat t.toNat)
  | .vsatsub d a b _ t => some (opVsatsub d.toNat a.toNat b.toNat t.toNat)
  | .vshl d a b _ t => some (opVshl d.toNat a.toNat b.toNat t.toNat)
  | .vshr d a b _ t => some (opVshr d.toNat a.toNat b.toNat t.toNat)
  | .vsra d a b _ t => some (opVsra d.toNat a.toNat b.toNat t.toNat)
  | .vand d a b _ t => some (opVand d.toNat a.toNat b.toNat t.toNat)
  | .vor d a b _ t => some (opVor d.toNat a.toNat b.toNat t.toNat)
  | .vxor d a b _ t => some (opVxor d.toNat a.toNat b.toNat t.toNat)
  | .vabsInt d a _ t => some (opVabsInt d.toNat a.toNat t.toNat)
  | .vnegInt d a _ t => some (opVnegInt d.toNat a.toNat t.toNat)
  | .vaddFp d a b _ t => some (opVaddFp d.toNat a.toNat b.toNat t.toNat)
  | .vsubFp d a b _ t => some (opVsubFp d.toNat a.toNat b.toNat t.toNat)
  | .vmulFp d a b _ t => some (opVmulFp d.toNat a.toNat b.toNat t.toNat)
  | .vfma d a b _ t => some (opVfma d.toNat a.toNat b.toNat t.toNat)
  | .vfms d a b _ t => some (opVfms d.toNat a.toNat b.toNat t.toNat)
  | .vfnma d a b _ t => some (opVfnma d.toNat a.toNat b.toNat t.toNat)
  | .vdiv d a b _ t => some (opVdiv d.toNat a.toNat b.toNat t.toNat)
  | .vsqrt d a _ t => some (opVsqrt d.toNat a.toNat t.toNat)
  | .vrcp d a _ t => some (opVrcp d.toNat a.toNat t.toNat)
  | .vrsq d a _ t => some (opVrsq d.toNat a.toNat t.toNat)
  | .vminFp d a b _ t => some (opVminFp d.toNat a.toNat b.toNat t.toNat)
  | .vmaxFp d a b _ t => some (opVmaxFp d.toNat a.toNat b.toNat t.toNat)
  | .vabsFp d a _ t => some (opVabsFp d.toNat a.toNat t.toNat)
  | .vnegFp d a _ t => some (opVnegFp d.toNat a.toNat t.toNat)
  | .vscale d a b _ t => some (opVscale d.toNat a.toNat b.toNat t.toNat)
  | .vrnd d a r _ t => some (opVrnd d.toNat a.toNat r.toNat t.toNat)
  | .vcmpEq d a b _ t => some (opVcmpEq d.toNat a.toNat b.toNat t.toNat)
  | .vcmpNe d a b _ t => some (opVcmpNe d.toNat a.toNat b.toNat t.toNat)
  | .vcmpLt d a b _ t => some (opVcmpLt d.toNat a.toNat b.toNat t.toNat)
  | .vcmpLe d a b _ t => some (opVcmpLe d.toNat a.toNat b.toNat t.toNat)
  | .vcmpUn d a b _ t => some (opVcmpUn d.toNat a.toNat b.toNat t.toNat)
  | .vsel d a b _ t => some (opVsel d.toNat a.toNat b.toNat t.toNat)
  | .mand d a b _ => some (opMand d.toNat a.toNat b.toNat)
  | .mor d a b _ => some (opMor d.toNat a.toNat b.toNat)
  | .mxor d a b _ => some (opMxor d.toNat a.toNat b.toNat)
  | .mnot d a _ => some (opMnot d.toNat a.toNat)
  | .mset d _ => some (opMset d.toNat)
  | .mclr d _ => some (opMclr d.toNat)
  | .vpopc _ a _ => some (opVpopc a.toNat)
  | .vfirst _ a _ => some (opVfirst a.toNat)
  | .vcvt d a r s _ t => some (opVcvt d.toNat a.toNat r.toNat s.toNat t.toNat)
  | .vfrac d a _ t => some (opVfrac d.toNat a.toNat t.toNat)
  | .vclass d a _ t => some (opVclass d.toNat a.toNat t.toNat)
  | .vmvV d a _ t => some (opVmvV d.toNat a.toNat t.toNat)
  | .vmvX d _ _ t => some (opVmvX d.toNat t.toNat)
  | .vid d _ t => some (opVid d.toNat t.toNat)
  | .viota d a _ t => some (opViota d.toNat a.toNat t.toNat)
  | .vredo a h _ t => some (opVredo a.toNat h.toNat t.toNat)
  | .vredt a h _ t => some (opVredt a.toNat h.toNat t.toNat)
  | .vredmax a h _ t => some (opVredmax a.toNat h.toNat t.toNat)
  | .vredmin a h _ t => some (opVredmin a.toNat h.toNat t.toNat)
  | .vredand a h _ t => some (opVredand a.toNat h.toNat t.toNat)
  | .vredor a h _ t => some (opVredor a.toNat h.toNat t.toNat)
  | .vredxor a h _ t => some (opVredxor a.toNat h.toNat t.toNat)
  | .vscan d a h _ t => some (opVscan d.toNat a.toNat h.toNat t.toNat)
  | .vscanx d a h _ t => some (opVscanx d.toNat a.toNat h.toNat t.toNat)
  | .vhrd _ h t => some (opVhrd h.toNat t.toNat)
  | .vhclr h => some (opVhclr h.toNat)
  | .vcompress d a _ t => some (opVcompress d.toNat a.toNat t.toNat)
  | .vexpand d a _ t => some (opVexpand d.toNat a.toNat t.toNat)
  | .vslideup d a _ _ t => some (opVslideup d.toNat a.toNat t.toNat)
  | .vslidedn d a _ _ t => some (opVslidedn d.toNat a.toNat t.toNat)
  | .vperm d a b _ t => some (opVperm d.toNat a.toNat b.toNat t.toNat)
  | .vreshape d a _ _ t => some (opVreshape d.toNat a.toNat t.toNat)
  | .vmovx _ a _ t => some (opVmovx a.toNat t.toNat)
  | .vins d _ _ _ t => some (opVins d.toNat t.toNat)
  | .vldUnit d _ _ u f b s => some (opVld d.toNat .unit (2 ^ s.toNat) (u == 1) (f == 1) (b == 1))
  | .vldConvert d _ t _ _ f b _ => some (opVldConvert d.toNat t.toNat (f == 1) (b == 1))
  | .vldStrided d _ _ _ u f b s => some (opVld d.toNat .strided (2 ^ s.toNat) (u == 1) (f == 1) (b == 1))
  | .vldIndexed d _ c _ u f b s => some (opVld d.toNat (.indexed c.toNat) (2 ^ s.toNat) (u == 1) (f == 1) (b == 1))
  | .vldz d _ f b s => some (opVldz d.toNat (2 ^ s.toNat) (f == 1) (b == 1))
  | .vlds d k => some (opVlds d.toNat (k.toNat % 16))
  | .vstUnit s _ _ u b z => some (opVst s.toNat .unit (2 ^ z.toNat) (u == 1) (b == 1))
  | .vstConvert s _ t _ _ b _ => some (opVstConvert s.toNat t.toNat (b == 1))
  | .vstStrided s _ _ _ u b z => some (opVst s.toNat .strided (2 ^ z.toNat) (u == 1) (b == 1))
  | .vstIndexed s _ c _ u b z => some (opVst s.toNat (.indexed c.toNat) (2 ^ z.toNat) (u == 1) (b == 1))
  | .vstz s _ b z => some (opVstz s.toNat (2 ^ z.toNat) (b == 1))
  | .vcpst s _ w _ b => some (opVcpst s.toNat (2 ^ w.toNat) (b == 1))
  | .vamoAdd s _ c _ o u => some (opVamo 0 s.toNat (vamoMode o c) (u == 1) (2 ^ (e.lw.getD 0)))
  | .vamoMax s _ c _ o u => some (opVamo 5 s.toNat (vamoMode o c) (u == 1) (2 ^ (e.lw.getD 0)))
  | .vamoMin s _ c _ o u => some (opVamo 4 s.toNat (vamoMode o c) (u == 1) (2 ^ (e.lw.getD 0)))
  | .msetm _ _ => some opMsetm
  | .mzero k => some (opMzero k.toNat)
  | .opacc k a b _ t => some (opOpacc k.toNat a.toNat b.toNat t.toNat)
  | .opsub k a b _ t => some (opOpsub k.toNat a.toNat b.toNat t.toNat)
  | .mextr k d _ _ t z => some (opMextr k.toNat d.toNat t.toNat (z == 1))
  | .mextc k d _ _ t z => some (opMextc k.toNat d.toNat t.toNat (z == 1))
  | .mputr k s _ _ t => some (opMputr k.toNat s.toNat t.toNat)
  | .tap s _ _ t => some (opTap s.toNat t.toNat)
  | .tapend _ => some opTapend
  | .tapsteer d _ _ t => some (opTapsteer d.toNat t.toNat)
  | .urd _ _ t => some (opUrd t.toNat)
  | .vurd d _ t => some (opVurd d.toNat t.toNat)
  | .vshort _ s _ _ t => some (opVshort s.toNat t.toNat)
  | .vaccept d _ _ => some (opVaccept d.toNat)
  | .scommit _ => some opScommit
  | .lkx _ _ v t => some (opLkx v.toNat t.toNat)
  | _ => none

/-- Carries the vector queue on, oldest entry first, until it is empty; an entry that waits makes the strand wait. -/
def settleVq : M Unit := runEntries vopOf releaseClaim 64

/-- Carries the vector queue on as far as it goes. -/
def settleVqSoft : M Unit := softly settleVq

/-- What follows the commit of an entry: it is carried out, unless work is left to its events. -/
def kick : M Unit := do
  if (← get).defer then pure () else settleVqSoft

/-- The queued entries that `p` names are performed: the queue is carried on until none is left. -/
def settleEntries (p : VEntry → Bool) : M Unit := do
  if (← getSt).vq.any (fun e => p e && !e.finished) then
    settleVqSoft
    if (← getSt).vq.any (fun e => p e && !e.finished) then wait

/-- The vector memory instructions that are queued are performed, and what queued entries consume is consumed (R101, R103, R108). -/
def settleMem : M Unit := settleEntries (fun e => e.isMem || e.acq)

/-- A tap or sampler entry (majors 0x36 and 0x37), whose accesses a fence waits for (R103) and a release does not (R101). -/
def VEntry.isTap (e : VEntry) : Bool := e.word.toNat / 2 ^ 26 == 0x36 || e.word.toNat / 2 ^ 26 == 0x37

/-- Every earlier access of the current strand on the scalar and vector paths has been issued and, inside the package, performed (R101,
R103). -/
def settlePaths : M Unit := do
  settleStores
  settleMem
  settleScalar

/-- What the bank queue writes before the current instruction has been written (R104): every entry that is older, but for an `LKX`, has finished
at its banks. -/
def settleBankWrites : M Unit := do
  modify (fun s => settleBank s.cur s)
  if (← getSt).bankQ.any (fun e => !e.complete && !e.isLkx) then
    settleVqSoft
    modify (fun s => settleBank s.cur s)
    if (← getSt).bankQ.any (fun e => !e.complete && !e.isLkx) then wait

/-- Every older entry of the bank queue has completed (R165). -/
def settleBankAll : M Unit := do
  modify (fun s => settleBank s.cur s)
  if (← getSt).bankQ.any (fun e => !e.complete) then
    settleVqSoft
    modify (fun s => settleBank s.cur s)
    if (← getSt).bankQ.any (fun e => !e.complete) then wait

/-- The meaning of an instruction of the vector queue: its commit, and what then runs. -/
def vecRun (m : M Unit) (σ : State) : Host.Outcome State Fault Refusal :=
  finishAccess (do
    m
    kick) σ

/-- The operand of a commit that captures `x[r]`. -/
def capX (r : BitVec 5) (st : Strand) : Dword := st.rx r

end Sys2Proof.Machine
end

