-- ==== Sys2Proof/Machine/BankRun.lean ====
section
/-! DEFINITION. The lookup and near-bank instructions: majors 0x30 to 0x32 (R323 to R345). -/

namespace Sys2Proof.Machine

/-- The value of a scalar register as a number. -/
def Strand.nx (st : Strand) (r : BitVec 5) : Nat := (st.rx r).toNat

/-- The meaning of an instruction that enters the bank queue. -/
def bankRunInstr (i : Instr) (info : BankInfo) (s : State) : Host.Outcome State Fault Refusal :=
  finishAccess (commitB (wordOf i) info) s

/-- `BREG` (R328). -/
def execBreg (g : BitVec 3) (a b : BitVec 5) (s : State) : Host.Outcome State Fault Refusal :=
  finishAccess (commitBreg (wordOf (.breg g a b)) g.toNat a.toNat b.toNat) s

/-- The first address of a list that is no multiple of its unit. -/
def firstMisaligned (l : List (Nat × Nat)) : Option Nat := (l.find? (fun p => p.1 % p.2 != 0)).map (fun p => p.1)

/-- What the commit of `CBLD` must know. -/
def infoCbld (g : BitVec 3) (a : BitVec 5) : BankInfo :=
  { regs := [a.toNat], region := some g.toNat, xa := a.toNat
    align := fun st => firstMisaligned [(st.nx a, 64)]
    opnds := fun _ st => [{ parts := [(st.nx a, 64)] }] }

/-- `CBLD` (R330). -/
def execCbld (g : BitVec 3) (a c : BitVec 5) (s : State) : Host.Outcome State Fault Refusal :=
  bankRunInstr (.cbld g a c) (infoCbld g a) s

/-- The limits of a build word (R332, R324). -/
def buildLimits (g : Geo) (w : Nat) : Option Nat :=
  if w / 2 ^ 19 ≠ 0 ∨ g.kg ≤ w % 2 ^ 16 then some 2
  else if 8 < fld w 16 3 + g.bm then some 3
  else none

/-- What the commit of `TBLD` must know. -/
def infoTbld (g : BitVec 3) (a b : BitVec 5) (t : BitVec 4) : BankInfo :=
  { regs := [a.toNat, b.toNat], region := some g.toNat, xa := a.toNat, xb := b.toNat
    limits := fun q st => buildLimits q (st.nx b)
    align := fun st => firstMisaligned [(st.nx a, typeW t.toNat)]
    opnds := fun q st => [{ parts := actParts q t.toNat (st.nx a) (st.nx b % 2 ^ 16) 1 }] }

/-- `TBLD` (R332). -/
def execTbld (g : BitVec 3) (a b c : BitVec 5) (t : BitVec 4) (s : State) : Host.Outcome State Fault Refusal :=
  bankRunInstr (.tbld g a b c t) (infoTbld g a b t) s

/-- What the commit of `LKZ` must know. -/
def infoLkz (g : BitVec 3) : BankInfo :=
  { regs := [], region := some g.toNat }

/-- `LKZ` (R333). -/
def execLkz (g : BitVec 3) (s : State) : Host.Outcome State Fault Refusal :=
  bankRunInstr (.lkz g) (infoLkz g) s

/-- A pass word breaks its limits (R334). -/
def passBad (g : Geo) (w : Nat) : Bool :=
  fld w 10 6 != 0 || w / 2 ^ 48 != 0 || decide (g.j ≤ fld w 0 8) || decide (1024 / g.cw ≤ fld w 8 2)
    || decide (g.kg ≤ fld w 16 16 + fld w 32 16)

/-- What the commit of `LKA` must know. -/
def infoLka (g : BitVec 3) (b j : BitVec 5) : BankInfo :=
  { regs := [b.toNat], region := some g.toNat, xb := b.toNat
    limits := fun q st =>
      if passBad q (st.nx b) || fld (st.nx b) 32 16 != 0 then some 2
      else if 8 < j.toNat + q.bm then some 3
      else none
    rows := fun q st => passRows q (st.nx b) }

/-- `LKA` (R335). -/
def execLka (g : BitVec 3) (b j : BitVec 5) (s : State) : Host.Outcome State Fault Refusal :=
  bankRunInstr (.lka g b j) (infoLka g b j) s

/-- What the commit of `LKAB` must know. -/
def infoLkab (g : BitVec 3) (a b : BitVec 5) (t : BitVec 4) : BankInfo :=
  { regs := [a.toNat, b.toNat], region := some g.toNat, xa := a.toNat, xb := b.toNat
    limits := fun q st => if passBad q (st.nx b) then some 2 else none
    align := fun st => firstMisaligned [(st.nx a, typeW t.toNat)]
    opnds := fun q st =>
      [{ parts := actParts q t.toNat (st.nx a) (fld (st.nx b) 16 16) (fld (st.nx b) 32 16 + 1) }]
    rows := fun q st => passRows q (st.nx b) }

/-- `LKAB` (R335). -/
def execLkab (g : BitVec 3) (a b c : BitVec 5) (t : BitVec 4) (s : State) : Host.Outcome State Fault Refusal :=
  bankRunInstr (.lkab g a b c t) (infoLkab g a b t) s

/-- `LKX` at commit (R324, R337): an entry of the bank queue, and its marker in the vector queue. -/
def commitLkx (word : Nat) (g : BitVec 3) (a : BitVec 5) (t : Nat) : M Unit := do
  start word { reads := [(.x, a.toNat)] }
  bankRoom
  let s ← get
  let st := s.st
  if st.lanes = 0 then trap cVGRANT word
  match laneTrouble [(st.vstart * typeW t, min st.vl (st.lanes * 256 / typeW t) * typeW t)]
      (s.granulesOf (clusterOf s.cur) st.owner) 0 with
  | some (some p) => trap cVOWN p
  | some none => wait
  | none => pure ()
  if !st.canCommit false then wait
  let b ← bankEntryOf word { regs := [a.toNat], region := some g.toNat, xa := a.toNat }
  let s ← get
  let e := { newVEntry s word (s.st.rx a) 0 false with marker := some b.tag }
  let st := { s.st with bankQ := s.st.bankQ ++ [b], bankTag := (s.st.bankTag + 1) % 65536 }
  set (wakeStacks b (s.setSt (pushVEntry (s.setSt st) e {})))

/-- `LKX` (R337). -/
def execLkx (g : BitVec 3) (a v : BitVec 5) (t : BitVec 4) (s : State) : Host.Outcome State Fault Refusal :=
  vecRun (commitLkx (wordOf (.lkx g a v t)) g a t.toNat) s

/-- What the commit of `BDOT` must know. -/
def infoBdot (a b c : BitVec 5) : BankInfo :=
  { regs := [a.toNat, b.toNat, c.toNat], xa := a.toNat, xb := b.toNat, xc := c.toNat, coloc := 1, counted := true
    align := fun st => firstMisaligned [(st.nx a, 2), (st.nx b, 2), (st.nx c, 4)]
    opnds := fun _ st =>
      [{ parts := bankVector (st.nx a) st.nbrs st.nblen }, { parts := bankVector (st.nx b) st.nbrs st.nblen },
       { parts := [(st.nx c, 4)], rd := false, wr := true }] }

/-- `BDOT` (R340). -/
def execBdot (a b c : BitVec 5) (s : State) : Host.Outcome State Fault Refusal :=
  bankRunInstr (.bdot a b c) (infoBdot a b c) s

/-- What the commit of `BAXPY` must know. -/
def infoBaxpy (a b c : BitVec 5) : BankInfo :=
  { regs := [a.toNat, b.toNat, c.toNat], xa := a.toNat, xb := b.toNat, xc := c.toNat, coloc := 1, counted := true
    align := fun st => firstMisaligned [(st.nx a, 2), (st.nx c, 2)]
    opnds := fun _ st =>
      [{ parts := bankVector (st.nx a) st.nbrs st.nblen },
       { parts := bankVector (st.nx c) st.nbrs st.nblen, wr := true }] }

/-- `BAXPY` (R341). -/
def execBaxpy (a b c : BitVec 5) (s : State) : Host.Outcome State Fault Refusal :=
  bankRunInstr (.baxpy a b c) (infoBaxpy a b c) s

/-- What the commit of `BCOPY` must know. -/
def infoBcopy (a c : BitVec 5) : BankInfo :=
  { regs := [a.toNat, c.toNat], xa := a.toNat, xc := c.toNat, coloc := 2, counted := true
    align := fun st => firstMisaligned [(st.nx a, 1024), (st.nx c, 1024)]
    opnds := fun _ st =>
      [{ parts := rowOperand (st.nx a) st.nbrs st.nblen },
       { parts := rowOperand (st.nx c) st.nbrs st.nblen, rd := false, wr := true }] }

/-- `BCOPY` (R342). -/
def execBcopy (a c : BitVec 5) (s : State) : Host.Outcome State Fault Refusal :=
  bankRunInstr (.bcopy a c) (infoBcopy a c) s

/-- What the commit of `BBIT` must know. -/
def infoBbit (a b c : BitVec 5) (o : BitVec 4) : BankInfo :=
  let two := o.toNat != 4
  { regs := [a.toNat] ++ (if two then [b.toNat] else []) ++ [c.toNat]
    xa := a.toNat, xb := b.toNat, xc := c.toNat, coloc := 2, counted := true
    align := fun st => firstMisaligned ([(st.nx a, 1024)] ++ (if two then [(st.nx b, 1024)] else []) ++ [(st.nx c, 1024)])
    opnds := fun _ st =>
      [{ parts := rowOperand (st.nx a) st.nbrs st.nblen }]
        ++ (if two then [{ parts := rowOperand (st.nx b) st.nbrs st.nblen }] else [])
        ++ [{ parts := rowOperand (st.nx c) st.nbrs st.nblen, rd := false, wr := true }] }

/-- `BBIT` (R342): `.not` has one source. -/
def execBbit (a b c : BitVec 5) (o : BitVec 4) (s : State) : Host.Outcome State Fault Refusal :=
  bankRunInstr (.bbit a b c o) (infoBbit a b c o) s

/-- What the commit of `BFILL` must know. -/
def infoBfill (b c : BitVec 5) : BankInfo :=
  { regs := [b.toNat, c.toNat], xb := b.toNat, xc := c.toNat, coloc := 1, counted := true
    align := fun st => firstMisaligned [(st.nx c, 2)]
    opnds := fun _ st => [{ parts := bankVector (st.nx c) st.nbrs st.nblen, rd := false, wr := true }] }

/-- `BFILL` (R342). -/
def execBfill (b c : BitVec 5) (s : State) : Host.Outcome State Fault Refusal :=
  bankRunInstr (.bfill b c) (infoBfill b c) s

/-- The bank-queue entry of a `BSYNC` (R345): it is complete when it is the oldest. -/
def bsyncEntry (s : State) : BankEntry :=
  { tag := s.st.bankTag, pc := s.st.pc.toNat, word := BitVec.ofNat 32 (wordOf .bsync), op1 := 0, op2 := 0, op3 := 0, gb := 0, gs := 0,
    nblen := 0, nbrs := 0, rm := 0, pa0 := 0, ops := [], early := true, complete := true, seq := s.seqNow }

/-- A `BSYNC` takes its entry, once (R18, R345). -/
def commitBsync : M Unit := do
  if (← getSt).bsync != some (← getSt).pc then
    bankRoom
    let e := bsyncEntry (← get)
    modSt (fun st => { st with bankQ := st.bankQ ++ [e], bankTag := (st.bankTag + 1) % 65536, bsync := some st.pc })

/-- `BSYNC` (R345): its entry, its wait for every older one, and the delivery of the oldest pending record. -/
def execBsync (s : State) : Host.Outcome State Fault Refusal :=
  finishAccess (do
    start (wordOf .bsync) {}
    commitBsync
    settlePaths
    modify (fun s => settleBank s.cur s)
    if !(← getSt).bankQ.isEmpty then wait
    modSt (fun st => { st with bsync := none })
    match (← getSt).bankErrs with
    | [] => advance
    | r :: l =>
      modSt (fun st => { st with bankErrs := l })
      throw (.trap (recordTrap r))) s

end Sys2Proof.Machine
end

