-- ==== Sys2Proof/Machine/CopyRun.lean ====
section
/-! DEFINITION. The copy instructions (R366 to R371) and the cache instructions (R395 to R398): majors 0x34 and 0x35. -/

namespace Sys2Proof.Machine

/-- The start of a copy instruction: its commit is a release (R105), which the engine's accesses await. -/
def startCopy (i : Instr) (info : Info) : M Unit := start (wordOf i) info

/-- A queued entry names a stream register of the list. -/
def namesStream (regs : List Nat) (e : VEntry) : Bool :=
  match decode e.word with
  | .ok (.vlds _ k) => regs.contains (k.toNat % 16)
  | _ => false

/-- Waits while an older entry of the vector queue, of those that `p` says, names one of the streams: for its claim (R362), or until it has
retired (R370). -/
def streamWait (regs : List Nat) (p : VEntry → Bool) : M Unit := do
  let blocked := fun (st : Strand) => st.vq.any (fun e => namesStream regs e && p e)
  if blocked (← getSt) then
    settleVqSoft
    if blocked (← getSt) then wait

/-- The stream registers of the chain of stream `key`. -/
def chainRegs (s : State) (key : Nat) : List Nat :=
  (chainAll s key).filterMap (fun k => (Tab.get s.slots k).owner.map (fun o => o.2))

/-- `CPDECL` (R368). -/
def execCpdecl (a : BitVec 5) (k : BitVec 4) (s : State) : Host.Outcome State Fault Refusal :=
  finishAccess (do
    startCopy (.cpdecl a k) { reads := [(.x, a.toNat)] }
    settlePaths
    let t ← get
    if openBefore t t.st t.seqNow then wait
    declare k.toNat ((← getSt).rx a).toNat
    advance) s

/-- `CPLINK` (R359, R368): `j` is to feed `k`. -/
def execCplink (j k : BitVec 4) (s : State) : Host.Outcome State Fault Refusal :=
  finishAccess (do
    startCopy (.cplink j k) {}
    let (kk, _) ← needStream k.toNat 0 false
    match ← streamOf j.toNat with
    | none => streamTrap k.toNat 8
    | some (jk, _) =>
      if linkRefused (← get) jk kk then streamTrap k.toNat 8
      link jk kk
      advance) s

/-- `CPSTORE` (R363, R368). -/
def execCpstore (d a b : BitVec 5) (k : BitVec 4) (s : State) : Host.Outcome State Fault Refusal :=
  finishAccess (do
    startCopy (.cpstore d a b k) (infoDAB d a b)
    let (key, p) ← needStream k.toNat 2 true
    let t ← get
    let st := t.st
    let n := (st.rx b).toNat
    let va := (st.rx a).toNat
    if p.len < p.pos + n then streamTrap k.toNat 9 n
    if p.xf = 0 ∧ va % p.w ≠ 0 then trap cALIGN va
    modSlot key (fun q => { q with
      tickets := q.tickets + 1, pos := q.pos + n
      ops := q.ops ++ [{ ticket := q.tickets, src := va, n := n, seq := t.seqNow, released := false, level := 0, mark := (q.pos + n) * q.w }] })
    modSt (fun st => st.result d.toNat (BitVec.ofNat 64 p.tickets))
    runOpsSoon key) s

/-- `CPWAIT.r` (R369). -/
def execCpwaitR (a : BitVec 5) (k : BitVec 4) (s : State) : Host.Outcome State Fault Refusal :=
  finishAccess (do
    startCopy (.cpwaitR a k) { reads := [(.x, a.toNat)] }
    let (key, _) ← needStream k.toNat 2 true
    copyWait key k.toNat ((← getSt).rx a).toNat false
    advance) s

/-- `CPWAIT.v` (R369): what is performed in this model is visible at every scope of the package at once. -/
def execCpwaitV (a : BitVec 5) (sc : BitVec 3) (k : BitVec 4) (s : State) : Host.Outcome State Fault Refusal :=
  finishAccess (do
    startCopy (.cpwaitV a sc k) { reads := [(.x, a.toNat)] }
    let (key, _) ← needStream k.toNat 2 true
    copyWait key k.toNat ((← getSt).rx a).toNat true
    advance) s

/-- `CPCANCEL` (R370). -/
def execCpcancel (k : BitVec 4) (s : State) : Host.Outcome State Fault Refusal :=
  finishAccess (do
    startCopy (.cpcancel k) {}
    let (key, _) ← needStream k.toNat 0 false
    streamWait (chainRegs (← get) key) (fun _ => true)
    cancelChain key
    advance) s

/-- `SRD` (R371). -/
def execSrd (d : BitVec 5) (k : BitVec 4) (s : State) : Host.Outcome State Fault Refusal :=
  finishAccess (do
    startCopy (.srd d k) { dest := some (.x, d.toNat) }
    streamWait [k.toNat] (fun e => e.claim.isNone && !e.finished)
    let (key, p) ← needStream k.toNat 1 true
    if p.exhausted then streamTrap k.toNat 4
    needElement key k.toNat none
    let p ← getSlot key
    let v := p.elem p.claimed
    modSlot key (fun q => { q with claimed := q.claimed + 1 })
    releaseElems key p.claimed 1
    modSt (fun st => st.result d.toNat (if isSigned p.etype then sext64 (typeBits p.etype) v else BitVec.ofNat 64 v))) s

/-- The number that `SAVAIL` returns (R371). -/
def availWord (p : Slot) : Nat :=
  (if p.write then ((p.ops.filter (fun o => !o.released)).map (fun o => o.n)).foldl (· + ·) 0 else p.avail) % 2 ^ 48
    + (if p.exhausted then 2 ^ 62 else 0) + (if p.faulted then 2 ^ 63 else 0)

/-- `SAVAIL` (R371). -/
def execSavail (d : BitVec 5) (k : BitVec 4) (s : State) : Host.Outcome State Fault Refusal :=
  finishAccess (do
    startCopy (.savail d k) { dest := some (.x, d.toNat) }
    streamWait [k.toNat] (fun e => e.claim.isNone && !e.finished)
    let (_, p) ← needStream k.toNat 0 false
    modSt (fun st => st.result d.toNat (BitVec.ofNat 64 (availWord p)))) s

/-! ### The cache instructions -/

/-- Acts on `n` lines from address `va` on (R396). -/
def cacheLines (a : Acc) (act : Nat → Nat → State → State) : Nat → Nat → M Unit
  | 0, _ => pure ()
  | n + 1, va => do
    let x ← xlate1 a (va % 2 ^ 64)
    match x.place with
    | .remote _ | .host _ => trap cPROT (va % 2 ^ 64) 4
    | .home => modify (act (x.pa / 64) a.dom)
    | _ => trap cPROT (va % 2 ^ 64) 3
    cacheLines a act n (va + 64)

/-- A cache instruction (R395 to R398). -/
def cacheInstr (i : Instr) (a b : BitVec 5) (row : Acc) (act : Nat → Nat → State → State) : M Unit := do
  start (wordOf i) { reads := [(.x, a.toNat), (.x, b.toNat)] }
  let st ← getSt
  let va := (st.rx a).toNat
  let n := (st.rx b).toNat
  if n ≠ 0 then
    settlePaths
    cacheLines (row.forStrand (← get)) act ((va + n - 1) / 64 - va / 64 + 1) (va / 64 * 64)
  advance

/-- `CFLUSH` (R397). -/
def execCflush (a b : BitVec 5) (i : BitVec 1) (s : State) : Host.Outcome State Fault Refusal :=
  finishAccess (cacheInstr (.cflush a b i) a b Acc.load
    (fun line _ s => if i = 1 then evictLine s line else flushLine s line)) s

/-- `CINVAL` (R397). -/
def execCinval (a b : BitVec 5) (s : State) : Host.Outcome State Fault Refusal :=
  finishAccess (cacheInstr (.cinval a b) a b Acc.store (fun line _ s => invalLine s line)) s

/-- `CZERO` (R397). -/
def execCzero (a b : BitVec 5) (s : State) : Host.Outcome State Fault Refusal :=
  finishAccess (cacheInstr (.czero a b) a b Acc.store (fun line dom s => zeroLine s line dom)) s

/-- `CSEAL` (R397). -/
def execCseal (a b : BitVec 5) (s : State) : Host.Outcome State Fault Refusal :=
  finishAccess (cacheInstr (.cseal a b) a b Acc.load (fun line _ s => sealCounted s line)) s

end Sys2Proof.Machine
end

