-- ==== Sys2Proof/Machine/Sm2.lean ====
section
/-! DEFINITION. The SM2 signature (R69), as its standard defines it over the curve that the standard recommends: a point is given
by Jacobian coordinates, and all arithmetic is on natural numbers (log 15). -/

namespace Sys2Proof.Machine

/-- The field, the curve's second coefficient, the order of the base point, and the base point. -/
def sm2P : Nat := 0xFFFFFFFEFFFFFFFFFFFFFFFFFFFFFFFFFFFFFFFF00000000FFFFFFFFFFFFFFFF
def sm2B : Nat := 0x28E9FA9E9D9F5E344D5A9E4BCF6509A7F39789F515AB8F92DDBCBD414D940E93
def sm2N : Nat := 0xFFFFFFFEFFFFFFFFFFFFFFFFFFFFFFFF7203DF6B21C6052B53BBF40939D54123
def sm2Gx : Nat := 0x32C4AE2C1F1981195F9904466A39C9948FE30BBFF2660BE1715A4589334C74C7
def sm2Gy : Nat := 0xBC3736A2F4F6779C59BDCEE36B692153D0A9877CC62A474002DF32E52139F0A0

/-- Subtraction in the field. -/
def fsub (a b : Nat) : Nat := (a + sm2P - b % sm2P) % sm2P
def fmul (a b : Nat) : Nat := a * b % sm2P

/-- A point (X, Y, Z) stands for (X/Z², Y/Z³); Z = 0 is the point at infinity. -/
structure JPoint where
  x : Nat
  y : Nat
  z : Nat
deriving DecidableEq, Repr

/-- Twice a point; the curve's first coefficient is −3. -/
def jDouble (p : JPoint) : JPoint :=
  let yy := fmul p.y p.y
  let s := fmul 4 (fmul p.x yy)
  let zz := fmul p.z p.z
  let m := fmul 3 (fmul (fsub p.x zz) ((p.x + zz) % sm2P))
  let x := fsub (fmul m m) (2 * s)
  { x := x, y := fsub (fmul m (fsub s x)) (fmul 8 (fmul yy yy)), z := fmul 2 (fmul p.y p.z) }

/-- The sum of two points. -/
def jAdd (p q : JPoint) : JPoint :=
  if p.z = 0 then q
  else if q.z = 0 then p
  else
    let z1 := fmul p.z p.z
    let z2 := fmul q.z q.z
    let u1 := fmul p.x z2
    let u2 := fmul q.x z1
    let s1 := fmul p.y (fmul q.z z2)
    let s2 := fmul q.y (fmul p.z z1)
    let h := fsub u2 u1
    let r := fsub s2 s1
    if h = 0 then
      (if r = 0 then jDouble p else { x := 1, y := 1, z := 0 })
    else
      let hh := fmul h h
      let hhh := fmul h hh
      let v := fmul u1 hh
      let x := fsub (fsub (fmul r r) hhh) (2 * v)
      { x := x, y := fsub (fmul r (fsub v x)) (fmul s1 hhh), z := fmul h (fmul p.z q.z) }

/-- `k` times a point, over the low `n` bits of `k`. -/
def jMul (p : JPoint) (k : Nat) : Nat → JPoint
  | 0 => { x := 1, y := 1, z := 0 }
  | n + 1 =>
    let q := jDouble (jMul p (k / 2) n)
    if k % 2 = 1 then jAdd q p else q

/-- `a` to the power `e` in the field, over the low `n` bits of `e`. -/
def fpow (a e : Nat) : Nat → Nat
  | 0 => 1
  | n + 1 =>
    let h := fpow a (e / 2) n
    let q := fmul h h
    if e % 2 = 1 then fmul q a else q

/-- The coordinates of a point. -/
def JPoint.affineX (p : JPoint) : Nat :=
  let i := fpow p.z (sm2P - 2) 256
  fmul p.x (fmul i i)
def JPoint.affineY (p : JPoint) : Nat :=
  let i := fpow p.z (sm2P - 2) 256
  fmul p.y (fmul i (fmul i i))

/-- `a` to the power `e` modulo the order of the base point, over the low `n` bits of `e`. -/
def npow (a e : Nat) : Nat → Nat
  | 0 => 1
  | n + 1 =>
    let h := npow a (e / 2) n
    let q := h * h % sm2N
    if e % 2 = 1 then q * a % sm2N else q

/-- A number as 32 bytes, most significant first. -/
def be32 (v : Nat) : List Byte := (bytesLE 32 v).reverse

/-- The digest that binds a signer's identifier, the curve and the signer's key. -/
def sm2Za (x y : Nat) : BitVec 256 :=
  sm3 ([0x00, 0x80] ++ ([0x31, 0x32, 0x33, 0x34, 0x35, 0x36, 0x37, 0x38, 0x31, 0x32, 0x33, 0x34, 0x35, 0x36, 0x37, 0x38] : List Byte)
    ++ be32 (sm2P - 3) ++ be32 sm2B ++ be32 sm2Gx ++ be32 sm2Gy ++ be32 x ++ be32 y)

/-- What a signature over the 32-byte message `digest` under the key (x, y) signs. -/
def sm2Digest (x y digest : Nat) : Nat := (sm3 (be32 (sm2Za x y).toNat ++ be32 digest)).toNat

/-- The signature (r, s) over the 32-byte message `digest` by the private number `d`, made with the number `k`. -/
def sm2Sign (d k digest : Nat) : Nat × Nat :=
  let g : JPoint := { x := sm2Gx, y := sm2Gy, z := 1 }
  let q := jMul g d 256
  let r := (sm2Digest q.affineX q.affineY digest + (jMul g k 256).affineX) % sm2N
  (r, npow (1 + d) (sm2N - 2) 256 * (k + (sm2N - r * d % sm2N)) % sm2N)

/-- The signature (r, s) over the 32-byte message `digest` verifies under the key (x, y). -/
def sm2Verify (x y digest r s : Nat) : Bool :=
  let onCurve := decide (x < sm2P) && decide (y < sm2P) && fmul y y == (fmul x (fmul x x) + fsub sm2B (3 * x)) % sm2P
  let e := sm2Digest x y digest
  let t := (r + s) % sm2N
  let p := jAdd (jMul { x := sm2Gx, y := sm2Gy, z := 1 } s 256) (jMul { x := x, y := y, z := 1 } t 256)
  onCurve && decide (1 ≤ r) && decide (r < sm2N) && decide (1 ≤ s) && decide (s < sm2N) && t != 0 && p.z != 0
    && (e + p.affineX) % sm2N == r

end Sys2Proof.Machine
end

