-- ==== Sys2Proof/Machine/Image.lean ====
section
/-! DEFINITION. Kernel images, probe images and tap plans as the Ford reads and checks them (R66 to R70, R119, R403 to R406). -/

namespace Sys2Proof.Machine

/-- The accessor of the Ford in an address space (R118): user level, and no cluster's local store (log 16). -/
def fordAcc (a : Acc) (asid : Nat) : Acc :=
  { a with asid := asid, pl := 0, cluster := 2000, lspart := 0, dom := 0, who := 12288, unit := 2000 }

/-- What the Ford reads images through: memory of the package itself (log 16). -/
def fordLoad (asid : Nat) : Acc := fordAcc { Acc.load with io := false, remWb := false, remBr := false, host := false } asid
def fordStore (asid : Nat) : Acc := fordAcc Acc.store asid

/-- Runs an access of the Ford; a translation fault or an uncorrectable word answers none. -/
def orNone {α : Type} (m : M (Except (AccErr × Nat) α)) : M (Option α) :=
  tryCatch (do
      match ← m with
      | .ok v => pure (some v)
      | .error _ => pure none)
    (fun x => match x with
      | .trap _ => pure none
      | x => throw x)

/-- Reads `n` bytes in pieces of 4 KiB; none when a byte cannot be read. -/
def fordBytes (a : Acc) (va : Nat) : Nat → Nat → M (Option (List Byte))
  | 0, _ => pure (some [])
  | fuel + 1, n => do
    if n = 0 then pure (some [])
    else
      let k := min n 4096
      match ← orNone (readRange a va k) with
      | none => pure none
      | some v =>
        match ← fordBytes a (va + k) fuel (n - k) with
        | none => pure none
        | some l => pure (some (bytesLE k v ++ l))

/-- A field of an image's bytes held as one number: `n` bytes at offset `o`. -/
def imgFld (h o n : Nat) : Nat := fld h (8 * o) (8 * n)

/-- A big-endian byte string of an image. -/
def imgBE (h o n : Nat) : Nat := ofBytesBE (bytesLE n (imgFld h o n))

/-- The offset of the first rule that is broken, the lowest one (R70). -/
def lowestBad (l : List (Nat × Bool)) : Option Nat :=
  l.foldl (fun m c => if c.2 then m else match m with | none => some c.1 | some o => some (min o c.1)) none

/-! ### The layout of a kernel image (R66 to R68, R70) -/

/-- A section: where its entry stands, its type, offset and size. -/
structure Section where
  at_ : Nat
  type : Nat
  off : Nat
  size : Nat
deriving DecidableEq, Repr

def imgEntoff (h : Nat) : Nat := imgFld h 0x0C 4
def imgEntcnt (h : Nat) : Nat := imgFld h 0x10 2
def imgSeccnt (h : Nat) : Nat := imgFld h 0x16 2
def imgSecoff (h : Nat) : Nat := imgFld h 0x1C 4

/-- The section table. -/
def imgSections (h : Nat) : List Section :=
  (range' 0 (imgSeccnt h)).map (fun i =>
    let o := imgSecoff h + 16 * i
    { at_ := o, type := imgFld h o 1, off := imgFld h (o + 4) 4, size := imgFld h (o + 8) 4 })

/-- The section of a type. -/
def imgSection (h type : Nat) : Option Section := (imgSections h).find? (fun s => s.type == type)

/-- The checks of the header. Which of the entry table and the section table comes first is free, and the two do not overlap; R68 states neither
(DEDUCED, log 45). -/
def headerChecks (h : Nat) : List (Nat × Bool) :=
  let e := imgEntoff h
  let ee := e + 16 * imgEntcnt h
  let s := imgSecoff h
  let se := s + 16 * imgSeccnt h
  [(0x00, imgFld h 0 4 == 0x53594C57), (0x04, imgFld h 4 2 == 1), (0x06, imgFld h 6 2 == 0),
   (0x08, imgFld h 8 4 != 0 && imgFld h 8 4 % 65536 == 0), (0x0C, e % 16 == 0 && decide (256 ≤ e)),
   (0x10, decide (1 ≤ imgEntcnt h) && decide (imgEntcnt h ≤ 4064) && decide (ee ≤ 65536)),
   (0x12, decide (1 ≤ imgFld h 0x12 1) && decide (imgFld h 0x12 1 ≤ 16)), (0x13, decide (imgFld h 0x13 1 ≤ 64)),
   (0x14, decide (imgFld h 0x14 2 ≤ 128)), (0x16, decide (1 ≤ imgSeccnt h) && decide (imgSeccnt h ≤ 3)),
   (0x18, imgFld h 0x18 4 % 16 == 0),
   (0x1C, s % 16 == 0 && decide (256 ≤ s) && decide (se ≤ 65536) && (decide (se ≤ e) || decide (ee ≤ s))),
   (0x20, imgFld h 0x20 32 == 0), (0xB0, imgFld h 0xB0 80 == 0)]

/-- The checks of a section against those before it. A section of size 0 whose offset lies inside another counts as overlapping it; R68 does
not say (DESIGN CHOICE, log 45). -/
def sectionChecks (h : Nat) : List Section → List Section → List (Nat × Bool)
  | _, [] => []
  | before, s :: r =>
    let o := s.at_
    [(o, decide (1 ≤ s.type) && decide (s.type ≤ 3) && !before.any (fun b => b.type == s.type)), (o + 1, imgFld h (o + 1) 3 == 0),
     (o + 4, decide (65536 ≤ s.off) && s.off % 65536 == 0),
     (o + 8, decide (s.off + s.size ≤ imgFld h 8 4)
        && before.all (fun b => decide (s.off + s.size ≤ b.off) || decide (b.off + b.size ≤ s.off))),
     (o + 12, imgFld h (o + 12) 4 == 0)]
    ++ sectionChecks h (before ++ [s]) r

/-- The place of the last section's entry: where a rule over every type fails. -/
def lastSection (h : Nat) : Nat := imgSecoff h + 16 * (imgSeccnt h - 1)

/-- A range of `n` bytes at image offset `v`, named by the field at `o`, lies in the section of a type. -/
def inSection (h type o v n : Nat) : Nat × Bool :=
  match imgSection h type with
  | none => (max o (lastSection h), false)
  | some s => (max o (s.at_ + 8), decide (s.off ≤ v) && decide (v + n ≤ s.off + s.size))

/-- The checks of a `TAPOFF` at offset `o`. -/
def tapoffChecks (h o : Nat) : List (Nat × Bool) :=
  let v := imgFld h o 4
  if v = 0 then [] else [(o, v % 16 == 0), inSection h 2 o v 128]

/-- The checks of an entry of the entry table at offset `o`. -/
def entryChecks (h o : Nat) : List (Nat × Bool) :=
  [(o, imgFld h o 4 % 4 == 0), inSection h 1 o (imgFld h o 4) 1, (o + 4, decide (imgFld h (o + 4) 1 ≤ 16)),
   (o + 5, decide (imgFld h (o + 5) 1 ≤ 64) || imgFld h (o + 5) 1 == 255),
   (o + 6, decide (imgFld h (o + 6) 2 ≤ 128) || imgFld h (o + 6) 2 == 65535), (o + 12, imgFld h (o + 12) 4 == 0)]
  ++ tapoffChecks h (o + 8)

/-- The layout check of R70: the offset of the first failing field, if one fails. -/
def layoutBad (h : Nat) : Option Nat :=
  match lowestBad (headerChecks h) with
  | some o => some o
  | none => lowestBad (tapoffChecks h 0x18 ++ [(lastSection h, (imgSection h 1).isSome)] ++ sectionChecks h [] (imgSections h)
      ++ (range' 0 (imgEntcnt h)).flatMap (fun i => entryChecks h (imgEntoff h + 16 * i)))

/-! ### Verification (R69, R70, R119) -/

/-- The digest of an image's bytes, the digest and the signature taken as zero (R69). -/
def imageDigest (l : List Byte) : Nat := (sm3 (l.take 0x40 ++ List.replicate 0x60 (0 : Byte) ++ l.drop 0xA0)).toNat

/-- The physical granules of an image: its pages as they translate now. -/
def imagePages (a : Acc) (va : Nat) : Nat → M (List Nat)
  | 0 => pure []
  | n + 1 => do
    let p ← tryCatch (do let x ← xlate1 a va; pure [x.pa / 65536]) (fun x => match x with
      | .trap _ => pure []
      | x => throw x)
    let r ← imagePages a (va + 65536) n
    pure (p ++ r)

/-- The granules of a list that `seen` does not hold. -/
def newGranules (seen : List Nat) : List Nat → List Nat
  | [] => seen
  | g :: r => newGranules (if seen.contains g then seen else g :: seen) r

/-- The images of a list, the most recently reused first, that `n` places and a watch set of 4,096 granules hold, beside the granules `seen`:
the first that does not fit goes, with all that were reused less recently (R119). -/
def trimImages (n : Nat) (seen : List Nat) : List VImage → List VImage
  | [] => []
  | v :: r =>
    let w := newGranules seen v.watch
    if n = 0 ∨ 4096 < w.length then []
    else v :: trimImages (n - 1) w r

/-- Keeps a verification: the least recently reused ones make room for 64 images and 4,096 watched granules; one image that needs more granules
is not kept (R119). -/
def keepImage (v : VImage) (s : State) : State :=
  if 4096 < (newGranules [] v.watch).length then s else { s with images := trimImages 64 [] (v :: s.images) }

/-- A kept verification of the image, which becomes the most recently reused (R119). -/
def reuseImage (hdr digest : Nat) (probe : Bool) (s : State) : Option State :=
  match s.images.find? (fun v => v.hdr == hdr && v.digest == digest && v.probe == probe) with
  | none => none
  | some v => some { s with images := v :: s.images.filter (· != v) }

/-- The digest and the signature of an image of bytes `l` with header `h`, against the keys it may be signed by (R69): the `DETAIL` of the
failing check, or the key that has verified it (R70, checks 2 to 4). -/
def verifyBytes (l : List Byte) (h : Nat) (keys : List KeyEntry) : Except Nat KeyEntry :=
  let d := imgBE h 0x40 32
  if imageDigest l ≠ d then .error 0x40
  else
    let keys := keys.filter (fun k => k.id == imgBE h 0xA0 16)
    if keys.isEmpty then .error 0xA0
    else match keys.find? (fun k => sm2Verify k.x k.y d (imgBE h 0x60 32) (imgBE h 0x80 32)) with
      | none => .error 0x60
      | some k => .ok k

/-- Verifies an image of `n` bytes at `va` whose header is `h` and lies at `hdr` (R70, checks 2 to 4): the `DETAIL` of the failing
check, if one fails. `use`: bit 0 kernel images, bit 1 probe images (R479). -/
def verifyImage (a : Acc) (va n h hdr : Nat) (probe : Bool) : M (Option Nat) := do
  match ← fordBytes a va (n / 4096 + 1) n with
  | none => pure (some 0x40)
  | some l =>
    match verifyBytes l h ((← get).keys.filter (fun k => bitOf k.flags (if probe then 1 else 0))) with
    | .error o => pure (some o)
    | .ok k =>
      let w ← imagePages a va (n / 65536)
      modify (keepImage { hdr := hdr, digest := imgBE h 0x40 32, key := k, probe := probe, watch := w.eraseDups })
      pure none

/-- The physical address of the first of `n` bytes of one page, if they translate. -/
def fordPa (a : Acc) (va n : Nat) : M (Option Nat) :=
  tryCatch (do let x ← xlateIn a va n; pure (some x.pa)) (fun x => match x with
    | .trap _ => pure none
    | x => throw x)

/-- Check 4 of R118 on the image at `va` (R70, R119): the header's 65,536 bytes, or the `DETAIL` of BADIMAGE. -/
def checkImage (asid va : Nat) : M (Except Nat Nat) := do
  let a := fordLoad asid
  match ← fordPa a va 1, ← fordBytes a va 17 65536 with
  | some hdr, some l =>
    let h := ofBytesLE l
    match layoutBad h with
    | some o => pure (.error o)
    | none =>
      match reuseImage hdr (imgBE h 0x40 32) false (← get) with
      | some s =>
        set s
        pure (.ok h)
      | none =>
        match ← verifyImage a va (imgFld h 8 4) h hdr false with
        | some o => pure (.error o)
        | none => pure (.ok h)
  | _, _ => pure (.error 0x40)

/-! ### Probe images and tap plans (R403 to R406) -/

/-- The header of a probe image follows R404. -/
def probeHeaderOk (h : Nat) : Bool :=
  let n := imgFld h 8 4
  let dim := imgFld h 0x0C 4
  let np := imgFld h 0x10 2
  let ns := imgFld h 0x12 2
  let pt := imgFld h 0x14 1
  let st := imgFld h 0x15 1
  let region := fun (o len unit : Nat) => o % unit == 0 && decide (o + len ≤ n)
  imgFld h 0 4 == 0x53425250 && imgFld h 4 2 == 1 && imgFld h 6 2 == 0 && n != 0 && n % 65536 == 0
    && decide (1 ≤ dim) && decide (dim ≤ 65536) && decide (1 ≤ np) && decide (np ≤ 4096) && decide (ns ≤ 4096)
    && (pt == 8 || pt == 11) && (st == 8 || st == 9 || st == 10) && imgFld h 0x17 1 == 0
    && region (imgFld h 0x18 4) (np * dim * typeW pt) 64 && region (imgFld h 0x1C 4) (16 * np) 16
    && region (imgFld h 0x20 4) (ns * dim * typeW st) 64 && imgFld h 0x24 28 == 0 && imgFld h 0xB0 80 == 0

/-- The header of a tap plan follows R403. -/
def planHeaderOk (p : Nat) : Bool :=
  imgFld p 0 4 == 0x4E4C5054 && imgFld p 4 2 == 1 && decide (1 ≤ imgFld p 6 2) && decide (imgFld p 6 2 ≤ 255)
    && imgFld p 0x48 56 == 0

/-- Entry `e` of a tap plan follows R403, after the tap at (layer, point) `before`, and stays within the probe image (R406). -/
def planEntryOk (e : Nat) (before : Option Nat) (np ns : Nat) : Bool :=
  let lp := fld e 0 16 * 2 + fld e 16 8
  decide (fld e 16 8 ≤ 1) && decide (fld e 24 8 ≤ 8) && decide (fld e 64 8 ≤ 16) && fld e 72 24 == 0
    && fld e 119 8 != 255 && (match before with | none => true | some b => decide (b < lp))
    && decide (fld e 32 16 + fld e 24 8 ≤ np) && decide (fld e 48 16 + fld e 64 8 ≤ ns)

def planEntriesOk (p np ns : Nat) : Nat → Nat → Option Nat → Bool
  | 0, _, _ => true
  | n + 1, c, b =>
    let e := imgFld p (0x80 + 16 * c) 16
    planEntryOk e b np ns && planEntriesOk p np ns n (c + 1) (some (fld e 0 16 * 2 + fld e 16 8))

/-- Every page of an image is a PT leaf of the address space (R406). -/
def allPt (asid va : Nat) : Nat → M Bool
  | 0 => pure true
  | n + 1 => do
    let ok ← tryCatch (do
        let e ← lookupXl (fordAcc Acc.tap asid) va
        pure (e.mt == 2 && bitOf e.perm 3)) (fun x => match x with
      | .trap _ => pure false
      | x => throw x)
    if ok then allPt asid (va + 65536) n else pure false

/-- The address of entry `k` of the bind table (R405). -/
def bindAt (s : State) (k : Nat) : Nat := fld (s.pkr 0x840).toNat 16 36 * 65536 + 128 * k

/-- The bind entries that match (R405, R406): the lowest one's number and the probe image's address. A word that is read and uncorrectable is
recorded (R317). -/
def bindEntry (asid p : Nat) : Nat → Nat → M (Option (Nat × Nat))
  | 0, _ => pure none
  | n + 1, k => do
    modify (fun s => noteRead s (bindAt s k) 128)
    let s ← get
    let e := s.peekLE (bindAt s k) 128
    if bitOf (imgFld e 0x4A 1) 0 && imgFld e 0x48 2 == asid && imgFld e 0 32 == imgFld p 8 32 && imgFld e 0x20 32 == imgFld p 0x28 32 then
      pure (some (k, imgFld e 0x40 8))
    else bindEntry asid p n (k + 1)

/-- The probe image at `va` passes R406, part 4; `p` is the plan: its header when it does. -/
def checkProbe (asid va p : Nat) : M (Option Nat) := do
  let a := fordAcc Acc.tap asid
  if va % 65536 ≠ 0 then pure none
  else match ← fordPa a va 1, ← fordBytes a va 1 256 with
  | some hdr, some l =>
    let h := ofBytesLE l
    let n := imgFld h 8 4
    if !probeHeaderOk h || imgBE h 0x40 32 != imgBE p 8 32 then pure none
    else if !(← allPt asid va (n / 65536)) then pure none
    else match reuseImage hdr (imgBE h 0x40 32) true (← get) with
      | some s =>
        set s
        pure (some h)
      | none =>
        match ← verifyImage a va n h hdr true with
        | some _ => pure none
        | none => pure (some h)
  | _, _ => pure none

/-- Check 10 of R118 (R406): binds the plan at image offset `off` of the image at `img` with header `h`; none when it fails. -/
def bindPlan (asid img h off : Nat) : M (Option TapBind) := do
  let s ← get
  let a := fordLoad asid
  let va := img + off
  if !bitOf (s.pkr 0x840).toNat 0 then pure none
  else match imgSection h 2, ← fordBytes a va 1 128 with
  | some sec, some l =>
    let n := imgFld (ofBytesLE l) 6 2
    let size := 128 + 16 * n
    if !planHeaderOk (ofBytesLE l) || !(decide (sec.off ≤ off) && decide (off + size ≤ sec.off + sec.size)) then pure none
    else match ← fordBytes a va 2 size, ← fordPa a va 1, ← fordPa a ((va / 65536 + 1) * 65536) 1 with
      | some l, some pa, nx =>
        let p := ofBytesLE l
        match ← bindEntry asid p 64 0 with
        | none => pure none
        | some (k, pimg) =>
          match ← checkProbe asid pimg p with
          | none => pure none
          | some ph =>
            if !planEntriesOk p (imgFld ph 0x10 2) (imgFld ph 0x12 2) n 0 none then pure none
            else pure (some {
              word := 1 + va / 16 % 2 ^ 51 * 16 + k * 2 ^ 58, plan := pa, next := nx.getD 0, img := pimg, dim := imgFld ph 0x0C 4,
              ptype := imgFld ph 0x14 1, stype := imgFld ph 0x15 1, an := toSigned 8 (imgFld ph 0x16 1), proff := imgFld ph 0x18 4,
              thoff := imgFld ph 0x1C 4, stoff := imgFld ph 0x20 4 })
      | _, _, _ => pure none
  | _, _ => pure none

end Sys2Proof.Machine
end

