-- ==== Sys2Proof/Machine/LoadStore.lean ====
section
/-! DEFINITION. Scalar loads, stores and atomics (R154, R171 to R176), and the posted remote atomics with their fence (R459 to R461):
majors 0x0C to 0x0E and 0x38. -/

namespace Sys2Proof.Machine

/-! ### Order against the vector path (R96) -/

/-- A queued vector entry that is to be performed before a scalar access of `n` bytes at `va` (R95, R96): it covers one of the bytes, and
either of the two writes, or both read the location. -/
def coveredByQueue (s : State) (va n : Nat) : Bool :=
  let st := s.st
  (withOlder [] st.vq).any (fun i => !i.2.finished && (match opOf vopOf i.2 with
    | .error _ => false
    | .ok op => match op.touchOf vopOf i.1 i.2 st with
      | some t => t.covers s va n
      | none => false))

/-- A queued entry has still to consume elements of a stream or of an engine's result, which is an acquire (R108, R440). -/
def consumesQueue (st : Strand) : Bool := consumes st.vq

/-- A scalar access waits for the vector entries that cover it (R95, R96), and for those whose consumption it follows (R108). -/
def coverWait (va n : Nat) : M Unit := do
  let blocked := fun (s : State) => !s.st.vq.isEmpty && (coveredByQueue s va n || consumesQueue s.st)
  if blocked (← get) then
    settleVqSoft
    if blocked (← get) then wait

/-! ### Loads and stores (R154) -/

/-- The place keeps its bytes in the package, and an access there can be left to its event: a word that is uncorrectable now is read at
once, so its trap comes before anything that follows (R388). -/
def canDefer (s : State) (x : Xl) : Bool :=
  s.defer && (match x.place with
    | .home | .table => (match Tab.find s.lines (x.pa / 64) with | some ln => ln.ue == 0 | none => !s.wordBad (x.pa / 32))
    | .bank => !s.wordBad (x.pa / 32)
    | .localStore => true
    | _ => false)

/-- The order of a scalar access before it is performed at once: after every earlier access of the strand to its bytes (R92, R93, R95), and,
for a store or an atomic, after every earlier load (R99). One that leaves the package's memory (an IO, host-window or remote access)
follows every earlier scalar access, and an IO access every earlier one (R98). DESIGN CHOICE (log 55): the spec leaves the order of such an access and an earlier one to another
location open. -/
def orderAccess (x : Xl) (size : Nat) (write : Bool) : M Unit := do
  match x.place with
  | .home | .table | .bank | .localStore => settleFor x.place x.pa size write
  | _ =>
    settleScalar
    let s ← get
    if s.txns.any (fun t => t.late.isSome && t.sid == s.st.owner && t.done.isNone && t.mt == x.mt
        && (x.mt == 3 || overlaps t.pa t.size x.pa size)) then
      wait

/-- What a location held when the plain wait that stands just before the current instruction began, where the load at register `b` may be performed
before the wait's final read (R99, R182, R192; log 70). -/
def valueBehind (s : State) (x : Xl) (size b : Nat) : Option Nat :=
  match s.st.behind with
  | some h =>
    if h.next = s.st.pc ∧ h.reg ≠ b ∧ (x.place = .home ∨ x.place = .bank ∨ x.place = .localStore) then
      some (({ s with mem := h.mem, lines := h.lines } : State).peekLE x.pa size)
    else none
  | none => none

/-- `LD` (R154): size 2^s, `n` zero extension, `q` acquire. -/
def execLd (d b : BitVec 5) (s : BitVec 2) (n q : BitVec 1) (f : BitVec 11) (σ : State) : Host.Outcome State Fault Refusal :=
  finishAccess (do
    start (wordOf (.ld d b s n q f)) { reads := [(.x, b.toNat)], dest := some (.x, d.toNat) }
    let st ← getSt
    let ea := (st.rx b + f.signExtend 64).toNat
    let size := 2 ^ s.toNat
    if ea % size ≠ 0 then trap cALIGN ea
    let a := Acc.load.forStrand (← get)
    let x ← xlateIn a ea size
    coverWait ea size
    let t ← get
    if canDefer t x && q == 0 then
      let l := t.st.latch
      let e : LoadEntry :=
        { pa := x.pa, place := x.place, size := size, zext := n == 1, dst := d.toNat,
          cpy := if latchV l && latchDup l then some (latchCopy l) else none, amo := none, dom := a.dom, va := ea, seq := t.seqNow,
          pc := t.st.pc.toNat, latch := l, old := valueBehind t x size b.toNat }
      modSt (fun st => { st with loads := st.loads ++ [e] }.advance)
    else
      orderAccess x size false
      match ← readWordAt x size a.dom ea with
      | .ok v => modSt (fun st => st.result d.toNat (extendLoad (n == 1) size v))
      | .error e => scalarErr e ea) σ

/-- Transactions of the strand that are posted and not complete (R460). -/
def postedCount (s : State) : Nat := (s.txns.filter (fun t => t.posted && t.sid == s.st.owner && t.done.isNone)).length

/-- Every earlier access of the strand on every path, but those of its engines, has been performed (R101): remote and host-window
accesses too. -/
def releaseWait : M Unit := do
  settlePaths
  let s ← get
  if openBefore s s.st s.seqNow then wait

/-- The instruction at which `ERET` resumed goes on without the tag (R461). -/
def passTag : M Unit := modSt (dropTag {})

/-- A store that leaves the package is sent, and the strand goes on: it is performed when its completion arrives (R102, R454). -/
def sendStore (home : Nat) (x : Xl) (size dom va v : Nat) : M Unit := do
  let st ← getSt
  let tag ← tagFor home true
  let s ← get
  let (s, t) := sendTxn s
    { home := home, tag := tag, op := 1, pa := x.pa, mt := x.mt, size := size, data := v, be := 2 ^ size - 1, dom := dom, va := va,
      sid := x.who, posted := false, st := 0, port := 0, since := 0, waitAt := none, done := none, seq := s.seqNow,
      late := some st.pc.toNat, latch := st.latch }
  set { s with txns := s.txns ++ [t] }
  advance

/-- Stores of the strand that are issued and not performed, wherever they go: the store buffer holds 8 (R139). -/
def State.storesOpen (s : State) : Nat :=
  s.st.stores.length + (s.txns.filter (fun t => t.late.isSome && t.done.isNone && t.sid == s.st.owner)).length

/-- Room in the store buffer (R139). -/
def storeRoom : M Unit := do
  if 8 ≤ (← get).storesOpen then
    settleStores
    if 8 ≤ (← get).storesOpen then wait

/-- `ST` (R154): size 2^z, `q` release. -/
def execSt (s b : BitVec 5) (z : BitVec 2) (q : BitVec 1) (f : BitVec 11) (σ : State) : Host.Outcome State Fault Refusal :=
  finishAccess (do
    start (wordOf (.st s b z q f)) { reads := [(.x, s.toNat), (.x, b.toNat)], tagged := true }
    let st ← getSt
    let ea := (st.rx b + f.signExtend 64).toNat
    let size := 2 ^ z.toNat
    let v := (st.rx s).toNat % 2 ^ (8 * size)
    if ea % size ≠ 0 then trap cALIGN ea
    let a := Acc.store.forStrand (← get)
    let x ← xlateIn a ea size
    coverWait ea size
    let t ← get
    let there := match x.place with | .home | .bank | .localStore => true | _ => false
    if t.defer && there then
      storeRoom
      passTag
      let t ← get
      let e : StoreEntry :=
        { pa := x.pa, place := x.place, size := size, val := v, dom := a.dom, va := ea, rel := q == 1, seq := t.seqNow }
      modSt (fun st => { st with stores := st.stores ++ [e] }.advance)
    else
      if q = 1 then releaseWait
      orderAccess x size true
      match x.place, t.defer with
      | .remote h, true => do
        storeRoom
        sendStore h x size a.dom ea v
      | .host _, true => do
        storeRoom
        sendStore 127 x size a.dom ea v
      | p, _ => do
        match p with
        | .remote _ | .host _ => pure ()
        | _ => passTag
        match ← writeWordAt x size a.dom ea v true with
        | .ok _ => advance
        | .error e => scalarErr e ea) σ

/-! ### Atomics (R171 to R175) -/

/-- A scalar atomic: `op` as in R171, `z` a doubleword, `o` its order. -/
def scalarAmo (i : Instr) (op : Nat) (d a b : BitVec 5) (z : BitVec 1) (o : BitVec 2) : M Unit := do
  start (wordOf i)
    { reads := [(.x, a.toNat), (.x, b.toNat)] ++ (if op = 9 then [(.x, d.toNat)] else []), dest := some (.x, d.toNat), tagged := true }
  let st ← getSt
  let size := if z = 1 then 8 else 4
  let ea := (st.rx a).toNat
  if ea % size ≠ 0 then trap cALIGN ea
  let ac := Acc.amo.forStrand (← get)
  let x ← xlate1 ac ea
  coverWait ea size
  let opnd := (st.rx b).toNat % 2 ^ (8 * size)
  let expd := if op = 9 then (st.rx d).toNat % 2 ^ (8 * size) else 0
  let t ← get
  if canDefer t x && o == 0 then
    passTag
    let l := t.st.latch
    let e : LoadEntry :=
      { pa := x.pa, place := x.place, size := size, zext := false, dst := d.toNat,
        cpy := if latchV l && latchDup l then some (latchCopy l) else none, amo := some (op, opnd, expd), dom := ac.dom, va := ea,
        seq := t.seqNow, pc := t.st.pc.toNat, latch := l }
    modSt (fun st => { st with loads := st.loads ++ [e] }.advance)
  else
    if 2 ≤ o.toNat then releaseWait
    orderAccess x size true
    match x.place with
    | .remote _ => pure ()
    | _ => passTag
    match ← amoAt x ac.dom ea op size opnd expd true with
    | .ok old => modSt (fun st => st.result d.toNat (extendLoad false size old))
    | .error e => scalarErr e ea

/-- `AMOADD` (R173): Atomic add at the point of performance, returning the old value. -/
def execAmoadd (d a b : BitVec 5) (z : BitVec 1) (o : BitVec 2) (s : State) : Host.Outcome State Fault Refusal :=
  finishAccess (scalarAmo (.amoadd d a b z o) 0 d a b z o) s

/-- `AMOAND` (R173): Atomic AND, returning the old value. -/
def execAmoand (d a b : BitVec 5) (z : BitVec 1) (o : BitVec 2) (s : State) : Host.Outcome State Fault Refusal :=
  finishAccess (scalarAmo (.amoand d a b z o) 1 d a b z o) s

/-- `AMOOR` (R173): Atomic OR, returning the old value. -/
def execAmoor (d a b : BitVec 5) (z : BitVec 1) (o : BitVec 2) (s : State) : Host.Outcome State Fault Refusal :=
  finishAccess (scalarAmo (.amoor d a b z o) 2 d a b z o) s

/-- `AMOXOR` (R173): Atomic XOR, returning the old value. -/
def execAmoxor (d a b : BitVec 5) (z : BitVec 1) (o : BitVec 2) (s : State) : Host.Outcome State Fault Refusal :=
  finishAccess (scalarAmo (.amoxor d a b z o) 3 d a b z o) s

/-- `AMOMIN` (R173): Atomic signed minimum, returning the old value. -/
def execAmomin (d a b : BitVec 5) (z : BitVec 1) (o : BitVec 2) (s : State) : Host.Outcome State Fault Refusal :=
  finishAccess (scalarAmo (.amomin d a b z o) 4 d a b z o) s

/-- `AMOMAX` (R173): Atomic signed maximum, returning the old value. -/
def execAmomax (d a b : BitVec 5) (z : BitVec 1) (o : BitVec 2) (s : State) : Host.Outcome State Fault Refusal :=
  finishAccess (scalarAmo (.amomax d a b z o) 5 d a b z o) s

/-- `AMOMINN` (R173): Atomic unsigned minimum, returning the old value. -/
def execAmominn (d a b : BitVec 5) (z : BitVec 1) (o : BitVec 2) (s : State) : Host.Outcome State Fault Refusal :=
  finishAccess (scalarAmo (.amominn d a b z o) 6 d a b z o) s

/-- `AMOMAXN` (R173): Atomic unsigned maximum, returning the old value. -/
def execAmomaxn (d a b : BitVec 5) (z : BitVec 1) (o : BitVec 2) (s : State) : Host.Outcome State Fault Refusal :=
  finishAccess (scalarAmo (.amomaxn d a b z o) 7 d a b z o) s

/-- `AMOSWAP` (R173): Atomic swap, returning the old value. -/
def execAmoswap (d a b : BitVec 5) (z : BitVec 1) (o : BitVec 2) (s : State) : Host.Outcome State Fault Refusal :=
  finishAccess (scalarAmo (.amoswap d a b z o) 8 d a b z o) s

/-- `CAS` (R173): `d` supplies the expected value. -/
def execCas (d a b : BitVec 5) (z : BitVec 1) (o : BitVec 2) (s : State) : Host.Outcome State Fault Refusal :=
  finishAccess (scalarAmo (.cas d a b z o) 9 d a b z o) s

/-! ### Posted remote atomics (R459 to R461) -/

/-- `RAMO` (R460): `op` as in R171, `z` a doubleword, `q` release. -/
def remoteAmo (i : Instr) (op : Nat) (d a b : BitVec 5) (z q : BitVec 1) : M Unit := do
  start (wordOf i) { reads := [(.x, a.toNat), (.x, b.toNat)], dest := some (.x, d.toNat), tagged := true }
  let st ← getSt
  let size := if z = 1 then 8 else 4
  let ea := (st.rx a).toNat
  if ea % size ≠ 0 then trap cALIGN ea
  let ac := Acc.amo.forStrand (← get)
  let x ← xlate1 ac ea
  if !x.glob then trap cPROT ea 8
  coverWait ea size
  if 64 ≤ postedCount (← get) then wait
  if q = 1 then releaseWait else settleScalar
  let opnd := (st.rx b).toNat % 2 ^ (8 * size)
  match x.place with
  | .remote h => do
    let tag ← tagFor h true
    let t ← get
    let (t, tx) := sendTxn t
      { home := h, tag := tag, op := op + 2, pa := x.pa, mt := x.mt, size := size, data := opnd, be := 2 ^ size - 1, dom := ac.dom,
        va := ea, sid := t.st.owner, posted := true, st := 0, port := 0, since := 0, waitAt := none, done := none, seq := t.seqNow }
    set { t with txns := t.txns ++ [tx] }
    modSt (fun st => st.result d.toNat (BitVec.ofNat 64 (h * 2 ^ 16 + tag)))
  | _ => do
    let own := ((← get).pkr 0x440).toNat % 128
    let tag ← tagFor own true
    match ← amoAt x ac.dom ea op size opnd 0 true with
    | .ok _ => modSt (fun st => st.result d.toNat (BitVec.ofNat 64 (own * 2 ^ 16 + tag)))
    | .error e => scalarErr e ea

/-- `RAMO_ADD` (R460): Posted remote atomic add; returns home and tag. -/
def execRamoAdd (d a b : BitVec 5) (z q : BitVec 1) (s : State) : Host.Outcome State Fault Refusal :=
  finishAccess (remoteAmo (.ramoAdd d a b z q) 0 d a b z q) s

/-- `RAMO_AND` (R460): Posted remote atomic AND. -/
def execRamoAnd (d a b : BitVec 5) (z q : BitVec 1) (s : State) : Host.Outcome State Fault Refusal :=
  finishAccess (remoteAmo (.ramoAnd d a b z q) 1 d a b z q) s

/-- `RAMO_OR` (R460): Posted remote atomic OR. -/
def execRamoOr (d a b : BitVec 5) (z q : BitVec 1) (s : State) : Host.Outcome State Fault Refusal :=
  finishAccess (remoteAmo (.ramoOr d a b z q) 2 d a b z q) s

/-- `RAMO_XOR` (R460): Posted remote atomic XOR. -/
def execRamoXor (d a b : BitVec 5) (z q : BitVec 1) (s : State) : Host.Outcome State Fault Refusal :=
  finishAccess (remoteAmo (.ramoXor d a b z q) 3 d a b z q) s

/-- `RAMO_MIN` (R460): Posted remote atomic signed minimum. -/
def execRamoMin (d a b : BitVec 5) (z q : BitVec 1) (s : State) : Host.Outcome State Fault Refusal :=
  finishAccess (remoteAmo (.ramoMin d a b z q) 4 d a b z q) s

/-- `RAMO_MAX` (R460): Posted remote atomic signed maximum. -/
def execRamoMax (d a b : BitVec 5) (z q : BitVec 1) (s : State) : Host.Outcome State Fault Refusal :=
  finishAccess (remoteAmo (.ramoMax d a b z q) 5 d a b z q) s

/-- `RAMO_MINN` (R460): Posted remote atomic unsigned minimum. -/
def execRamoMinn (d a b : BitVec 5) (z q : BitVec 1) (s : State) : Host.Outcome State Fault Refusal :=
  finishAccess (remoteAmo (.ramoMinn d a b z q) 6 d a b z q) s

/-- `RAMO_MAXN` (R460): Posted remote atomic unsigned maximum. -/
def execRamoMaxn (d a b : BitVec 5) (z q : BitVec 1) (s : State) : Host.Outcome State Fault Refusal :=
  finishAccess (remoteAmo (.ramoMaxn d a b z q) 7 d a b z q) s

/-- `RAMO_SWAP` (R460): Posted remote atomic swap. -/
def execRamoSwap (d a b : BitVec 5) (z q : BitVec 1) (s : State) : Host.Outcome State Fault Refusal :=
  finishAccess (remoteAmo (.ramoSwap d a b z q) 8 d a b z q) s

/-- Transactions of the strand that are not complete, to one home or to any (R461). -/
def openTxns (s : State) (home : Option Nat) : Bool :=
  s.txns.any (fun t => s.st.owns t.sid && t.done.isNone
    && (match home with | some h => t.home == h | none => true))

/-- The trap of a `RAMO`'s record (R461). -/
def linkTrap (l : LinkErr) : Trap := { cause := cLINKERR, eval := l.va, w0 := l.w0, w1 := l.home, w2 := l.tag, w3 := l.w3 }

/-- The oldest pending LINKERR of a `RAMO` is delivered, if there is one (R461). -/
def deliverLink : M Unit := do
  match (← getSt).linkErrs with
  | [] => pure ()
  | l :: r =>
    modSt (fun st => { st with linkErrs := r })
    if l.w0 = 2 then modSt (fun st => st.setCrN 0x441 (l.tag + l.home * 65536 + 2 ^ 23))
    throw (.trap (linkTrap l))

/-- The home is one that the `RFENCE` waits for: the one named, or any other package. -/
def fenced (s : State) (home : Option Nat) (h : Nat) : Bool :=
  match home with
  | some k => h == k
  | none => h != (s.pkr 0x440).toNat % 128

/-- A queued vector entry of the strand may still access another package that the `RFENCE` waits for (R461). -/
def reachesOut (s : State) (home : Option Nat) : Bool :=
  (withOlder [] s.st.vq).any (fun i => !i.2.finished && i.2.isMem && (match opOf vopOf i.2 with
    | .error _ => false
    | .ok op => match op.touchOf vopOf i.1 i.2 s.st with
      | none => false
      | some t => t.all || t.spans.any (fun q => (pageCuts (ofInt 64 q.2.1) (q.2.2 / 65536 + 2) q.2.2).any (fun p =>
          match s.locOf p.1 with
          | some l => fenced s home l.1
          | none => false))))

/-- `RFENCE` (R461): `h` limits it to the transactions of one home. -/
def execRfence (a : BitVec 5) (h : BitVec 1) (s : State) : Host.Outcome State Fault Refusal :=
  finishAccess (do
    start (wordOf (.rfence a h)) { reads := if h = 1 then [(.x, a.toNat)] else [] }
    let st ← getSt
    let home := if h = 1 then some ((st.rx a).toNat % 128) else none
    if reachesOut (← get) home then
      settleVqSoft
      if reachesOut (← get) home then wait
    if openTxns (← get) home then wait
    deliverLink
    advance) s

end Sys2Proof.Machine
end

