-- ==== Sys2Proof/Machine/Sync.lean ====
section
/-! DEFINITION. Strand synchronisation (R178 to R190): fences, waits on a line monitor and the gang barrier; major 0x0F. -/

namespace Sys2Proof.Machine

/-! ### Fence (R102 to R104, R179, R180) -/

/-- Runs the write streams of the strand, and waits until what they can write has been written (R104). -/
def settleStreams : M Unit := do
  let s ← get
  let eng := clusterOf s.cur
  let who := s.st.owner
  let mine := fun (p : Nat × Slot) => decide (p.1 / 8 = eng) && p.2.write
    && (match p.2.owner with | some (w, _) => w == who | none => false)
  forList (s.slots.filter (fun p => mine p && p.2.up.isNone)) (fun p => do
    if p.2.draining then drainChain p.1 else runOps p.1)
  let t ← get
  if t.slots.any (fun p => mine p && (p.2.draining || (p.2.up.isNone && (p.2.ops.any (fun o => !o.released) || p.2.fault.isSome)))) then
    wait

/-- The entry's accesses belong to the load class, or to the store class (R103): those of a `VAMO` and of the sampler to both. -/
def VEntry.loads (e : VEntry) : Bool :=
  let w := e.word.toNat
  e.isTap || (e.isMem && (w / 2 ^ 26 == 0x27 || (w / 2 ^ 26 == 0x28 && decide (5 ≤ w % 8)) || (w / 2 ^ 26 == 0x20 && w % 16 == 7)))
def VEntry.stores (e : VEntry) : Bool :=
  let w := e.word.toNat
  w / 2 ^ 26 == 0x37 || (e.isMem && (w / 2 ^ 26 == 0x28 || (w / 2 ^ 26 == 0x20 && w % 16 == 6)))

/-- A transaction of the strand is open that a fence of scope `sc` waits for, by its class (R102, R103, R460). -/
def fencedTxn (s : State) (loads stores : Bool) (sc : Nat) : Bool :=
  s.txns.any (fun t => s.st.owns t.sid && t.done.isNone && (if t.home = 127 then decide (4 ≤ sc) else decide (3 ≤ sc))
    && ((loads && t.op != 1 && !t.posted) || (stores && t.op != 0)))

/-- The earlier accesses of the load class, of the store class, or of both have been performed, on the scalar and vector paths (R103). -/
def settleClass (loads stores : Bool) : M Unit := do
  settleStores
  settleEntries (fun e => (loads && e.loads) || (stores && e.stores))
  let left := fun (st : Strand) => (loads && !st.loads.isEmpty)
    || (stores && (!st.stores.isEmpty || st.loads.any (fun e => e.amo.isSome)))
  if left (← getSt) then
    settleStores
    if left (← getSt) then wait

/-- `FENCE` (R180): kinds LL, LS, SL, SS, bank, stream in bits 0 to 5; scope `sc`. -/
def execFence (k : BitVec 6) (sc : BitVec 3) (s : State) : Host.Outcome State Fault Refusal :=
  finishAccess (do
    start (wordOf (.fence k sc)) {}
    if k.toNat % 16 ≠ 0 ∧ sc ≠ 0 then
      let loads := k.toNat % 4 != 0
      let stores := k.toNat / 4 % 4 != 0
      settleClass loads stores
      if fencedTxn (← get) loads stores sc.toNat then wait
    if bitOf k.toNat 4 then settleBankWrites
    if bitOf k.toNat 5 then settleStreams
    advance) s

/-! ### Waits (R181 to R185) -/

/-- Memory as it is when a plain wait begins, which a load that follows the wait at once may still see (R99, R192; log 70): kept where the strand
has nothing outstanding then. -/
def noteBehind (d : Nat) : M Unit := do
  let s ← get
  let st := s.st
  match st.behind with
  | some h => if h.next = st.pc + 4 then pure () else modSt (fun st => { st with behind := none })
  | none =>
    if st.loads.isEmpty && st.stores.isEmpty && st.vq.isEmpty && s.defer then
      modSt (fun st => { st with behind := some { next := st.pc + 4, reg := d, mem := s.mem, lines := s.lines } })

/-- `WAITEQ` and `WAITNE` (R182): `k` the timeout, `o` acquire, `z` a doubleword. -/
def lineWait (i : Instr) (ne : Bool) (d a b : BitVec 5) (k : BitVec 5) (o z : BitVec 1) : M Unit := do
  start (wordOf i) { reads := [(.x, a.toNat), (.x, b.toNat)], dest := some (.x, d.toNat) }
  let st ← getSt
  let size := if z = 1 then 8 else 4
  let ea := (st.rx a).toNat
  if ea % size ≠ 0 then trap cALIGN ea
  let ac := Acc.waitLine.forStrand (← get)
  let x ← xlate1 ac ea
  coverWait ea size
  settleFor x.place x.pa size false
  if o = 0 then noteBehind d.toNat
  let c := (st.rx b).toNat % 2 ^ (8 * size)
  let s ← get
  let deadline := if k = 0 then none else some (st.deadline.getD (s.now + 2 ^ (k.toNat + 4)))
  match ← readWordAt x size ac.dom ea with
  | .error e => scalarErr e ea
  | .ok v =>
    let late := match deadline with | some t => decide (t ≤ s.now) | none => false
    if (v == c) != ne || late then
      modSt (fun st => { st.result d.toNat (extendLoad false size v) with deadline := none, run := .run, behind := if o = 0 then st.behind else none })
    else
      modSt (fun st => { st with run := .waitLine (x.pa / 64), deadline := deadline })
      wait

/-- `WAITEQ` (R182): Sleeps on a line monitor until the location equals x[b] or the timeout passes. -/
def execWaiteq (d a b k : BitVec 5) (o z : BitVec 1) (s : State) : Host.Outcome State Fault Refusal :=
  finishAccess (lineWait (.waiteq d a b k o z) false d a b k o z) s

/-- `WAITNE` (R182): Sleeps on a line monitor until the location differs from x[b] or the timeout passes. -/
def execWaitne (d a b k : BitVec 5) (o z : BitVec 1) (s : State) : Host.Outcome State Fault Refusal :=
  finishAccess (lineWait (.waitne d a b k o z) true d a b k o z) s

/-! ### The gang barrier (R186 to R190) -/

/-- Every member that has not stopped has arrived: the phase completes (R186). -/
def completePhase (g : Gang) : Gang :=
  if (range' 0 g.size).all (fun k => bitOf g.stopped k || bitOf g.barA.toNat k) then
    { g with barP := g.barP + 1, barA := 0 }
  else g

/-- The gang of the current strand, with its number; a strand that belongs to none has a barrier of its own that is always open. -/
def gangOf (s : State) : Option (Nat × Gang) :=
  s.st.gang.bind (fun gid => (Tab.find s.gangs gid).map (fun g => (gid, g)))

def setGang (gid : Nat) (g : Gang) : M Unit := modify (fun s => { s with gangs := Tab.set s.gangs gid g })

/-- The strand's rank. -/
def Strand.rank (st : Strand) : Nat := (st.cr 0x002).toNat % 16

/-- Bit `k` of a barrier register set or cleared. -/
def setBit (v : BitVec 16) (k : Nat) (b : Bool) : BitVec 16 := BitVec.ofNat 16 (setFld v.toNat k 1 (if b then 1 else 0))

/-- `GBAR.A` (R188). -/
def execGbarA (d : BitVec 5) (s : State) : Host.Outcome State Fault Refusal :=
  finishAccess (do
    start (wordOf (.gbarA d)) { dest := some (.x, d.toNat) }
    releaseWait
    let s ← get
    match gangOf s with
    | none => modSt (fun st => st.result d.toNat 0)
    | some (gid, g) =>
      let k := s.st.rank
      if bitOf g.barA.toNat k then wait
      setGang gid (completePhase { g with barA := setBit g.barA k true })
      modSt (fun st => st.result d.toNat (BitVec.ofNat 64 g.barP.toNat))) s

/-- Phase `p` counts as completed (R186). -/
def phaseDone (g : Gang) (p : BitVec 32) : Bool := decide (1 ≤ (g.barP - p).toNat) && decide ((g.barP - p).toNat ≤ 2 ^ 31)

/-- `GBAR.W` (R188). -/
def execGbarW (d a : BitVec 5) (s : State) : Host.Outcome State Fault Refusal :=
  finishAccess (do
    start (wordOf (.gbarW d a)) (infoDA d a)
    let s ← get
    match gangOf s with
    | none => modSt (fun st => st.result d.toNat 0)
    | some (_, g) =>
      let p := BitVec.ofNat 32 (s.st.rx a).toNat
      if !phaseDone g p && p == g.barP && bitOf g.barA.toNat s.st.rank then wait
      modSt (fun st => st.result d.toNat (BitVec.ofNat 64 g.barP.toNat))) s

/-- `GBAR` (R188): arrival, then the wait. -/
def execGbar (s : State) : Host.Outcome State Fault Refusal :=
  finishAccess (do
    start (wordOf .gbar) {}
    releaseWait
    let s ← get
    let k := s.st.rank
    match gangOf s with
    | none => advance
    | some (gid, g) =>
      if bitOf g.barW.toNat k && !bitOf g.barA.toNat k then
        setGang gid { g with barW := setBit g.barW k false }
        advance
      else
        if !bitOf g.barW.toNat k then
          if bitOf g.barA.toNat k then wait
          setGang gid (completePhase { g with barA := setBit g.barA k true, barW := setBit g.barW k true })
        match gangOf (← get) with
        | none => advance
        | some (gid, g) =>
          if bitOf g.barA.toNat k then wait
          setGang gid { g with barW := setBit g.barW k false }
          advance) s

end Sys2Proof.Machine
end

