-- ==== Sys2Proof/Machine/System.lean ====
section
/-! DEFINITION. The system and control-register instructions (R155 to R166): majors 0x19 to 0x1D. -/

namespace Sys2Proof.Machine

/-- `SYSC` (R156). -/
def execSysc (i : BitVec 12) (s : State) : Host.Outcome State Fault Refusal :=
  finish (do
    start (wordOf (.sysc i)) {}
    trap cSYSC i.toNat) s

/-- `BRK` (R156). -/
def execBrk (i : BitVec 12) (s : State) : Host.Outcome State Fault Refusal :=
  finish (do
    start (wordOf (.brk i)) {}
    trap cBRK i.toNat) s

/-- `ERET` (R157): the handler's own queued work and outstanding accesses are carried out first. -/
def execEret (s : State) : Host.Outcome State Fault Refusal :=
  finishAccess (do
    start (wordOf .eret) { priv := true }
    settleStores
    settleVq
    settleScalar
    deliverLate
    returnFromTrap) s

/-- `IDLE` (R158): `x[a]` is the deadline when a is not `x0`. -/
def execIdle (a : BitVec 5) (s : State) : Host.Outcome State Fault Refusal :=
  finish (do
    start (wordOf (.idle a)) { reads := [(.x, a.toNat)] }
    let s ← get
    let t := (s.st.rx a).toNat
    if a ≠ 0 ∧ t ≤ s.time.toNat then advance
    else modSt (fun st => { st with run := .idle (if a = 0 then none else some t) })) s

/-- A context may issue when its turn comes: its strand is in none of the waits of R124 that an event ends, and no `YIELD` holds it (R159). Whether
its operands are ready, and whether its instruction waits, shows when its turn comes (R143). -/
def canIssue (s : State) (c : Nat) : Bool :=
  let st := s.strandAt c
  st.run == .run && st.want.isNone && (match st.yielded with | some (l, t) => l.isEmpty && decide (t ≤ s.cyclesOf (clusterOf c)) | none => true)

/-- `YIELD` (R159): the other contexts of the core that are ready now issue first, and four core cycles pass. -/
def execYield (s : State) : Host.Outcome State Fault Refusal :=
  finish (do
    start (wordOf .yield) {}
    let s ← get
    let c := s.cur
    let others := (range' (c / 4 * 4) 4).filter (fun d => d != c && canIssue s d)
    modSt (fun st => { st.advance with yielded := some (others, s.now + 4) })) s

/-! ### `STOP` (R160, R126) -/

/-- A strand of a gang has ended (R125, R126, R186): the barrier counts it as arrived, and the last one ends the gang. -/
def memberStopped (gid rank : Nat) (s : State) : State :=
  match Tab.find s.gangs gid with
  | none => s
  | some g =>
    let g := { g with stopped := setFld g.stopped rank 1 1 }
    let g := completePhase g
    let s := { s with gangs := Tab.set s.gangs gid g }
    if (range' 0 g.size).all (bitOf g.stopped) then s.raise (.completionWrite gid) else s

/-- The strand of the current context leaves it (R160, step 5). -/
def endStrand (s : State) : State :=
  let c := s.cur
  let st := s.st
  let s := leaveLanes (clusterOf c) st.owner (s.setStrand c (freeStrand st))
  match st.gang with
  | some gid => memberStopped gid st.rank s
  | none => s

/-- A supervisor that stops a user strand it has trapped from kills the gang's result (R160). -/
def markKilled (s : State) : State :=
  let st := s.st
  if st.pl = 1 ∧ fld (st.stat 0x804) 2 2 = 0 then
    match gangOf s with
    | some (gid, g) => { s with gangs := Tab.set s.gangs gid { g with killed := some (g.killed.getD ((st.cr 0x802).toNat % 256)) } }
    | none => s
  else s

/-- Pending records of the bank queue are delivered (R160, step 3). -/
def deliverBank : M Unit := do
  match (← getSt).bankErrs with
  | [] => pure ()
  | r :: l =>
    modSt (fun st => { st with bankErrs := l })
    throw (.trap (recordTrap r))

/-- `STOP` (R160). -/
def execStop (s : State) : Host.Outcome State Fault Refusal :=
  finishAccess (do
    start (wordOf .stop) {}
    settleVq
    modSt writeBacks
    if !(← getSt).vq.isEmpty then wait
    settleBankAll
    deliverBank
    settleScalar
    deliverLate
    if openTxns (← get) none then wait
    deliverLink
    let s ← get
    cancelAll (clusterOf s.cur) s.st.owner
    modify (fun s => endStrand (markKilled s))) s

/-! ### `SPAWN` (R161) -/

/-- Queue `q` is enabled: its copy of the descriptor. -/
def enabledQueue (s : State) (q : Nat) : Option Queue :=
  if (s.pkr 0x820).toNat % 64 < q then none else Tab.find s.queues q

/-- `SPAWN` (R161): bytes 0 to 7 of the record are not read. -/
def execSpawn (d a : BitVec 5) (q : BitVec 6) (s : State) : Host.Outcome State Fault Refusal :=
  finishAccess (do
    start (wordOf (.spawn d a q)) { reads := [(.x, a.toNat)], dest := some (.x, d.toNat) }
    releaseWait
    let st ← getSt
    let va := (st.rx a).toNat
    if va % 64 ≠ 0 then trap cALIGN va
    let ac := Acc.load.forStrand (← get)
    let l ← xlate ac va 64
    match enabledQueue (← get) q.toNat with
    | none => trap cQUEUE q.toNat 1
    | some u =>
      if u.kind ≠ 1 then trap cQUEUE q.toNat 2
      let slot := u.base + 64 * (u.tail % 2 ^ u.logn)
      let (s, t) := physReadFree (← get) slot 8
      set s
      if t ≠ u.tail then trap cQUEUE q.toNat 3
      match ← readPieces ac.dom (splitPieces l) va with
      | .error (e, at0) => scalarErr e (max at0 (va + 8))
      | .ok r =>
        modify (fun s =>
          let s := physWrite s slot 64 (setFld r 0 64 (u.tail + 2 ^ 63))
          { s with queues := Tab.set s.queues q.toNat { u with tail := u.tail + 1 } })
        modSt (fun st => st.result d.toNat (BitVec.ofNat 64 u.tail))) s

/-! ### `IFLUSH` and `TINV` (R162, R163) -/

/-- Invalidates the instruction cache of a core (R162). -/
def flushCode (core : Nat) (s : State) : State := { s with icache := s.icache.filter (fun p => decide (p.1 / 2 ^ 46 ≠ core)) }

/-- `IFLUSH` (R162): every earlier store of the strand, on the scalar and vector paths, has been performed. -/
def execIflush (s : State) : Host.Outcome State Fault Refusal :=
  finishAccess (do
    start (wordOf .iflush) {}
    settlePaths
    let s ← get
    if s.txns.any (fun t => s.st.owns t.sid && t.done.isNone && t.op != 0) then wait
    modify (fun s => flushCode (coreOf s.cur) s)
    advance) s

/-- The address space of a transaction's requester: a strand's, a stream slot's, or the Ford's own. -/
def txnSpace (s : State) (t : Txn) : Option Nat :=
  if 8192 ≤ t.sid % 16384 then (Tab.find s.slots (t.sid % 16384 - 8192)).map Slot.asid
  else ((s.strands.find? (fun p => p.2.run != .free && p.2.owner == t.sid % 16384)).map (fun p => p.2.asid)).orElse
    (fun _ => (s.away.find? (fun st => st.owner == t.sid % 16384)).map Strand.asid)

/-- A transaction under way may have used a translation that a `TINV` names: by the address space; where a TLB knows the page, by the page. -/
def txnNamed (s : State) (as : Option Nat) (hit : TlbEntry → Bool) (t : Txn) : Bool :=
  t.done.isNone && match as, txnSpace s t with
    | some a, some b => a == b && (match s.tlb.find? (fun e => e.asid == b && decide (e.base ≤ t.va) && decide (t.va < e.base + e.size)) with
      | some e => hit e
      | none => true)
    | _, _ => true

/-- A strand's queued work holds a translation that a `TINV` names: the pages that entries of its vector queue and its bank queue keep, and, by
the address space, the scalar accesses that are not performed (R84, R85, R325). -/
def workNamed (as : Option Nat) (hit : TlbEntry → Bool) (st : Strand) : Bool :=
  st.vq.any (fun e => !e.finished && e.pages.any hit) || st.bankQ.any (fun e => !e.complete && e.pages.any hit)
    || ((match as with | some a => a == st.asid | none => true) && (!st.loads.isEmpty || !st.stores.isEmpty))

/-- The queued work of the package goes on as far as it can. -/
def settleTranslated (s : State) : State := settleAway (s.strands.foldl (fun s p => settleBank p.1 (drainScalar p.1 s)) s)

/-- `TINV` (R163): removes the translations that `hit` names, and waits until every access that used one has been performed (R85). -/
def tinv (i : Instr) (reads : List (RegKind × Nat)) (as : Strand → Option Nat) (hit : Strand → TlbEntry → Bool) : M Unit := do
  start (wordOf i) { reads := reads, priv := true }
  settleVqSoft
  modify settleTranslated
  let s ← get
  let a := as s.st
  let h := hit s.st
  set { s with tlb := s.tlb.filter (fun e => !h e) }
  if s.strands.any (fun p => p.2.run != .free && workNamed a h p.2) || s.away.any (workNamed a h) || s.txns.any (txnNamed s a h) then wait
  advance

/-- `TINV_ALL` (R163): Invalidates every translation in the package's TLBs. -/
def execTinvAll (s : State) : Host.Outcome State Fault Refusal := finish (tinv .tinvAll [] (fun _ => none) (fun _ _ => true)) s

/-- `TINV_AS` (R163): Invalidates every translation of one address space. -/
def execTinvAs (d : BitVec 5) (s : State) : Host.Outcome State Fault Refusal :=
  finish (tinv (.tinvAs d) [(.x, d.toNat)] (fun st => some ((st.rx d).toNat % 65536)) (fun st e => e.asid == (st.rx d).toNat % 65536)) s

/-- `TINV_VA` (R163): Invalidates the translations of one address space whose page contains the address. -/
def execTinvVa (d a : BitVec 5) (s : State) : Host.Outcome State Fault Refusal :=
  finish (tinv (.tinvVa d a) [(.x, d.toNat), (.x, a.toNat)] (fun st => some ((st.rx d).toNat % 65536)) (fun st e =>
    let va := (st.rx a).toNat % 2 ^ 55
    e.asid == (st.rx d).toNat % 65536 && decide (e.base ≤ va) && decide (va < e.base + e.size))) s

/-! ### Control registers (R164 to R166) -/

/-- The queued work that must be finished before register `n` is accessed (R165). -/
def settleCr (n : Nat) : M Unit := do
  if (0x100 ≤ n ∧ n ≤ 0x27F) ∨ (0x3C0 ≤ n ∧ n ≤ 0x43F) then settleVq
  else if 0x280 ≤ n ∧ n ≤ 0x2FF then settleBankAll

/-- `CRD` (R164). -/
def execCrd (d : BitVec 5) (c : BitVec 12) (s : State) : Host.Outcome State Fault Refusal :=
  finishAccess (csrInstr settleCr (wordOf (.crd d c)) d.toNat none c.toNat .read) s

/-- `CWR` (R164). -/
def execCwr (d a : BitVec 5) (c : BitVec 12) (s : State) : Host.Outcome State Fault Refusal :=
  finishAccess (csrInstr settleCr (wordOf (.cwr d a c)) d.toNat (some a.toNat) c.toNat .write) s

/-- `CSET` (R164). -/
def execCset (d a : BitVec 5) (c : BitVec 12) (s : State) : Host.Outcome State Fault Refusal :=
  finishAccess (csrInstr settleCr (wordOf (.cset d a c)) d.toNat (some a.toNat) c.toNat .set) s

/-- `CCLR` (R164). -/
def execCclr (d a : BitVec 5) (c : BitVec 12) (s : State) : Host.Outcome State Fault Refusal :=
  finishAccess (csrInstr settleCr (wordOf (.cclr d a c)) d.toNat (some a.toNat) c.toNat .clear) s

end Sys2Proof.Machine
end

