-- ==== Sys2Proof/Machine/Ford.lean ====
section
/-! DEFINITION. The Ford (R113 to R136): queues and their slots, admission, placement, completion, host events, kills and
pre-emption, as operations over the state. -/

namespace Sys2Proof.Machine

/-- Runs the machine's own work: it goes as far as it goes, and what waits is tried again when its task is raised again. -/
def runWork (m : M Unit) (s : State) : Host.Outcome State Fault Refusal :=
  match m s with
  | .ok _ t => .next t
  | .error (.trap _) t => .next t
  | .error .wait t => .next t
  | .error (.fault f) _ => .fault f
  | .error (.refuse r) _ => .refused r

/-! ### Queues (R113 to R116) -/

/-- The address of a queue's slot for ticket `t`. -/
def Queue.slot (q : Queue) (t : Nat) : Nat := q.base + 64 * (t % 2 ^ q.logn)

/-- A descriptor follows R113. -/
def descriptorOk (d : Nat) : Bool :=
  let base := imgFld d 0 8
  let logn := imgFld d 8 1
  let kind := imgFld d 9 1
  decide (3 ≤ logn) && decide (logn ≤ 16) && decide (kind ≤ 3) && decide (imgFld d 0x0A 1 ≤ 7) && imgFld d 0x0B 1 == 0
    && imgFld d 0x14 4 == 0 && imgFld d 0x28 24 == 0 && (kind == 1 || imgFld d 0x20 8 == 0)
    && (if kind = 3 then base / 2 ^ 48 == 0x7F && decide (base + 64 * 2 ^ logn ≤ 2 ^ 55) else base % (64 * 2 ^ logn) == 0 && decide (base + 64 * 2 ^ logn ≤ 0x8000000000))

/-- The Ford's copy of a descriptor. -/
def queueOf (d : Nat) : Queue :=
  { base := imgFld d 0 8, logn := imgFld d 8 1, kind := imgFld d 9 1, pmax := imgFld d 0x0A 1, aslo := imgFld d 0x0C 2,
    ashi := imgFld d 0x0E 2, ddlo := imgFld d 0x10 2, ddhi := imgFld d 0x12 2, head := imgFld d 0x18 8, tail := imgFld d 0x20 8,
    taken := false }

/-- The address of queue `q`'s descriptor. -/
def descriptorAt (s : State) (q : Nat) : Nat := fld (s.pkr 0x820).toNat 12 40 * 4096 + 64 * q

/-- The slot at `HEAD` of a queue was full before the Ford could see its ticket performed: it comes before all others, ties by the queue number; R116
does not place it (DESIGN CHOICE, log 61). -/
def noteHead (q : Nat) (s : State) : State :=
  match Tab.find s.queues q with
  | none => s
  | some u =>
    match if u.kind = 3 then none else u.slotFull s (u.head % 2 ^ u.logn) with
    | some t =>
      if s.fulls.any (fun f => f.2.1 == q && f.2.2 == t) then s else { s with fulls := putFull (0, q, t) s.fulls }
    | none => s

/-- Enables queue `q` (R114): a descriptor that breaks a rule, or cannot be read, leaves it disabled and sets `QSTAT`. -/
def enableQueue (q : Nat) (s : State) : State :=
  let (s, d, bad) := physRead s (descriptorAt s q) 64
  if !bad && descriptorOk d then
    let u := queueOf d
    let s := noteHead q { s with queues := Tab.set s.queues q u }
    if u.kind = 3 then s.raise .hostEventPost else s.raise (.admission q)
  else
    { s.setPk 0x821 (BitVec.ofNat 64 (setFld (s.pkr 0x821).toNat q 1 0)) with qstat := BitVec.ofNat 64 (q + 64) }

/-- Disables queue `q` (R114, R137): `HEAD`, and `TAIL` for kind 1, go back to the descriptor, where `QTBASE` puts it now; R114 does not say
which address counts when `QTBASE` has changed since (DESIGN CHOICE, log 61). Where a failed admission's completion is pending, `HEAD` goes back
still pointing at its slot, and the slot never gets its next ticket: R114 and R127 do not settle this (DESIGN CHOICE, log 61). -/
def disableQueue (q : Nat) (s : State) : State :=
  match Tab.find s.queues q with
  | none => s
  | some u =>
    let s := physWrite s (descriptorAt s q + 0x18) 8 u.head
    let s := if u.kind = 1 then physWrite s (descriptorAt s q + 0x20) 8 u.tail else s
    { s with
      queues := Tab.erase s.queues q
      held := s.held.filter (fun h => h.queue != q)
      fulls := s.fulls.filter (fun f => f.2.1 != q) }

/-- A write of `QEN` (R114): each bit that changes enables or disables its queue; bits above `QN` read 0. -/
def qenWrite (v : Nat) (s : State) : State :=
  let n := (s.pkr 0x820).toNat % 64 + 1
  let new := v % 2 ^ n
  let s := s.setPk 0x821 (BitVec.ofNat 64 new)
  (range' 0 64).foldl (fun s q =>
    if bitOf new q ∧ (Tab.find s.queues q).isNone then enableQueue q s
    else if !bitOf new q ∧ (Tab.find s.queues q).isSome then disableQueue q s
    else s) s

/-- Releases the head slot of a queue (R115): its `TICKET` becomes t + N, and the Ford goes on to the next slot. -/
def releaseSlot (q : Nat) (s : State) : State :=
  match Tab.find s.queues q with
  | none => s
  | some u =>
    let s := physWrite s (u.slot u.head) 8 (u.head + 2 ^ u.logn)
    (noteHead q { s with
        queues := Tab.set s.queues q { u with head := u.head + 1, taken := false }
        held := s.held.filter (fun h => h.queue != q)
        fulls := s.fulls.filter (fun f => !(f.2.1 == q && f.2.2 == u.head)) }).raise (.admission q)

/-- The slot of queue `q` that the Ford can take now: the one at `HEAD`, when it is full and not held or taken already. -/
def Queue.ready (s : State) (q : Nat) (u : Queue) (t : Nat) : Bool :=
  u.head == t && !u.taken && !(s.held.any (fun h => h.queue == q))

/-- The queue whose full slot the Ford serves next: the one whose full ticket was performed first (R116). Four admissions at most are in
progress: with that many completions being written, none begins. Whether a slot held for the host counts among the four is open, and it does not
(DESIGN CHOICE, log 61). -/
def nextFull (s : State) : Option Nat :=
  if 4 ≤ (s.queues.filter (fun p => p.2.taken)).length then none
  else (s.fulls.find? (fun f => match Tab.find s.queues f.2.1 with | some u => u.ready s f.2.1 f.2.2 | none => false)).map (fun f => f.2.1)

/-! ### Admission (R117, R118) -/

/-- What an admitted record asks for. -/
structure Admit where
  size : Nat
  lanes : Nat
  /-- Local store in granules of 64 KiB. -/
  local_ : Nat
  entry : Nat
  plan : Option TapBind

/-- A field resolved from the record, then the entry, then the header (R118): the value, and bit 31 of `DETAIL`. -/
def resolve (rec recDefault entry entryDefault header : Nat) : Nat × Nat :=
  if rec ≠ recDefault then (rec, 0) else (if entry ≠ entryDefault then entry else header, 2 ^ 31)

/-- Check 2 of R118: the offset of the first bad byte, if there is one. -/
def recordBad (pmax r : Nat) : Option Nat :=
  lowestBad ([(0x08, imgFld r 8 8 % 65536 == 0), (0x13, decide (imgFld r 0x13 1 ≤ pmax) && decide (imgFld r 0x13 1 < 8)),
    (0x15, imgFld r 0x15 1 == 0), (0x38, decide (imgFld r 0x38 1 < 4))]
    ++ (range' 0x39 7).map (fun o => (o, imgFld r o 1 == 0)))

/-- Checks 5 to 9 of R118 on record `r` and header `h`: the failing `DETAIL`, or what the record asks for, with the plan's offset. -/
def resolveRecord (r h : Nat) : Except Nat (Admit × Nat) :=
  let e := imgEntoff h + 16 * imgFld r 0x10 2
  let (g, dg) := resolve (imgFld r 0x12 1) 0 (imgFld h (e + 4) 1) 0 (imgFld h 0x12 1)
  let (l, dl) := resolve (imgFld r 0x14 1) 0xFF (imgFld h (e + 5) 1) 0xFF (imgFld h 0x13 1)
  let (m, dm) := resolve (imgFld r 0x18 4) 0xFFFFFFFF (imgFld h (e + 6) 2) 0xFFFF (imgFld h 0x14 2)
  let bytes := if dm = 0 then m else m * 65536
  let lanes := roundUp l 8
  let t := if imgFld h (e + 8) 4 = 0 then imgFld h 0x18 4 else imgFld h (e + 8) 4
  if imgEntcnt h ≤ imgFld r 0x10 2 then .error 0x10
  else if g = 0 ∨ 16 < g then .error (0x12 + dg)
  else if 64 < l ∨ 64 < g * lanes then .error (0x14 + dl)
  else if 8388608 < bytes then .error (0x18 + dm)
  else if bitOf (imgFld r 0x38 1) 1 ∧ t = 0 then .error 0x38
  else .ok ({ size := g, lanes := lanes, local_ := ceilDiv bytes 65536, entry := imgFld r 8 8 + imgFld h e 4, plan := none }, t)

/-- Checks 2 to 10 of R118, and the uncorrectable words of R388: `STATUS` and `DETAIL` of the failure, or the admitted request. -/
def admitChecks (u : Queue) (r : Nat) (bad : Option Nat) : M (Except (Nat × Nat) Admit) := do
  let asid := imgFld r 0x1E 2
  let ddom := imgFld r 0x1C 2
  let img := imgFld r 8 8
  match bad, recordBad u.pmax r with
  | some o, _ => pure (.error (1, 0x40000000 + o))
  | none, some o => pure (.error (1, o))
  | none, none =>
    if !(decide (u.aslo ≤ asid) && decide (asid ≤ u.ashi) && decide (u.ddlo ≤ ddom) && decide (ddom ≤ u.ddhi)) then
      pure (.error (3, 0))
    else match ← checkImage asid img with
      | .error o => pure (.error (2, o))
      | .ok h =>
        match resolveRecord r h with
        | .error o => pure (.error (1, o))
        | .ok (ad, t) =>
          if t = 0 then pure (.ok ad)
          else match ← bindPlan asid img h t with
            | none => pure (.error (3, 0))
            | some b => pure (.ok { ad with plan := some b })

/-- The gang number of an admitted gang: the Ford's choice, made unlike every live one (R123; log 9). -/
def newGid (s : State) : Nat :=
  let g := (Config.gangNumber s.tick).toNat
  let k := (lowest (fun k => (Tab.find s.gangs ((g + k) % 2 ^ 32)).isNone) (s.gangs.length + 1)).getD 0
  (g + k) % 2 ^ 32

/-- The gang of a record (R117). -/
def gangOfRecord (s : State) (q t r : Nat) : Gang :=
  { queue := q, ticket := t, cls := imgFld r 0x13 1 % 8, age := s.fordNow, asid := imgFld r 0x1E 2,
    ddom := imgFld r 0x1C 2, vceil := imgFld r 0x16 2, args := BitVec.ofNat 64 (imgFld r 0x20 8),
    compl := BitVec.ofNat 64 (imgFld r 0x28 8), utag := BitVec.ofNat 64 (imgFld r 0x30 8), evt := bitOf (imgFld r 0x38 1) 0 }

/-! ### Placement (R120) -/

/-- The first granule of a free local-store partition of `n` granules in a cluster: the lowest (log 17). -/
def freePartition (s : State) (cl n : Nat) : Option Nat :=
  let used := (s.gangs.filter (fun p => p.2.cluster == cl && p.2.lsSize != 0)).map (fun p => (p.2.lsBase, p.2.lsSize))
  lowest (fun b => decide (b + n ≤ 128) && used.all (fun u => decide (b + n ≤ u.1) || decide (u.1 + u.2 ≤ b))) 129

/-- A cluster has what a gang needs besides lanes. -/
def fitsCluster (s : State) (g : Gang) (cl : Nat) : Bool :=
  decide (g.size ≤ (freeContexts s cl).length) && decide (g.size ≤ (freeRecords s).length)
    && (freePartition s cl g.lsSize).isSome

/-- Gangs that wait for lanes on a cluster: those that have not started. R120 does not say whether strands that wait in `VGRANT` or to resume
count among them (DESIGN CHOICE, log 17). -/
def waitingGangs (s : State) (cl : Nat) : Nat := (s.gangs.filter (fun p => p.2.cluster == cl && !p.2.started)).length

/-- The cluster that the Ford chooses, if one fits (R120). Stale granules count as free lanes, since they can be granted; R120 does not say
(DESIGN CHOICE, log 17). -/
def chooseCluster (s : State) (g : Gang) : Option Nat :=
  let fit := (range' 0 16).filter (fitsCluster s g)
  let free := fit.filter (fun cl => decide (g.size * g.lanes / 8 ≤ (grantable s cl).length))
  let l := if free.isEmpty then fit else free
  l.foldl (fun (b : Option Nat) cl => match b with
    | none => some cl
    | some d => if waitingGangs s cl < waitingGangs s d then some cl else some d) none

/-- Places a gang on a cluster: its contexts in ascending order, its records and its local store are reserved; a gang without lanes
starts at once. -/
def placeOn (gid : Nat) (g : Gang) (cl : Nat) (s : State) : State :=
  let g := { g with
    cluster := cl, lsBase := (freePartition s cl g.lsSize).getD 0, ctxs := (freeContexts s cl).take g.size,
    recs := (freeRecords s).take g.size, recBase := poolAt s }
  let s := { s with gangs := Tab.set s.gangs gid g }
  if g.lanes = 0 then startGang gid g s else s.raise (.laneGrant cl)

/-- Gangs that no cluster has room for yet, the oldest of the highest class first (log 17). -/
def unplaced (s : State) : List (Nat × Gang) :=
  let l := s.gangs.filter (fun p => p.2.cluster == 16 && !p.2.started)
  (range' 0 8).flatMap (fun c => (l.filter (fun p => p.2.cls == 7 - c)).mergeSort (fun a b => decide (a.2.age ≤ b.2.age)))

/-- Tries to place every gang that waits for a place. -/
def placeAll (s : State) : State :=
  (unplaced s).foldl (fun s p => match chooseCluster s p.2 with
    | some cl => placeOn p.1 p.2 cl s
    | none => s) s

/-- Admits a gang: the slot of its record is released, and the gang is placed. -/
def admitGang (g : Gang) (s : State) : State :=
  placeAll (releaseSlot g.queue { s with gangs := Tab.set s.gangs (newGid s) g })

/-- The key under which a queue's failed admission waits for its completion. -/
def failKey (q : Nat) : Nat := 2 ^ 32 + q

/-- The admission of a record fails, whose gang would have been `g`: its completion is written, and then its slot is released (R127). -/
def failAdmission (g : Gang) (status detail : Nat) (s : State) : State :=
  let q := g.queue
  let g := { g with size := 0, lsSize := 0, failed := some (status, detail), started := true }
  let s := match Tab.find s.queues q with
    | some u => { s with queues := Tab.set s.queues q { u with taken := true } }
    | none => s
  ({ s with gangs := Tab.set s.gangs (failKey q) g, held := s.held.filter (fun h => h.queue != q) }).raise (.completionWrite (failKey q))

/-- The gang of an admitted record, before it has a place. -/
def admitted (s : State) (q t r : Nat) (ad : Admit) : Gang :=
  { gangOfRecord s q t r with
    size := ad.size, lanes := ad.lanes, lsSize := ad.local_, entry := BitVec.ofNat 64 ad.entry, tapPlan := ad.plan }

/-- A record has passed its checks: its gang is admitted, or its slot is held for the host (R27, R118). -/
def passAdmission (g : Gang) (s : State) : State :=
  if bitOf (s.pkr 0x800).toNat 1 then
    postEvent { s with held := s.held ++ [{ queue := g.queue, ticket := g.ticket, gang := g }] }
      { kind := 1, queue := g.queue, subject := 0, ecause := g.ticket, eval := g.utag.toNat, trec := 0 }
  else admitGang g s

/-- The Ford looks at the head slot of start queue `q` and admits its record (R116, R118). The bytes of a word that cannot be read are free values,
and the record then completes with BADREQ (R387, R388). -/
def admitHead (q : Nat) : M Unit := do
  match Tab.find (← get).queues q with
  | none => pure ()
  | some u =>
    if u.taken ∨ 2 ≤ u.kind ∨ (← get).held.any (fun h => h.queue == q) then pure ()
    else
      let (s, a, badA) := physRead (← get) (u.slot u.head) 32
      let (s, b, badB) := physRead s (u.slot u.head + 32) 32
      set s
      let r := (if badA then s.peekLE (u.slot u.head) 32 else a) + (if badB then s.peekLE (u.slot u.head + 32) 32 else b) * 2 ^ 256
      let t := u.head
      if !badA ∧ imgFld r 0 8 ≠ t + 2 ^ 63 then pure ()
      else
        let g := gangOfRecord s q t r
        let compl := imgFld r 0x28 8
        let there ← if compl % 32 = 0 then fordPa (fordStore (imgFld r 0x1E 2)) compl 32 else pure none
        match there with
        | none =>
          modify (fun s => releaseSlot q (postEvent s
            { kind := 9, queue := q, subject := 0, ecause := t, eval := imgFld r 0x30 8, trec := 0 }))
        | some _ =>
          match ← admitChecks u r (if badA then some 0 else if badB then some 32 else none) with
          | .error (st, d) => modify (failAdmission g st d)
          | .ok ad => modify (fun s => passAdmission (admitted s q t r ad) s)

/-! ### Completion (R126, R127) -/

/-- Gangs whose strands have all stopped may complete now. -/
def recheckGangs (s : State) : State :=
  s.gangs.foldl (fun s g => if g.2.started && (range' 0 g.2.size).all (bitOf g.2.stopped) then s.raise (.completionWrite g.1) else s) s

/-- The owner numbers of a gang's strands still have work at the engines or on the fabric (R126). -/
def gangBusy (s : State) (g : Gang) : Bool :=
  !g.rest.isEmpty || g.recs.any (fun k => draining s k || s.txns.any (fun t => t.sid % 16384 == k && t.done.isNone))

/-- Bytes 0x08 to 0x1F of the completion record (R127). -/
def completionBody (s : State) (g : Gang) : Nat :=
  let (st, d, l, cl) := match g.failed, g.killed with
    | some (a, b), _ => (a, b, 0, 0xFF)
    | none, some c => (4, c, g.lanes, g.cluster)
    | none, none => (0, 0, g.lanes, g.cluster)
  g.utag.toNat + st * 2 ^ 64 + l * 2 ^ 80 + cl * 2 ^ 88 + d % 2 ^ 32 * 2 ^ 96 + s.time.toNat * 2 ^ 128

/-- Writes the completion record: its body, then its `TICKET` (R127); false when `COMPL` no longer translates. -/
def writeCompletion (g : Gang) : M Bool := do
  let a := { fordStore g.asid with who := 12290 + g.queue }
  let s ← get
  match ← orNone (writeRange a (g.compl.toNat + 8) 24 (completionBody s g) false) with
  | none => pure false
  | some _ =>
    match ← orNone (writeRange a g.compl.toNat 8 g.ticket false) with
    | none => pure false
    | some _ => pure true

/-- Ends a gang whose strands have all stopped and whose work is done (R126). -/
def completeGang (gid : Nat) : M Unit := do
  match Tab.find (← get).gangs gid with
  | none => pure ()
  | some g =>
    if !(range' 0 g.size).all (bitOf g.stopped) ∨ !g.started ∨ gangBusy (← get) g then pure ()
    else
      let ok ← writeCompletion g
      modify (fun s =>
        let s := s.endAccess (12290 + g.queue)
        let s := { s with gangs := Tab.erase s.gangs gid }
        let ev := fun (k : Nat) (s : State) =>
          postEvent s { kind := k, queue := g.queue, subject := 0, ecause := g.ticket, eval := g.utag.toNat, trec := 0 }
        let s := if !ok then ev 9 s else if g.evt then ev 8 s else s
        if g.failed.isSome then releaseSlot g.queue s
        else (placeAll s).raise (.laneGrant g.cluster))

/-! ### Host events (R134) -/

/-- The host event queue that the Ford writes: the lowest-numbered enabled one (log 18). -/
def eventQueue (s : State) : Option (Nat × Queue) := s.queues.find? (fun p => p.2.kind == 3)

/-- The accessor of the Ford for the host event queue, in address space 0 (R113): at supervisor level; R134 names no level (DESIGN CHOICE,
log 18). -/
def fordHost (a : Acc) : Acc := { fordAcc a 0 with pl := 1, who := 12289 }

/-- Bytes 0x08 to 0x3F of an event record. -/
def eventBody (s : State) (e : HostEvent) : Nat :=
  e.kind % 2 ^ 16 + e.queue % 2 ^ 16 * 2 ^ 16 + e.subject % 2 ^ 32 * 2 ^ 32 + e.ecause % 2 ^ 64 * 2 ^ 64 + e.eval % 2 ^ 64 * 2 ^ 128
    + e.trec % 2 ^ 64 * 2 ^ 192 + s.time.toNat * 2 ^ 256

/-- The slot is not free, or an access to the host event queue met a failure: the Ford reads the ticket again after 10,000 ns. R134 says so of a
slot that is not free alone; after a failed access it is the model's (DESIGN CHOICE, log 18). -/
def eventLater : M Unit := modify (fun s => { s.endAccess 12289 with evRetry := some (s.time.toNat + 10000) })

/-- Writes the oldest waiting event record into the host event queue, but not before the time at which a ticket that was not free is read
again (R134, R28). -/
def postHead : M Unit := do
  let s ← get
  match eventQueue s, if (match s.evRetry with | some t => decide (s.time.toNat < t) | none => false) then [] else s.hostEvents with
  | some (q, u), e :: rest =>
    match ← orNone (readRange (fordHost Acc.load) (u.slot u.head) 8) with
    | none => eventLater
    | some t =>
      if t ≠ u.head then eventLater
      else match ← orNone (writeRange (fordHost Acc.store) (u.slot u.head + 8) 56 (eventBody s e) false) with
        | none => eventLater
        | some _ =>
          match ← orNone (writeRange (fordHost Acc.store) (u.slot u.head) 8 (u.head + 2 ^ 63) false) with
          | none => eventLater
          | some _ =>
            modify (fun s =>
              let s := { s.endAccess 12289 with
                queues := Tab.set s.queues q { u with head := u.head + 1 }, hostEvents := rest, evRetry := none }
              if rest.isEmpty then s else s.raise .hostEventPost)
  | _, _ => pure ()

/-! ### Answers (R134) -/

/-- The Ford counts an answer without a subject (R134, R481). -/
def countAnswer (s : State) : State := s.count 8

/-- The context of the strand parked with this `SID`. -/
def parkedCtx (s : State) (sid : Nat) : Option Nat :=
  (s.strands.find? (fun p => p.2.pool == some sid && (match p.2.run with | .parked _ => true | _ => false))).map (fun p => p.1)

/-- A pre-empted strand that is parked with this `SID`: its place. -/
def parkedBack (s : State) (sid : Nat) : Option Nat :=
  s.preempted.findIdx? (fun p => p.strand.pool == some sid && (match p.strand.run with | .parked _ => true | _ => false))

/-- A parked strand goes on as by `ERET` from its record (R134, R157). -/
def resumeParked (c : Nat) (s : State) : State := onCtx c eretFor s

/-- A strand of a killed gang gives up what it was granted, and what is granted of its registers is zeroed (R122, R126). -/
def killLanes (cl k : Nat) (s : State) : State :=
  (range' 0 8).foldl (killGran cl k) ((range' 0 8).foldl (leaveGran cl k) s)

/-- The streams of a strand are cancelled. -/
def cancelFor (cl k : Nat) (s : State) : State :=
  match (cancelAll cl k) s with
  | .ok _ t => t
  | .error _ t => t

/-- What a killed strand leaves unfinished (R126): accesses that are issued, and bank-queue entries; an `LKX` ends with its vector queue. -/
def unfinished (st : Strand) : List Strand :=
  let q := (retireBank { st with bankQ := st.bankQ.map (fun e => if e.isLkx then { e with complete := true } else e) }).bankQ
  if q.isEmpty && st.loads.isEmpty && st.stores.isEmpty then []
  else [{ st with vq := [], readQ := [], shadow := [], bankQ := q, run := .run }]

/-- The gang keeps what its killed members leave unfinished. -/
def keepRest (gid : Nat) (l : List Strand) (s : State) : State :=
  { s with gangs := Tab.set s.gangs gid { Tab.get s.gangs gid with rest := (Tab.get s.gangs gid).rest ++ l } }

/-- The member of killed gang `gid` on context `c` ends. -/
def killCtx (gid : Nat) (s : State) (c : Nat) : State :=
  let k := (s.strandAt c).owner
  let s := haltEntries c (settleBank c (drainScalar c s))
  let s := keepRest gid (unfinished (s.strandAt c)) s
  let s := killLanes (clusterOf c) k (cancelFor (clusterOf c) k s)
  (s.setStrand c (freeStrand (s.strandAt c))).raise (.laneGrant (clusterOf c))

/-- What the killed members of gangs have left is carried on; a gang whose last work is done may complete (R126). -/
def settleRest (s : State) : State :=
  let s := settleAway s
  s.gangs.foldl (fun s g =>
    if g.2.rest.isEmpty then s
    else
      let r := g.2.rest.flatMap unfinished
      let s := { s with gangs := Tab.set s.gangs g.1 { g.2 with rest := r } }
      if r.isEmpty then s.raise (.completionWrite g.1) else s) s

/-- Ends a gang with KILLED (R122, R126, R134). -/
def killGang (gid cause : Nat) (s : State) : State :=
  match Tab.find s.gangs gid with
  | none => s
  | some g =>
    let ctxs := (s.strands.filter (fun p => p.2.run != .free && p.2.gang == some gid)).map (fun p => p.1)
    let gone := s.preempted.filter (fun p => p.strand.gang == some gid)
    let s := { s with gangs := Tab.set s.gangs gid { g with killed := some (g.killed.getD cause), stopped := 2 ^ g.size - 1 } }
    let s := ctxs.foldl (killCtx gid) s
    let s := gone.foldl (fun s p =>
      keepRest gid (unfinished p.strand) (killLanes p.cluster p.strand.owner (cancelFor p.cluster p.strand.owner s))) s
    ({ s with preempted := s.preempted.filter (fun p => p.strand.gang != some gid) }).raise (.completionWrite gid)

/-- The head slot of answer queue `q` is taken: the answer in it is raised, and the slot is released (R115, R134). -/
def takeAnswer (q : Nat) (s : State) : State :=
  match Tab.find s.queues q with
  | none => s
  | some u =>
    let (s, a) := physReadFree s (u.slot u.head) 32
    let (s, b) := physReadFree s (u.slot u.head + 32) 32
    let r := a + b * 2 ^ 256
    if imgFld r 0 8 ≠ u.head + 2 ^ 63 then s
    else
      let act := imgFld r 8 2
      let ok := imgFld r 0x0C 4 == 0 && imgFld r 0x18 40 == 0 && (decide (3 ≤ act) || imgFld r 0x0A 2 == 0)
      releaseSlot q (s.raise (.answer (if ok then act else 0) (imgFld r 0x0A 2) (imgFld r 0x10 8)))

/-! ### Pre-emption (R135, R136) -/

/-- The strand's user-visible control registers, as pre-emption saves them (R132; log 14). -/
def savedCrs (s : State) (c : Nat) : List Nat := userCrs.map (fun n => (readCr { s with cur := c } n).toNat)

/-- Writes the control registers into a record that holds the rest already. -/
def writeCrArea (s : State) (a : Nat) (crs : List Nat) : State :=
  (range' 0 8).foldl (fun s j =>
    physWrite s (a + 0x800 + 64 * j) 64 ((range' 0 8).foldr (fun i v => crs.getD (8 * j + i) 0 + v * 2 ^ 64) 0)) s

/-- The Ford pre-empts the strand of context `c` (R135): its bank queue goes on as far as it can, its state goes to its record with W0 = 0x15,
its tap state to its tap area, its context is freed, and its granules become Stale. The record of a parked strand keeps the words of its trap,
and takes only the control registers; R135 does not say (DESIGN CHOICE, log 14). -/
def saveCtx (c : Nat) (s : State) : State :=
  let s := settleBank c (drainScalar c s)
  let s := haltEntries c s
  let st := s.strandAt c
  let cl := clusterOf c
  let crs := savedCrs s c
  let parked := match st.run with | .parked _ => true | _ => false
  let a := st.recordAt 0x805
  let st := haltQueue st
  let s :=
    if parked then writeCrArea s a crs
    else writeRecord s a st
      { epc := st.pc.toNat, ecause := cPREEMPT, eval := 0, estat := st.stat 0x804, w := [0x15, 0, 0, 0], rpc := st.pc.toNat,
        entry := false, ext := [], crs := some crs }
  let s := saveRows (tapArea s st.sid) st s
  let kept : Strand := if parked then st else { clearQueue s.seqNow st with run := .run, deadline := none, yielded := none }
  let grans := grantedTo s cl st.owner
  let s := (range' 0 8).foldl (preemptGran cl st.owner) s
  let s := s.setStrand c (freeStrand st)
  ({ s with preempted := s.preempted ++ [({ strand := kept, cluster := cl, rank := st.rank, grans := grans } : Preempted)] } : State).raise
    (.laneGrant cl)

/-- A trap that a strand takes before it is pre-empted (R137): one of an access that was performed after its instruction, or TIMER. -/
def trapFirst (s : State) (c : Nat) : Option Trap :=
  let st := s.strandAt c
  if (match st.run with | .parked _ => true | _ => false) then none
  else if st.late ≠ [] then some (st.late.headD default)
  else if st.timerDue s.time then some { cause := cTIMER, eval := s.time.toNat } else none

/-- The pre-emption of the strand of context `c` (R135, R137). It waits for accesses that have begun (R205; the Ford comes back to it when they
have come to their end). -/
def preemptCtx (c : Nat) (s : State) : State :=
  if haltWaits { s with cur := c } || begunAccess { s with cur := c } then s
  else
    let s := drainScalar c s
    match trapFirst s c with
    | some t => saveCtx c (onCtx c (fun s => deliver s t) s)
    | none => saveCtx c s

/-- One turn of a cluster's lane allocator, after the gangs that wait for a place (R120, R121, R135). -/
def allocatorTurn (cl : Nat) (s : State) : State := laneTurn cl (placeAll s)

end Sys2Proof.Machine
end

