-- ==== Sys2Proof/Machine/FordRun.lean ====
section
/-! DEFINITION. The steps of the Ford, of the lane allocators and of the trap system that no instruction word names (R113 to R137,
R142, R158, R164, R182, R183). An event whose conditions do not hold does not occur: the state stays as it is. -/

namespace Sys2Proof.Machine

/-- A write of `QEN` (R114). -/
def execQenWrite (v : BitVec 64) (s : State) : Host.Outcome State Fault Refusal := .next (qenWrite v.toNat s)

/-- A monitored line has been written (R116, R183): strands that wait on it read it again, and the Ford reads the head slots on it. -/
def lineFire (line : Nat) (s : State) : State :=
  let s : State := { s with strands := s.strands.map (fun p => if p.2.run = .waitLine line then (p.1, { p.2 with run := .run }) else p) }
  (s.queues.filter (fun p => p.2.kind != 3 && p.2.headLine == line)).foldl (fun s p => s.raise (.admission p.1)) s

/-- `LINE_MONITOR_FIRE` (R183): A write performed at a monitored line wakes the waiting strand or the Ford to re-read the line. -/
def execLineMonitorFire (line : BitVec 46) (s : State) : Host.Outcome State Fault Refusal := .next (lineFire line.toNat s)

/-- The Ford serves the head slot of queue `q`, when it is the next full slot in the order of R116 (R115, R118, R134). -/
def lookAtHead (q : Nat) (s : State) : Host.Outcome State Fault Refusal :=
  if nextFull s ≠ some q then .next s
  else match Tab.find s.queues q with
  | some u => if u.kind = 2 then .next (takeAnswer q s) else runWork (admitHead q) s
  | none => .next s

/-- The Ford serves the next full slot of all queues (R116). -/
def serveNext (s : State) : Host.Outcome State Fault Refusal :=
  match nextFull s with
  | some q => lookAtHead q s
  | none => .next s

/-- `START_RECORD_ADMISSION` (R118): The Ford takes a full slot and runs the admission checks in order, writing a completion on failure. -/
def execStartRecordAdmission (q : BitVec 6) (s : State) : Host.Outcome State Fault Refusal := lookAtHead q.toNat s

/-- A turn of a cluster's lane allocator (R121). -/
def execLaneGrant (cl : BitVec 4) (s : State) : Host.Outcome State Fault Refusal := .next (allocatorTurn cl.toNat s)

/-- A granule has been zeroed (R122). -/
def granZeroed (cl g : Nat) (s : State) : State :=
  match s.gran cl g with
  | .zeroing next => (s.setGran cl g (match next with | some q => .held q | none => .free)).raise (.laneGrant cl)
  | _ => s

/-- `GRANULE_ZEROED` (R122): A granule finishes zeroing its registers and becomes Free or Held. -/
def execGranuleZeroed (cl : BitVec 4) (g : BitVec 3) (s : State) : Host.Outcome State Fault Refusal :=
  .next (granZeroed cl.toNat g.toNat s)

/-- A gang whose last strand has stopped completes (R126, R127). -/
def execCompletionWrite (gid : BitVec 32) (s : State) : Host.Outcome State Fault Refusal := runWork (completeGang gid.toNat) s

/-- The oldest waiting event record is posted (R134). -/
def execHostEventPost (s : State) : Host.Outcome State Fault Refusal := runWork postHead s

/-- The ticket of the host event queue is read again, 10,000 ns after it was found not free (R134). -/
def execHostEventRetry (s : State) : Host.Outcome State Fault Refusal :=
  match s.evRetry with
  | some t => if t ≤ s.time.toNat then runWork postHead { s with evRetry := none } else .next s
  | none => .next s

/-! ### Answers (R134) -/

/-- RESUME: a strand parked on its context goes on from its record; one that is pre-empted waits for its lanes. -/
def answerResume (sid : Nat) (s : State) : State :=
  match parkedCtx s sid, parkedBack s sid with
  | some c, _ => resumeParked c s
  | none, some k =>
    ({ s with preempted := s.preempted.modify k (fun p => { p with strand := { p.strand with run := .run }, eret := true }) }).raise
      (.laneGrant ((s.preempted[k]?.map Preempted.cluster).getD 0))
  | none, none => countAnswer s

/-- `ANSWER_RESUME` (R134): Host answer that resumes a parked strand as by ERET from its record. -/
def execAnswerResume (sid : BitVec 12) (s : State) : Host.Outcome State Fault Refusal := .next (answerResume sid.toNat s)

/-- KILL: the parked strand's gang ends with KILLED. -/
def answerKill (sid : Nat) (s : State) : State :=
  let st := match parkedCtx s sid, parkedBack s sid with
    | some c, _ => some (s.strandAt c)
    | none, some k => s.preempted[k]?.map Preempted.strand
    | none, none => none
  match st with
  | some st => match st.gang with
    | some gid => killGang gid ((st.cr 0x802).toNat % 256) s
    | none => countAnswer s
  | none => countAnswer s

/-- `ANSWER_KILL` (R134): Host answer that ends the parked strand's gang with KILLED. -/
def execAnswerKill (sid : BitVec 12) (s : State) : Host.Outcome State Fault Refusal := .next (answerKill sid.toNat s)

/-- The slot held for an answer's subject. -/
def heldSlot (s : State) (q t : Nat) : Option HeldSlot := s.held.find? (fun h => h.queue == q && h.ticket == t)

/-- ADMIT: the held admission goes on with what its checks have resolved (R118, R479). -/
def answerAdmit (q t : Nat) (s : State) : State :=
  match heldSlot s q t with
  | some h => admitGang { h.gang with age := s.fordNow } s
  | none => countAnswer s

/-- `ANSWER_ADMIT` (R134): Host answer that continues a held admission. -/
def execAnswerAdmit (q : BitVec 16) (t : BitVec 64) (s : State) : Host.Outcome State Fault Refusal := .next (answerAdmit q.toNat t.toNat s)

/-- REJECT: the held admission writes DENIED. -/
def answerReject (q t : Nat) (s : State) : State :=
  match heldSlot s q t with
  | some h => failAdmission h.gang 3 0 s
  | none => countAnswer s

/-- `ANSWER_REJECT` (R134): Host answer that makes a held admission complete with DENIED. -/
def execAnswerReject (q : BitVec 16) (t : BitVec 64) (s : State) : Host.Outcome State Fault Refusal :=
  .next (answerReject q.toNat t.toNat s)

/-- A key rotation (R383, R392): `GEN` + 1 goes to the table entry, which is read again, and the new key serves every later lookup and
insertion. Without a table there is none (R394). -/
def rotateDomain (d : Nat) (s : State) : State :=
  match Tab.find s.domKeys d with
  | none => s
  | some k =>
    let s := { s with domKeys := Tab.set s.domKeys d { k with wait := false } }
    if !hasDomains s then s else
    let gen := ((domainEntry s d).gen + 1) % 2 ^ 32
    (readDomain (physWrite s (domainAt s d + 0x24) 4 gen) d).count 7

/-- PROCEED: a port leaves Retrain wait, or a domain rotates its key. -/
def answerProceed (q subj : Nat) (s : State) : State :=
  if q = 5 then
    match Tab.find s.ports subj with
    | some p => if p.st = 4 then { s with ports := Tab.set s.ports subj { p with st := 3, since := s.time.toNat } } else countAnswer s
    | none => countAnswer s
  else if q = 6 then
    match Tab.find s.domKeys subj with
    | some k => if k.wait then rotateDomain subj s else countAnswer s
    | none => countAnswer s
  else countAnswer s

/-- `ANSWER_PROCEED` (R134): Host answer that releases a port from Retrain wait or lets a domain rotate its key. -/
def execAnswerProceed (q : BitVec 16) (subj : BitVec 64) (s : State) : Host.Outcome State Fault Refusal :=
  .next (answerProceed q.toNat subj.toNat s)

/-- An answer with an `ACTION` outside 1 to 5 or a reserved byte that is not zero: it takes no action and is counted. -/
def execAnswerWithoutSubject (s : State) : Host.Outcome State Fault Refusal := .next (countAnswer s)

/-! ### Traps, pre-emption and timers -/

/-- A trap of cause `cause` with value `eval` is delivered to the strand of context `ctx` (R131). -/
def trapTo (c cause eval : Nat) (s : State) : State :=
  if (s.strandAt c).run = .free ∨ cause = 0 ∨ cPREEMPT ≤ cause ∨ haltWaits { s with cur := c } ∨ begunAccess { s with cur := c } then s
  else onCtx c (fun s => deliver s { cause := cause, eval := eval }) s

/-- `TRAP_DELIVERY` (R131): Halts the vector queue, writes the trap record and enters the handler, parks the strand, or converts to MCHK. -/
def execTrapDelivery (ctx : BitVec 8) (cause : BitVec 8) (eval : BitVec 64) (s : State) : Host.Outcome State Fault Refusal :=
  .next (trapTo ctx.toNat cause.toNat eval.toNat s)

/-- The Ford pre-empts the strand of a context, while the head of the cluster's lane order needs it (R135). -/
def preemptFor (c : Nat) (s : State) : State := if shouldPreempt s c then preemptCtx c s else s

def execPreemption (ctx : BitVec 8) (s : State) : Host.Outcome State Fault Refusal := .next (preemptFor ctx.toNat s)

/-- The place of the pre-empted strand with this `SID`. -/
def preemptedAt (s : State) (sid : Nat) : Option Nat := s.preempted.findIdx? (fun p => p.strand.pool == some sid)

/-- A pre-empted strand resumes, when it is the head of its cluster's lane order and its context and lanes are there (R136). -/
def strandResume (sid : Nat) (s : State) : State :=
  match preemptedAt s sid with
  | none => s
  | some k =>
    match s.preempted[k]? with
    | none => s
    | some p =>
      match headWaiter s (waiters s p.cluster) with
      | some w => if w.who = .back k then allocatorTurn p.cluster s else s
      | none => s

/-- `STRAND_RESUME` (R136): A pre-empted strand resumes on its cluster with restored state and a lane count. -/
def execStrandResume (sid : BitVec 12) (s : State) : Host.Outcome State Fault Refusal := .next (strandResume sid.toNat s)

/-- A strand that sleeps wakes for a trap: at its next boundary `IDLE` has completed (R158), and a wait has ended, to be executed again from
its beginning (R184). -/
def Strand.wakeUp (st : Strand) : Strand :=
  match st.run with
  | .idle _ => { st.advance with run := .run }
  | .waitLine _ => { st with run := .run, deadline := none }
  | _ => st

/-- `TIME` has reached `TCMP`: a TIMER trap is pending for the context, and wakes a strand to which it can be delivered (R141, R142, R158,
R184). One in `IDLE` whose handler is in progress takes it at once (R142). -/
def timerPends (c : Nat) (s : State) : State :=
  let st := { s.strandAt c with timer := true }
  if st.run ≠ .free ∧ st.cr 0x807 ≤ s.time then
    if !st.timerDue s.time then s.setStrand c st
    else if st.pl = 0 ∨ (st.pl = 1 ∧ !bitOf (st.stat 0x804) 4) then s.setStrand c st.wakeUp
    else onCtx c (fun s => trapOr s s { cause := cTIMER, eval := s.time.toNat }) (s.setStrand c st)
  else s

/-- `TIMER_TRAP` (R142): When TIME reaches TCMP a TIMER trap becomes pending for the context. -/
def execTimerTrap (ctx : BitVec 8) (s : State) : Host.Outcome State Fault Refusal := .next (timerPends ctx.toNat s)

/-- `TIME` has reached the deadline of an `IDLE` (R158). -/
def idleOver (c : Nat) (s : State) : State :=
  let st := s.strandAt c
  match st.run with
  | .idle (some t) => if t ≤ s.time.toNat then s.setStrand c { st.advance with run := .run } else s
  | _ => s

/-- `IDLE_DEADLINE` (R158): TIME reaching the IDLE deadline makes the strand ready again. -/
def execIdleDeadline (ctx : BitVec 8) (s : State) : Host.Outcome State Fault Refusal := .next (idleOver ctx.toNat s)

/-- The timeout of a wait has passed (R182): the strand reads once more, and the wait ends with that value. -/
def waitOver (c : Nat) (s : State) : State :=
  let st := s.strandAt c
  match st.run, st.deadline with
  | .waitLine _, some t => if t ≤ s.cyclesOf (clusterOf c) then s.setStrand c { st with run := .run } else s
  | _, _ => s

/-- `WAIT_TIMEOUT` (R182): The timeout of a WAITEQ or WAITNE expires and the wait completes with the last value. -/
def execWaitTimeout (ctx : BitVec 8) (s : State) : Host.Outcome State Fault Refusal := .next (waitOver ctx.toNat s)

end Sys2Proof.Machine
end

