-- ==== Sys2Proof/Machine/EngineRun.lean ====
section
/-! DEFINITION. The steps of the accesses, queues and engines that no instruction word names: what is performed after its instruction
has gone on (R80, R139, R154, R167, R200, R314), the shared cache and its keys (R386 to R394), the stacks' background work (R313, R318,
R319), the copy engines (R361, R363, R370, R372), and the register writes of the tap unit and the sampler (R408, R418, R426). An event
whose conditions do not hold does not occur. -/

namespace Sys2Proof.Machine

/-! ### Scalar accesses, the read queue and the walker -/

/-- A buffered store is performed (R154). -/
def execStorePerformed (ctx : BitVec 8) (k : BitVec 3) (s : State) : Host.Outcome State Fault Refusal :=
  .next (performStore ctx.toNat k.toNat s)

/-- A load or atomic is performed, and its value reaches its register (R144, R154); from 128 on, load `k` − 128 is performed before the final read
of the plain wait that stands just before it (R99, R192). -/
def execLoadPerformed (ctx : BitVec 8) (k : BitVec 8) (s : State) : Host.Outcome State Fault Refusal :=
  .next (if 128 ≤ k.toNat then performEarly ctx.toNat (k.toNat - 128) s else performLoad ctx.toNat k.toNat s)

/-- The oldest produced result of a read queue is written back (R167). -/
def writeBackOne (st : Strand) : Strand :=
  match st.readQ.find? (fun e => e.val.isSome) with
  | some e =>
    let v := e.val.getD 0
    let st := { st with readQ := st.readQ.erase e }
    let st := st.setX e.dst v
    if e.cv then st.setX e.cpy v else st
  | none => st

/-- `READ_QUEUE_WRITEBACK` (R167): A vector-queue scalar result is written to x[d] and the read-queue entry ends. -/
def execReadQueueWriteback (ctx : BitVec 8) (s : State) : Host.Outcome State Fault Refusal :=
  .next (s.setStrand ctx.toNat (writeBackOne (s.strandAt ctx.toNat)))

/-- The walker completes a walk for a strand's address space (R80, R84): the cluster's TLB keeps the translation. A walk that faults
leaves nothing; the access itself traps when it is made. -/
def walkFor (c va kind : Nat) (s : State) : State :=
  let st := s.strandAt c
  if 2 ^ 55 ≤ va then s
  else match (do
      let e ← walk st.asid va kind
      let own := ((← get).pkr 0x440).toNat % 128
      checkRegion own va kind e
      pure e) s with
    | .ok e t => { t with tlb := tlbInsert t.tlb (unitCluster (clusterOf c)) e }
    | .error _ t => t

/-- `TABLE_WALK` (R80): The walker completes a translation walk, filling the TLB or faulting. -/
def execTableWalk (ctx : BitVec 8) (va : BitVec 64) (kind : BitVec 4) (s : State) : Host.Outcome State Fault Refusal :=
  .next (walkFor ctx.toNat va.toNat kind.toNat s)

/-! ### The vector queue and the bank queue -/

/-- Carries out vector-queue work of a context; a trap of an entry is taken by its strand (R131, R205). -/
def vqWork (c : Nat) (m : M Unit) (s : State) : Host.Outcome State Fault Refusal :=
  match m { s with cur := c } with
  | .ok _ t => .next { t with cur := s.cur }
  | .error (.trap x) t => .next { trapOr { s with cur := c } t x with cur := s.cur }
  | .error .wait t => .next { t with cur := s.cur }
  | .error (.fault f) _ => .fault f
  | .error (.refuse r) _ => .refused r

/-- An entry of a vector queue goes on by some elements, each result group with its last element (R201 to R206). -/
def execVqGroupWrite (ctx : BitVec 8) (w : GroupWork) (s : State) : Host.Outcome State Fault Refusal :=
  vqWork ctx.toNat (workEntry vopOf w.k.toNat w.n.toNat w.skip.toNat) s

/-- A complete entry at the head retires, and releases its claim (R200, R362). -/
def execVqEntryRetire (ctx : BitVec 8) (s : State) : Host.Outcome State Fault Refusal :=
  vqWork ctx.toNat (retireHead releaseClaim) s

/-- An entry of a bank queue goes on by some rows or strips in one stack, or reaches the stack's sequencer; an entry that is complete at every
bank leaves its records and retires (R312 to R314, R343). That of a strand on no context goes on likewise (R20). -/
def execBankEntryComplete (w : PassWork) (s : State) : Host.Outcome State Fault Refusal :=
  let work := fun (c : Nat) (s : State) =>
    let s := bankWork c w.k.toNat w.n.toNat [w.stack.toNat] s
    s.setStrand c (retireBank (s.strandAt c))
  .next (if w.ctx.toNat < 256 then work w.ctx.toNat s else onAway (w.ctx.toNat - 256) work s)

/-! ### The stacks (R313, R316 to R319) -/

/-- A write of the low doubleword of a bank's `BERR` (R318). -/
def execBerrWrite (bank : BitVec 12) (v : BitVec 64) (s : State) : Host.Outcome State Fault Refusal :=
  .next (berrClear s bank.toNat v.toNat)

/-- A refresh changes no result and is counted (R33, R319). -/
def execRefresh (_bank : BitVec 12) (s : State) : Host.Outcome State Fault Refusal := .next (s.count 0)

/-- An alert is answered: no result changes, and it is counted (R33, R319). -/
def execActivationCountMitigation (_bank : BitVec 12) (s : State) : Host.Outcome State Fault Refusal := .next (s.count 1)

/-- The physical address of a bank's word (R302). -/
def bankWord (bank row col : Nat) : Nat := bank / 512 * 2 ^ 36 + row * 2 ^ 19 + bank % 512 * 2 ^ 10 + col * 32

/-- One word of a scrubbed row: a corrected word is written back, and an uncorrectable one is recorded (R317 to R319). -/
def scrubWord (s : State) (pa : Nat) : State :=
  match Tab.find s.wordErr (pa / 32) with
  | none => s
  | some _ => match (s.eccOf (pa / 32)).1 with
    | 0 => s
    | 1 => (markWord (correctWord (countCorrected s pa) pa) pa false).count 3
    | _ => (recordBerr s pa 2 0 0).count 4

/-- A row is scrubbed (R319). -/
def scrubRow (bank row : Nat) (s : State) : State :=
  ((range' 0 32).foldl (fun s col => scrubWord s (bankWord bank row col)) s).count 2

/-- `PATROL_SCRUB` (R319): Reads one row of a bank and writes back the corrected words. -/
def execPatrolScrub (bank : BitVec 12) (row : BitVec 17) (s : State) : Host.Outcome State Fault Refusal :=
  .next (scrubRow bank.toNat row.toNat s)

/-- A held bank opens a visit for the centre, once in four rows; the access that it serves takes it (R313). A bank that is not held serves the
centre in any case. -/
def execCentreVisit (bank : BitVec 12) (s : State) : Host.Outcome State Fault Refusal :=
  .next (
    let b := s.bank bank.toNat
    match b.held, b.visit with
    | some k, some (j, _) => if j / 4 < k / 4 then s.setBank bank.toNat (b.served none) else s
    | some _, none => s.setBank bank.toNat (b.served none)
    | none, _ => s)

/-! ### The shared cache (R386 to R394) -/

/-- A line of stack DRAM is installed at its home (R386, R387). -/
def execCacheFill (line : BitVec 46) (dom : BitVec 16) (s : State) : Host.Outcome State Fault Refusal :=
  .next (if isDram (line.toNat * 64) then fillLine s line.toNat dom.toNat else s)

/-- A line is evicted (R386, R390). -/
def execCacheEviction (line : BitVec 46) (s : State) : Host.Outcome State Fault Refusal := .next (evictLine s line.toNat)

/-- The key under which a data entry is indexed is no longer its domain's (R392). -/
def staleKey (s : State) (en : CEntry) : Bool :=
  match Tab.find s.domKeys (if en.key.1 = 65536 then 0xFFFF else en.key.1) with
  | some k => k.gen != en.key.2
  | none => false

/-- The sealer removes an entry that is indexed under an old key from the index; its tags and its count stay (R392). -/
def dropStale (e : Nat) (s : State) : State :=
  match Tab.find s.entries e with
  | some en => if en.ix && staleKey s en then unindex s e else s
  | none => s

/-- The background sealer seals a line that has been in state U for 4,096 core cycles of its quadrant since its last write (R389); the entry of a sealed line leaves the index where its key is an old one (R392). -/
def backgroundSeal (line : Nat) (s : State) : State :=
  match Tab.find s.lines line with
  | none => s
  | some ln =>
    if ln.st = 1 ∧ ln.wt + 4096 ≤ s.cyclesOf (16 + quadOf line) then
      sealCounted s line
    else if ln.st = 2 then dropStale ln.ent s
    else s

/-- `SEAL` (R389): The background sealer seals an unsealed line, sharing or indexing its entry, or abandons it. -/
def execSeal (line : BitVec 46) (s : State) : Host.Outcome State Fault Refusal := .next (backgroundSeal line.toNat s)

/-- A domain's rotation period ends (R392): its key rotates, or the rotation waits for the host. -/
def rotationDue (d : Nat) (s : State) : State :=
  match Tab.find s.domKeys d with
  | none => s
  | some k =>
    if !hasDomains s || !k.valid || k.rotp == 0 || k.wait || decide (s.time.toNat < k.due) then s
    else if bitOf (s.pkr 0x800).toNat 6 then
      postEvent { s with domKeys := Tab.set s.domKeys d { k with wait := true } }
        { kind := 6, queue := 0, subject := d, ecause := 0, eval := 0, trec := 0 }
    else rotateDomain d s

/-- `KEY_ROTATION` (R392): A domain's rotation period ends; the key generation advances or the rotation waits for the host. -/
def execKeyRotation (dom : BitVec 16) (s : State) : Host.Outcome State Fault Refusal := .next (rotationDue dom.toNat s)

/-- A write of `DDRLD` (R392, R394): the domain's entry is read again, and its indexed entries leave the index. -/
def reloadDomain (d : Nat) (s : State) : State :=
  let id := if d = 0xFFFF then 65536 else d
  let s := s.entries.foldl (fun s e => if e.2.ix && e.2.key.1 == id then unindex s e.1 else s) s
  ({ readDomain s d with ddrldBusy := some d }).raise .ddrldDone

/-- `DDRLD_WRITE` (R394): A write reloads one domain's table entry in every quadrant. -/
def execDdrldWrite (v : BitVec 64) (s : State) : Host.Outcome State Fault Refusal :=
  .next (if s.ddrldBusy.isSome then s else reloadDomain (v.toNat % 65536) s)

/-- The reload is complete in every quadrant (R394). -/
def execDdrldReloadComplete (s : State) : Host.Outcome State Fault Refusal := .next { s with ddrldBusy := none }

/-! ### The copy engines (R361, R363, R370, R372) -/

/-- A strip is fetched into an empty half, or fails (R361). -/
def execStripFetch (eng : BitVec 4) (k : BitVec 3) (s : State) : Host.Outcome State Fault Refusal :=
  runWork (fetchStrip (slotKey eng.toNat k.toNat)) s

/-- The oldest operation of a write stream that is not released reads its source (R363). -/
def execWriteOperationReleased (eng : BitVec 4) (k : BitVec 3) (s : State) : Host.Outcome State Fault Refusal :=
  runWork (do
    let key := slotKey eng.toNat k.toNat
    if (← getSlot key).write ∧ (← getSlot key).up.isNone then opReleasedStep key) s

/-- The destination writes of a write stream's released operations are made (R363): what is performed is visible at every scope of the
package. -/
def execWriteOperationVisible (eng : BitVec 4) (k : BitVec 3) (_scope : BitVec 3) (s : State) : Host.Outcome State Fault Refusal :=
  runWork (do
    let key := slotKey eng.toNat k.toNat
    if (← getSlot key).write ∧ (← getSlot key).up.isNone then opVisibleStep key) s

/-- A cancelled stream's chain has drained, and its slots are Free (R370). -/
def execSlotDrained (eng : BitVec 4) (k : BitVec 3) (s : State) : Host.Outcome State Fault Refusal :=
  runWork (do
    let key := slotKey eng.toNat k.toNat
    if (← getSlot key).draining then drainChain key
    modify recheckGangs) s

/-- An engine access of the oldest operation of a write stream fails (R372): the stream holds it as Faulted. -/
def engineFails (key va code : Nat) (s : State) : State :=
  match Tab.find s.slots key with
  | none => s
  | some p =>
    match p.ops with
    | o :: _ =>
      if p.write && p.fault.isNone && !p.draining then
        { s with slots := Tab.set s.slots key { p with fault := some { reason := 10, w1 := o.ticket, va := va, w3 := code, out := o.released } } }
      else s
    | [] => s

/-- `ACCESS_FAILURE` (R372): An engine access of a write operation fails, putting the stream in the Faulted state and holding the failed access. -/
def execAccessFailure (eng : BitVec 4) (k : BitVec 3) (va : BitVec 64) (code : BitVec 8) (s : State) :
    Host.Outcome State Fault Refusal := .next (engineFails (slotKey eng.toNat k.toNat) va.toNat code.toNat s)

/-! ### Register writes of the tap unit and the sampler -/

/-- A write of an `SQM` register by the current strand (R408, R426). -/
def execSqmWrite (n : BitVec 2) (v : BitVec 64) (s : State) : Host.Outcome State Fault Refusal :=
  .next (s.mapSt (sqmWrite n.toNat v.toNat))

/-- A write of `TRSW` by the current strand (R408, R418). -/
def execTrswWrite (v : BitVec 64) (s : State) : Host.Outcome State Fault Refusal := .next (s.mapSt (trswWrite v.toNat))

/-- A write of `SUC` by the current strand (R426). -/
def execSucWrite (v : BitVec 64) (s : State) : Host.Outcome State Fault Refusal := .next (s.mapSt (sucWrite v.toNat))

end Sys2Proof.Machine
end

