-- ==== Sys2Proof/Machine/FabricRun.lean ====
section
/-! DEFINITION. The steps of the fabric ports, of transactions between packages and of the host attachment (R450 to R466). An event
whose conditions do not hold does not occur. -/

namespace Sys2Proof.Machine

/-! ### Ports (R450, R451) -/

/-- A port; one that is not listed is Down. -/
def State.port (s : State) (p : Nat) : Port := Tab.getD s.ports p { st := 0, peer := 0, nrt := 0, rxSeq := 0, since := 0 }

def State.setPort (s : State) (p : Nat) (x : Port) : State := { s with ports := Tab.set s.ports p x }

/-- A port enters a state at the current `TIME`. -/
def portTo (p st : Nat) (s : State) : State :=
  let q := s.port p
  s.setPort p { q with st := st, since := s.time.toNat, upAt := if st = 2 then s.fordNow else q.upAt }

/-- The flit layer of a port starts afresh (R450). -/
def resetFlits (p : Nat) (s : State) : State := s.setPort p { s.port p with rxSeq := 0, txSeq := 0, replay := [], backlog := [] }

/-- What waits goes out as far as the replay buffer has room. -/
def drainBacklog (p : Nat) : Nat → State → State
  | 0, s => s
  | n + 1, s =>
    match (s.port p).backlog with
    | [] => s
    | m :: r => if 256 ≤ (s.port p).replay.length then s else
      let q := s.port p
      let k := (q.txSeq + 1) % 256
      drainBacklog p n ((s.setPort p { q with txSeq := k, replay := q.replay ++ [(k, m)], backlog := r }).send m)

/-- An acknowledgement arrives: every flit up to the sequence number leaves the replay buffer (R24, R450). -/
def ackFlits (p ack : Nat) (s : State) : State :=
  let q := s.port p
  match q.replay with
  | [] => s
  | (f, _) :: _ =>
    let k := (ack + 256 - f) % 256 + 1
    if q.replay.length < k then s
    else drainBacklog p q.backlog.length (s.setPort p { q with replay := q.replay.drop k })

/-- The flits that are not acknowledged go out again (R450, R451). -/
def replayFlits (p : Nat) (s : State) : State := (s.port p).replay.foldl (fun s f => s.send f.2) s

/-- Outstanding transactions that `hit` names are to be sent again (R456). -/
def resendAll (hit : Txn → Bool) (s : State) : State :=
  (s.txns.filter (fun t => t.done.isNone && t.home != 127 && hit t)).foldl (fun s t => s.raise (.tagResend t.home t.tag)) s

/-- A port has failed: what it carried goes on another port (R456). -/
def portFails (p : Nat) (s : State) : State := resendAll (fun t => decide (1 ≤ t.st) && t.port == p) (resetFlits p (portTo p 5 s))

/-- Machine firmware enables a port (R451). -/
def portEnable (p : Nat) (s : State) : State := if (s.port p).st = 0 ∨ (s.port p).st = 5 then portTo p 1 s else s

/-- `PORT_ENABLE` (R451): Machine firmware enables or re-enables a fabric port into Training. -/
def execPortEnable (p : BitVec 7) (s : State) : Host.Outcome State Fault Refusal := .next (portEnable p.toNat s)

/-- The route table wires port `p` to package `peer` (R452). -/
def routed (s : State) (peer p : Nat) : Bool :=
  decide (peer < 127) && bitOf (s.peekLE (routeAt s peer) 16) p

/-- Training ends. With a partner of the route table (R451) that offers a supported flit format the port is Up, and what waits for it is sent; a
partner that offers none leaves the port Down (R450; log 48). Where 10,000,000 ns have passed, the port has failed (R451). -/
def trainingDone (p peer : Nat) (offers : Bool) (s : State) : State :=
  if (s.port p).st ≠ 1 then s
  else if (s.port p).since + 10000000 ≤ s.time.toNat then portFails p s
  else if !offers then portTo p 0 s
  else if routed s peer p then
    let s := resetFlits p (portTo p 2 (noteRead s (routeAt s peer) 16))
    resendAll (fun t => t.waitAt.isSome) (s.setPort p { s.port p with peer := peer })
  else s

/-- `TRAINING_COMPLETE` (R451): A port completes training with a routed partner and goes Up. -/
def execTrainingComplete (p : BitVec 7) (peer : Partner) (s : State) : Host.Outcome State Fault Refusal :=
  .next (trainingDone p.toNat peer.pkg.toNat (peer.offers == 1) s)

/-- Training has not succeeded within 10,000,000 ns (R451). -/
def trainingLate (p : Nat) (s : State) : State :=
  if (s.port p).st = 1 ∧ (s.port p).since + 10000000 ≤ s.time.toNat then portFails p s else s

/-- `TRAINING_TIMEOUT` (R451): Training does not succeed within 10,000,000 ns and the port fails. -/
def execTrainingTimeout (p : BitVec 7) (s : State) : Host.Outcome State Fault Refusal := .next (trainingLate p.toNat s)

/-- An Up port has too many CRC failures, or its lanes have lost lock (R27, R451): it retrains, or waits for the host. The port leaves
Up, so what it carried is sent again on the port that R452 then selects (R456). -/
def linkError (p : Nat) (s : State) : State :=
  if (s.port p).st = 2 then
    let held := bitOf (s.pkr 0x800).toNat 5
    let s := portTo p (if held then 4 else 3) s
    let s := (s.setPort p { s.port p with nrt := min ((s.port p).nrt + 1) 0xFFFF }).count 10
    let s := resendAll (fun t => decide (1 ≤ t.st) && t.port == p) s
    if held then postEvent s { kind := 5, queue := 0, subject := p, ecause := 0, eval := 0, trec := 0 } else s
  else s

/-- `LINK_ERROR_DETECTED` (R451): CRC failures or lost lock send an Up port to Retrain or Retrain wait. -/
def execLinkErrorDetected (p : BitVec 7) (s : State) : Host.Outcome State Fault Refusal := .next (linkError p.toNat s)

/-- Retraining completes: the port is Up, and replay resumes; where 2,000,000 ns have passed, the port has failed (R451). -/
def retrainDone (p : Nat) (s : State) : State :=
  if (s.port p).st ≠ 3 then s
  else if (s.port p).since + 2000000 ≤ s.time.toNat then portFails p s
  else resendAll (fun t => t.waitAt.isSome) (replayFlits p (portTo p 2 s))

/-- `RETRAIN_COMPLETE` (R451): Retraining completes and replay resumes from the last acknowledged flit. -/
def execRetrainComplete (p : BitVec 7) (s : State) : Host.Outcome State Fault Refusal := .next (retrainDone p.toNat s)

/-- Retraining has not completed within 2,000,000 ns (R451). -/
def retrainLate (p : Nat) (s : State) : State :=
  if (s.port p).st = 3 ∧ (s.port p).since + 2000000 ≤ s.time.toNat then portFails p s else s

/-- `RETRAIN_TIMEOUT` (R451): Retraining does not complete within 2,000,000 ns and the port fails. -/
def execRetrainTimeout (p : BitVec 7) (s : State) : Host.Outcome State Fault Refusal := .next (retrainLate p.toNat s)

/-- Calibration never changes a port's state and is counted (R32, R33, R451). -/
def execLinkCalibration (_p : BitVec 7) (s : State) : Host.Outcome State Fault Refusal := .next (s.count 5)

/-- A flit arrives at an Up port (R450, R451), with the partner's acknowledgement `ack` and, where `nak`, its request to replay what follows
it. One with a good CRC and the next sequence number is accepted and acknowledged; one that was accepted before is dropped and acknowledged;
at a damaged one, or a gap, replay is requested. The messages of an accepted flit are then there to be acted on. Sequence numbers have 8 bits
(PRESUMED, log 59). -/
def flitIn (p seq : Nat) (good : Bool) (ack : Nat) (nak : Bool) (msgs : Nat) (s : State) : State :=
  if (s.port p).st ≠ 2 then s
  else
    let q := s.port p
    if !good then s.send (.flitNak p q.rxSeq)
    else
      let s := ackFlits p ack s
      let s := if nak then replayFlits p s else s
      if seq = (q.rxSeq + 1) % 256 then (s.setPort p { s.port p with rxSeq := seq, ready := (s.port p).ready + msgs }).send (.flitAck p seq)
      else if (q.rxSeq + 256 - seq) % 256 < 128 then s.send (.flitAck p q.rxSeq)
      else s.send (.flitNak p q.rxSeq)

/-- `FLIT_RECEIVE` (R450): A flit arrives: it is checked, acknowledged, replayed or dropped as a duplicate. -/
def execFlitReceive (p : BitVec 7) (seq : BitVec 8) (f : FlitTail) (s : State) :
    Host.Outcome State Fault Refusal :=
  .next (flitIn p.toNat seq.toNat (f.crcOk == 1) f.ack.toNat (f.nak == 1) f.msgs.toNat s)

/-- A message of an accepted flit is acted on; while no accepted flit has brought one, none is there (R450, R451). -/
def takeMessage (p : Nat) (f : State → State) (s : State) : State :=
  if (s.port p).ready = 0 then s else f (s.setPort p { s.port p with ready := (s.port p).ready - 1 })

/-! ### Requests from other packages (R453, R456, R457) -/

/-- The bytes of a request that lie in one 32-byte word: at offset `o` of the request, `n` bytes from address `a`. A word that is
written whole is one write; otherwise its bytes are written. -/
def writeBytes (r : Req) (a n v be : Nat) (s : State) : State :=
  let put := fun (s : State) (a n v : Nat) =>
    if r.br then bankWrite s a n v else homeWrite s (a / 64) r.dom (a % 64) n v
  if be % 2 ^ n = 2 ^ n - 1 then put s a n v
  else (range' 0 n).foldl (fun s i => if bitOf be i then put s (a + i) 1 (fld v (8 * i) 8) else s) s

/-- A remote write is performed (R453): the bytes that `be` marks, from address `pa` on. All 64 bytes of a line are one write (R386). -/
def writeReq (r : Req) (s : State) : State :=
  if !r.br && r.pa % 64 == 0 && r.be % 2 ^ 64 == 2 ^ 64 - 1 then homeWrite s (r.pa / 64) r.dom 0 64 r.data
  else (wordPieces r.pa (64 - r.pa % 64) 65).foldl (fun s p => writeBytes r (r.pa + p.1) p.2 (fld r.data (8 * p.1) (8 * p.2)) (fld r.be p.1 p.2) s) s

/-- A read at the home: the bytes from address `a`, and the address of an uncorrectable word among them, if there is one (R388). -/
def readBytes (r : Req) (a n : Nat) (s : State) : State × Nat × Bool :=
  if r.br then bankRead s a n else homeRead s (a / 64) r.dom (a % 64) n

/-- The bytes that a request's mask spans. -/
def spanOf (be : Nat) : Nat := (lowest (fun i => decide (be < 2 ^ i)) 65).getD 64

/-- A remote read (R454): the data, or the first uncorrectable word. A word of which the request marks no byte is not read. -/
def readReq (r : Req) (s : State) : State × Nat × Option Nat :=
  (wordPieces r.pa (min (spanOf r.be) (64 - r.pa % 64)) 65).foldl (fun (acc : State × Nat × Option Nat) p =>
    if fld r.be p.1 p.2 = 0 then acc else
    let (s, v, bad) := readBytes r (r.pa + p.1) p.2 acc.1
    (s, acc.2.1 + v * 2 ^ (8 * p.1), match acc.2.2 with | some a => some a | none => if bad then some ((r.pa + p.1) / 32 * 32) else none))
    (s, 0, none)

/-- The data of an error completion: the word's address, and its bank from bit 52 on (R388). -/
def errData (a : Nat) : Nat := a + bankOf a * 2 ^ 52

/-- The offsets of a request's atomics in its line, in ascending order: each is as wide as the request says, and its first byte is marked. -/
def Req.atoms (r : Req) : List Nat := (range' 0 (64 - r.pa % 64)).filter (fun o => o % 2 ^ r.size == 0 && bitOf r.be o)

/-- The old values of a request's atomics, each at its offset, or the first uncorrectable word. -/
def readAtoms (r : Req) : List Nat → State → State × Except Nat Nat
  | [], s => (s, .ok 0)
  | o :: l, s =>
    let (s, old, bad) := readBytes r (r.pa + o) (2 ^ r.size) s
    if bad then (s, .error ((r.pa + o) / 32 * 32))
    else match readAtoms r l s with
      | (s, .ok v) => (s, .ok (setFld v (8 * o) (8 * 2 ^ r.size) old))
      | x => x

/-- One atomic of a request writes its new value: the operand stands at its offset in the data, the expected value of a `CAS` behind it. -/
def writeAtom (r : Req) (olds : Nat) (s : State) (o : Nat) : State :=
  let n := 2 ^ r.size
  let v := amoNew (r.op - 2) n (fld olds (8 * o) (8 * n)) (fld r.data (8 * o) (8 * n)) (fld r.data (8 * (o + n)) (8 * n))
  if r.br then bankWrite s (r.pa + o) n v else homeWrite s ((r.pa + o) / 64) r.dom ((r.pa + o) % 64) n v

/-- A write, or the atomics of one line, are performed (R454, R457): the state, the completion's data, which are the old values, and its error.
Where a word of theirs is uncorrectable, none of the atomics is performed (R388). -/
def performReq (r : Req) (s : State) : State × Nat × Nat :=
  if r.op = 1 then (writeReq r s, 0, 0)
  else match readAtoms r r.atoms s with
    | (s, .error a) => (s, errData a, 3)
    | (s, .ok olds) => (r.atoms.foldl (writeAtom r olds) s, olds, 0)

/-- A request that this home can perform: a read, write or atomic of bytes of one line of its stack DRAM, naturally aligned where it
is an atomic, under a WB or BR leaf. -/
def requestOk (r : Req) (mt : Nat) : Bool :=
  isDram r.pa && decide (mt ≤ 1) && decide (r.op ≤ 11) && (decide (r.op < 2) || r.pa % 2 ^ r.size == 0 && decide (2 ≤ r.size))

/-- An answer goes back to the requesting package as a flit, on the port that R452 gives its tag; where the route table shows no Up port for it,
it is handed over as it is. -/
def sendBack (r : Req) (m : OutMsg) (s : State) : State :=
  let s := noteRead s (routeAt s r.src) 16
  match portFor s r.src r.tag with
  | some p => sendFlit p m s
  | none => s.send m

/-- A request is performed and answered; a write or atomic leaves its completion in the slot of its tag (R454, R457). -/
def performRequest (r : Req) (s : State) : State :=
  if r.op = 0 then
    let (s, v, bad) := readReq r s
    sendBack r (match bad with | none => .completion r.src r.tag 0 v | some a => .completion r.src r.tag 3 (errData a)) s
  else
    let (s, v, err) := performReq r s
    let key := r.src * 4096 + r.tag % 4096
    sendBack r (.completion r.src r.tag err v)
      (if ((Tab.find s.window key).map WinSlot.tag).getD r.tag = r.tag then
        { s with window := Tab.set s.window key { tag := r.tag, fin := true, data := v, err := err } }
      else s)

/-! ### Inbound accesses of the host (R463 to R465) -/

/-- The address of a connection's entry. -/
def connAt (s : State) (conn : Nat) : Nat := (s.pkr 0x856).toNat / 65536 * 65536 + 64 * conn

/-- A connection admits an inbound access to `n` bytes at `va` (R464). -/
def inboundOk (s : State) (conn va n : Nat) : Bool :=
  let r := connAt s conn
  let fl := s.peekLE (r + 4) 1
  s.pkr 0x856 / 65536 != 0 && bitOf fl 0 && bitOf fl 1 && decide (s.peekLE (r + 0x10) 8 ≤ va) && decide (va + n ≤ s.peekLE (r + 0x18) 8 + 1)

/-- The accessor of an inbound access (R464; log 16): the connection's address space and domain, user level, the copy engine's row of R82. -/
def inboundAcc (a : Acc) (s : State) (conn : Nat) : Acc :=
  let r := connAt s conn
  { fordAcc a (s.peekLE (r + 8) 2) with dom := s.peekLE (r + 0x0A) 2, who := 12800 + conn }

/-- Runs an inbound access, and answers: with `good` of what it gives, or with a remote access NAK. With it, whether the access is over: it waits
for a held bank (R313), and for what it has itself sent out of the package, which is all that it leaves then. -/
def inbound {α : Type} (conn : Nat) (m : M (Except (AccErr × Nat) α)) (good : α → OutMsg) (s : State) : State × Bool :=
  let past := fun (t : State) => t.endAccess (12800 + conn)
  match m s with
  | .ok (.ok v) t => ((past t).send (good v), true)
  | .ok (.error _) t => ((past t).send (.nak conn 0), true)
  | .error .wait t => (if t.txns.length = s.txns.length then s else t, false)
  | .error _ t => ((past t).send (.nak conn 0), true)

/-- The maximal runs of marked bytes of a line: (offset, length). -/
def runsOf (be : Nat) : List (Nat × Nat) :=
  (range' 0 64).foldr (fun i l =>
    if bitOf be i then
      match l with
      | (o, k) :: r => if o = i + 1 then (i, k + 1) :: r else (i, 1) :: l
      | [] => [(i, 1)]
    else l) []

/-- The marked bytes of a line that lies in host memory are written run by run. -/
def writeRuns (dom : Nat) (x : Xl) (va data : Nat) : List (Nat × Nat) → M (Except (AccErr × Nat) Unit)
  | [] => pure (.ok ())
  | (o, k) :: r => do
    match ← writeWordAt { x with pa := x.pa + o } k dom (va + o) (fld data (8 * o) (8 * k)) false with
    | .error e => pure (.error (e, va + o))
    | .ok _ => writeRuns dom x va data r

/-- A line of an RDMA WRITE (R465): the bytes of the aligned line of `va` that `be` marks are performed as one write. -/
def rdmaWrite (conn va data be : Nat) (s : State) : State × Bool :=
  let s := noteRead s (connAt s conn) 64
  let line := va / 64 * 64
  let lo := (lowest (bitOf be) 64).getD 0
  let n := spanOf be - lo
  if be = 0 ∨ !inboundOk s conn (line + lo) n then (s.send (.nak conn 0), true)
  else
    let a := inboundAcc Acc.copyWrite s conn
    inbound conn (do
      let x ← xlate1 a line
      match x.place with
      | .remote h => do
        match ← remoteAccess x.who a.dom h 1 x.pa x.mt 64 data be line false with
        | .ok _ => pure (.ok ())
        | .error e => pure (.error (e, line))
      | .host _ => writeRuns a.dom x line data (runsOf be)
      | _ => do
        if !x.place.isOpen (← get) x.pa then wait
        let r : Req := { src := 0, tag := 0, op := 1, size := 0, pa := x.pa, br := x.place == .bank, dom := a.dom, data := data, be := be }
        modify (writeReq r)
        pure (.ok ())) (fun _ => .rdmaAck conn) s

/-- An RDMA READ (R464): the data, or a NAK. -/
def rdmaRead (conn va len : Nat) (s : State) : State × Bool :=
  let s := noteRead s (connAt s conn) 64
  if !inboundOk s conn va len then (s.send (.nak conn 0), true)
  else inbound conn (readRange (inboundAcc Acc.copyRead s conn) va len) (fun v => .rdmaData conn len v) s

/-! ### The order of arrival (R313, R453, R465) -/

/-- Where a message waits: at its port, or at its connection. -/
def Inbound.lane : Inbound → Nat
  | .request p _ => p
  | .write c _ _ _ => 128 + c
  | .read c _ _ => 128 + c

/-- A message is performed, as far as it can be; and whether it is over: it may have to wait for a held bank (R313), or for what it sends itself. -/
def Inbound.serve : Inbound → State → State × Bool
  | .request _ r, s => if !r.br || centreOpen s r.pa then (performRequest r s, true) else (s, false)
  | .write c va d be, s => rdmaWrite c va d be s
  | .read c va n, s => rdmaRead c va n s

/-- A message arrives: it is performed at once when none waits before it and it need not wait, or else takes its place behind them. With
`defer`, it always waits for its turn (log 7). -/
def arrive (m : Inbound) (s : State) : State :=
  let queued := fun (s : State) => { s with inbox := s.inbox ++ [m] }
  if s.defer || s.inbox.any (fun x => x.lane == m.lane) then queued s
  else match m.serve s with
    | (t, true) => t
    | (t, false) => queued t

/-- The first message of a lane, without which the others remain, is performed if it can be. -/
def serveLane (l : Nat) (s : State) : State :=
  match s.inbox.find? (fun m => m.lane == l) with
  | none => s
  | some m => match m.serve { s with inbox := s.inbox.eraseP (fun m => m.lane == l) } with
    | (t, true) => t
    | (t, false) => { t with inbox := s.inbox }

/-- A lane whose first message can be performed, or can send what it needs. -/
def readyLane (s : State) : Option Nat :=
  (s.inbox.find? (fun m => (s.inbox.find? (fun x => x.lane == m.lane)) == some m
    && (let (t, gone) := m.serve s; gone || t.txns.length != s.txns.length))).map Inbound.lane

/-! ### Arrivals from other packages (R452, R453, R457) -/

/-- A message for another package number is dropped and counted: the S9 never forwards traffic (R452). -/
def forUs (dst : Nat) (f : State → State) (s : State) : State := if dst = (s.pkr 0x440).toNat % 128 then f s else s.count 9

/-- An admitted request joins its port's queue (R453). -/
def queueRequest (port : Nat) (r : Req) (s : State) : State :=
  arrive (.request port r)
    (if r.op = 0 then s
     else { s with window := Tab.set s.window (r.src * 4096 + r.tag % 4096) { tag := r.tag, fin := false, data := 0, err := 0 } })

/-- The queue of a port is full: 256 requests wait in it (R453), and the next one is taken from its flit when there is room. -/
def queueFull (s : State) (port : Nat) : Bool := decide (256 ≤ (s.inbox.filter (fun m => m.lane == port)).length)

/-- A home admits a request on a port, performs it once under its tag, or refuses it (R453, R457). -/
def requestArrives (port : Nat) (r : Req) (mt : Nat) (s : State) : State :=
  let adm := (s.pkr 0x851).toNat + (s.pkr 0x852).toNat * 2 ^ 64
  if !bitOf adm r.src || !requestOk r mt then sendBack r (.refusal r.src r.tag) s
  else if r.op = 0 then queueRequest port r s
  else
    match Tab.find s.window (r.src * 4096 + r.tag % 4096) with
    | none => queueRequest port r s
    | some w =>
      let d := (r.tag + 65536 - w.tag) % 65536
      if d = 0 then (if w.fin then sendBack r (.completion r.src r.tag w.err w.data) s else s)
      else if d ≤ 32768 then queueRequest port r s
      else s

/-- `REMOTE_REQUEST_ARRIVAL` (R457): A home admits a remote request, performs it once under its tag window, or refuses it. -/
def execRemoteRequestArrival (src : Sender) (tag : BitVec 16) (op : BitVec 5) (size : BitVec 2)
    (pa : BitVec 52) (mt : BitVec 2) (dom : BitVec 16) (data : BitVec 512) (be : BitVec 64) (s : State) : Host.Outcome State Fault Refusal :=
  .next (if queueFull s src.port.toNat then s
    else takeMessage src.port.toNat (forUs src.dst.toNat (requestArrives src.port.toNat
      { src := src.src.toNat, tag := tag.toNat, op := op.toNat, size := size.toNat, pa := pa.toNat, br := mt == 1,
        dom := dom.toNat, data := data.toNat, be := be.toNat } mt.toNat)) s)

/-! ### Completions (R456, R461) -/

/-- Work that may go on now that a transaction has come to its end: draining streams, completions, the host event queue, and
pre-emptions that have waited for it. -/
def recheck (s : State) : State :=
  let s := s.slots.foldl (fun s p => if p.2.draining && p.2.up.isNone then s.raise (.slotDrained (p.1 / 8) (p.1 % 8)) else s) s
  let s := recheckGangs s
  let s := (range' 0 16).foldl (fun s cl => if (waiters s cl).isEmpty then s else s.raise (.laneGrant cl)) s
  if s.hostEvents.isEmpty then s else s.raise .hostEventPost

/-- A transaction has ended with an error code (0 none, 1 refused, 2 no port, 3 an uncorrectable word) and data. A posted one leaves
its record with its strand. -/
def endTxn (t : Txn) (err data : Nat) (s : State) : State :=
  let s :=
    if t.posted then
      let s := dropTxn s t.home t.tag
      if err = 0 then s
      else mapOwner t.sid (fun st => { st with
        linkErrs := st.linkErrs ++ [{ va := t.va, w0 := if err = 2 then 2 else 1, home := t.home, tag := t.tag,
                                      w3 := if err = 2 then 1 else 2 }] }) s
    else { s with txns := s.txns.map (fun x => if x.home == t.home && x.tag == t.tag then { x with done := some (err, data) } else x) }
  recheck s

/-- The outstanding transaction of a home and tag. -/
def outstanding (s : State) (home tag : Nat) : Option Txn :=
  s.txns.find? (fun t => t.home == home && t.tag == tag && t.done.isNone)

/-- A completion arrives (R456). -/
def completionArrives (home tag data err : Nat) (s : State) : State :=
  match outstanding s home tag with
  | some t => endTxn t (if err = 0 then 0 else 3) data s
  | none => s

/-- `REMOTE_COMPLETION_ARRIVAL` (R456): A completion frees the requester's tag and completes the access. -/
def execRemoteCompletionArrival (home : Answerer) (tag : BitVec 16) (data : BitVec 512) (err : BitVec 3) (s : State) :
    Host.Outcome State Fault Refusal := .next (takeMessage home.port.toNat (forUs home.dst.toNat (completionArrives home.home.toNat tag.toNat data.toNat err.toNat)) s)

/-- A refusal arrives (R456). -/
def refusalArrives (home tag : Nat) (s : State) : State :=
  match outstanding s home tag with
  | some t => endTxn t 1 0 s
  | none => s

/-- `REMOTE_REFUSAL_ARRIVAL` (R456): A refusal frees the tag and raises LINKERR with W0 = 1. -/
def execRemoteRefusalArrival (home : Answerer) (tag : BitVec 16) (s : State) : Host.Outcome State Fault Refusal :=
  .next (takeMessage home.port.toNat (forUs home.dst.toNat (refusalArrives home.home.toNat tag.toNat)) s)

/-- A request is to be sent again: it waits for a port, its port has left Up, or it has been sent once and 65,536 core cycles have passed since then and since its
port's return to Up (R452, R456). -/
def mustResend (s : State) (t : Txn) : Bool :=
  t.waitAt.isSome || (s.port t.port).st != 2 || (t.st == 1 && decide (max t.since (s.port t.port).upAt + 65536 ≤ s.fordNow))

/-- A request without a completion is sent again with the same tag (R456). -/
def resendTxn (home tag : Nat) (s : State) : State :=
  match outstanding s home tag with
  | some t =>
    if home ≠ 127 ∧ mustResend s t then
      let (s, u) := sendTxn s t
      { s with txns := s.txns.map (fun x => if x.home == home && x.tag == tag then u else x) }
    else s
  | none => s

/-- `TAG_RESEND` (R456): A request without a completion is resent with the same tag after its port leaves Up or 65,536 cycles pass. -/
def execTagResend (home : BitVec 7) (tag : BitVec 16) (s : State) : Host.Outcome State Fault Refusal :=
  .next (resendTxn home.toNat tag.toNat s)

/-- A transaction has waited `FLTO` for an Up port to its home, and fails (R452, R456). -/
def fltoExpires (home tag : Nat) (s : State) : State :=
  match outstanding s home tag with
  | some t =>
    match t.waitAt with
    | some w =>
      let s := noteRead s (routeAt s home) 16
      if (upPorts s home).isEmpty ∧ w + (s.pkr 0x853).toNat % 2 ^ 40 ≤ s.time.toNat then endTxn t 2 0 s else s
    | none => s
  | none => s

/-- `FLTO_EXPIRY` (R452): A transaction with no Up port to its home for FLTO fails with LINKERR. -/
def execFltoExpiry (home : BitVec 7) (tag : BitVec 16) (s : State) : Host.Outcome State Fault Refusal :=
  .next (fltoExpires home.toNat tag.toNat s)

/-! ### The host (R463 to R466) -/

/-- A connection may return a congestion notification: it has returned none in the last 50,000 ns (R463). -/
def cnpDue (s : State) (conn : Nat) : Bool :=
  match Tab.find s.cnpAt conn with
  | none => true
  | some d => decide (d + 50000 ≤ s.time.toNat)

/-- A packet of a connection arrives, with or without a congestion mark; a notification is returned for a marked one (R463). -/
def congested (conn : Nat) (ecn : Bool) (s : State) : State :=
  if ecn && cnpDue s conn then
    { s with cnpAt := Tab.set s.cnpAt conn s.time.toNat }.send (.cnp conn)
  else s

/-- `RDMA_WRITE_INBOUND` (R465): An inbound RDMA WRITE is checked and performed line by line. -/
def execRdmaWriteInbound (p : Packet) (va : BitVec 64) (data : BitVec 512) (be : BitVec 64) (s : State) :
    Host.Outcome State Fault Refusal :=
  .next (arrive (.write p.conn.toNat va.toNat data.toNat be.toNat) (congested p.conn.toNat (p.ecn == 1) s))

/-- `RDMA_READ_INBOUND` (R464): An inbound RDMA READ is checked and answered with data or a NAK. -/
def execRdmaReadInbound (p : Packet) (va : BitVec 64) (len : BitVec 12) (s : State) : Host.Outcome State Fault Refusal :=
  .next (arrive (.read p.conn.toNat va.toNat len.toNat) (congested p.conn.toNat (p.ecn == 1) s))

/-- SEND, atomics, immediate data and unreliable transports: a NAK for an invalid request (R463). -/
def execRoceUnsupportedRequest (p : Packet) (s : State) : Host.Outcome State Fault Refusal :=
  .next ((congested p.conn.toNat (p.ecn == 1) s).send (.nak p.conn.toNat 1))

/-- The oldest outstanding transaction of a connection: a read, or a write. -/
def oldestHost (s : State) (conn : Nat) (read : Bool) : Option Txn :=
  s.txns.find? (fun t => t.home == 127 && t.done.isNone && fld t.pa 40 8 == conn && (t.op == 0) == read)

/-- The host acknowledges the oldest outbound write of a connection, which then counts as performed (R465). -/
def ackArrives (conn : Nat) (s : State) : State :=
  match oldestHost s conn false with
  | some t => endTxn t 0 0 s
  | none => s

/-- `OUTBOUND_ACK` (R465): The host's responder acknowledges an outbound write, which then counts as performed. -/
def execOutboundAck (p : Packet) (s : State) : Host.Outcome State Fault Refusal :=
  .next (ackArrives p.conn.toNat (congested p.conn.toNat (p.ecn == 1) s))

/-- The host returns the data of the oldest outbound read of a connection (R463, R464). -/
def hostData (conn data : Nat) (s : State) : State :=
  match oldestHost s conn true with
  | some t => endTxn t 0 (data % 2 ^ (8 * t.size)) s
  | none => s

/-- `HOST_READ_RESPONSE` (R463): The host's RoCEv2 responder returns the data of an outbound RDMA READ, completing a host-window load, a copy read or the Ford's event-ticket read. -/
def execHostReadResponse (p : Packet) (data : BitVec 512) (s : State) : Host.Outcome State Fault Refusal :=
  .next (hostData p.conn.toNat data.toNat (congested p.conn.toNat (p.ecn == 1) s))

/-- A connection's send rate, in units of 2^-16 of the full rate: it recovers linearly over 1,000,000 ns (R463). -/
def rateOf (s : State) (conn : Nat) : Nat :=
  match Tab.find s.rates conn with
  | none => 65536
  | some (r, t) => r + (65536 - r) * min (s.time.toNat - t) 1000000 / 1000000

/-- A congestion notification halves a connection's send rate (R463). -/
def cnpArrives (conn : Nat) (s : State) : State :=
  { s with rates := Tab.set s.rates conn (rateOf s conn / 2, s.time.toNat) }

/-- `CNP_RECEIVE` (R463): A congestion notification halves the connection's send rate. -/
def execCnpReceive (conn : BitVec 8) (s : State) : Host.Outcome State Fault Refusal := .next (cnpArrives conn.toNat s)

/-- An IEEE 1588 message slews `TIME` by at most ±1,000 parts per million, and never steps it (R466). -/
def execPtpMessage (ppm : BitVec 12) (s : State) : Host.Outcome State Fault Refusal :=
  .next { s with slew := max (-1000) (min 1000 ppm.toInt) }

end Sys2Proof.Machine
end

