-- ==== Sys2Proof/Machine/Fetch.lean ====
section
/-! DEFINITION. Fetch (R36, R145, R146), and the trap of a word that is no instruction (R44). -/

namespace Sys2Proof.Machine

/-- The key of an instruction-cache line: the core's number above the line's address. -/
def codeKey (core line : Nat) : Nat := core * 2 ^ 46 + line

/-- Two lines share a set of a core's instruction cache: 64 sets of 8 ways, by the low bits of the line's address (R145; DESIGN CHOICE, log 63). -/
def sameSet (a b : Nat) : Bool := a / 2 ^ 46 == b / 2 ^ 46 && a % 64 == b % 64

/-- The least recently used line of a list. -/
def oldestLine : List (Nat × Nat × Line) → Option Nat
  | [] => none
  | a :: r => match oldestLine r with
    | none => some a.1
    | some k => match r.find? (fun b => b.1 == k) with
      | some b => if a.2.1 ≤ b.2.1 then some a.1 else some k
      | none => some a.1

/-- The instruction cache holds a line, now used last; a full set gives up the line that was used least recently (R145). -/
def keepCode (key : Nat) (d : Line) (s : State) : State :=
  let set := s.icache.filter (fun p => sameSet p.1 key && p.1 != key)
  let t := if set.length < 8 then s.icache else match oldestLine set with
    | some k => Tab.erase s.icache k
    | none => s.icache
  { s with useClock := s.useClock + 1, icache := Tab.set t key (s.useClock, d) }

/-- The 64 bytes of a line that the instruction cache fills from its home or from the local store (R145); an uncorrectable half
that holds the word is BANKERR (R388), and a marked line is not kept. -/
def fetchLine (x : Xl) (pc : Nat) : M Line := do
  let s ← get
  let line := x.pa / 64
  match x.place with
  | .localStore => pure (BitVec.ofNat 512 (Mem.readLE s.mem (line * 64) 64))
  | _ =>
    let s := fillLine s line s.st.ddom
    set s
    match Tab.find s.lines line with
    | none => pure 0
    | some ln =>
      if bitOf ln.ue (x.pa % 64 / 32) then trap cBANKERR pc 0x12 0 (x.pa / 32 * 32) (bankOf x.pa)
      if ln.ue = 0 then
        set (keepCode (codeKey (coreOf s.cur) line) ln.data s)
      pure ln.data

/-- Fetches the word at `PC` (R36): through the instruction cache of the strand's core, which writes do not reach (R146). -/
def fetchWord : M Word := do
  let s ← get
  let pc := s.st.pc.toNat
  let x ← xlate1 (Acc.fetch.forStrand s) pc
  let s ← get
  let key := codeKey (coreOf s.cur) (x.pa / 64)
  let d ← match Tab.find s.icache key with
    | some (_, d) => do
      set (keepCode key d s)
      pure d
    | none => fetchLine x pc
  pure (BitVec.ofNat 32 (fld d.toNat (8 * (x.pa % 64)) 32))

/-- The fetch fails, or the word fetched is `w` and no instruction: the trap that R44 gives. A word that is an instruction is not this
event, and nothing happens. -/
def execWordsThatAreNotInstructions (w : BitVec 32) (s : State) : Host.Outcome State Fault Refusal :=
  finish (do
    let _ ← fetchWord
    match decode w with
    | .error r => trap cILL w.toNat r.reason
    | .ok _ => pure ()) s

end Sys2Proof.Machine
end

