-- ==== Sys2Proof/Machine/Scalar.lean ====
section
/-! DEFINITION. The prefix, the hint and the scalar arithmetic: majors 0x01 to 0x0B, 0x10 to 0x18 and 0x3F (R47 to R53,
R148 to R153). -/

namespace Sys2Proof.Machine

/-- `PFX` (R48): sets the prefix latch to bit 31 and bits [25:0] of its word. A `PFX` lent anything fails R50. -/
def execPfx (i : BitVec 1) (m : BitVec 3) (u : BitVec 1) (c : BitVec 5) (s : State) : Host.Outcome State Fault Refusal :=
  finish (do
    let w := wordOf (.pfx i m u c)
    if !(Instr.pfx i m u c).wf then trap cILL w 4
    start w { pfx := true }
    modSt (fun st => { st.advance with
      latch := BitVec.ofNat 32 (2 ^ 31 + i.toNat * 2 ^ 25 + m.toNat * 2 ^ 22 + u.toNat * 2 ^ 21 + c.toNat * 2 ^ 16) })) s

/-- `HINT` (R53): `PC` = `PC` + 4 and nothing else; it never traps, and consumes a latch (R52). -/
def execHint (_p : BitVec 26) (s : State) : Host.Outcome State Fault Refusal :=
  finish (modSt (fun st => (dropTag {} st).advance)) s

/-- `ADD` (R149): Writes a + b to x[d]. -/
def execAdd (d a b : BitVec 5) (s : State) : Host.Outcome State Fault Refusal :=
  finish (regReg (.add d a b) d a b (fun x y => x + y)) s

/-- `SUB` (R149): Writes a - b to x[d]. -/
def execSub (d a b : BitVec 5) (s : State) : Host.Outcome State Fault Refusal :=
  finish (regReg (.sub d a b) d a b (fun x y => x - y)) s

/-- `AND` (R149): Writes the bitwise AND of a and b. -/
def execAnd (d a b : BitVec 5) (s : State) : Host.Outcome State Fault Refusal :=
  finish (regReg (.and d a b) d a b (fun x y => x &&& y)) s

/-- `OR` (R149): Writes the bitwise OR of a and b. -/
def execOr (d a b : BitVec 5) (s : State) : Host.Outcome State Fault Refusal :=
  finish (regReg (.or d a b) d a b (fun x y => x ||| y)) s

/-- `XOR` (R149): Writes the bitwise XOR of a and b. -/
def execXor (d a b : BitVec 5) (s : State) : Host.Outcome State Fault Refusal :=
  finish (regReg (.xor d a b) d a b (fun x y => x ^^^ y)) s

/-- `ANDN` (R149): Writes a AND NOT b. -/
def execAndn (d a b : BitVec 5) (s : State) : Host.Outcome State Fault Refusal :=
  finish (regReg (.andn d a b) d a b (fun x y => x &&& ~~~y)) s

/-- `SLL` (R149): Shifts a left by b[5:0]. -/
def execSll (d a b : BitVec 5) (s : State) : Host.Outcome State Fault Refusal :=
  finish (regReg (.sll d a b) d a b (fun x y => x <<< (y.toNat % 64))) s

/-- `SRL` (R149): Shifts a right logically by b[5:0]. -/
def execSrl (d a b : BitVec 5) (s : State) : Host.Outcome State Fault Refusal :=
  finish (regReg (.srl d a b) d a b (fun x y => x >>> (y.toNat % 64))) s

/-- `SRA` (R149): Shifts a right arithmetically by b[5:0]. -/
def execSra (d a b : BitVec 5) (s : State) : Host.Outcome State Fault Refusal :=
  finish (regReg (.sra d a b) d a b (fun x y => x.sshiftRight (y.toNat % 64))) s

/-- `MIN` (R149): Writes the signed minimum of a and b. -/
def execMin (d a b : BitVec 5) (s : State) : Host.Outcome State Fault Refusal :=
  finish (regReg (.min d a b) d a b (fun x y => pickMin (x.sle y) x y)) s

/-- `MAX` (R149): Writes the signed maximum of a and b. -/
def execMax (d a b : BitVec 5) (s : State) : Host.Outcome State Fault Refusal :=
  finish (regReg (.max d a b) d a b (fun x y => pickMin (y.sle x) x y)) s

/-- `MINN` (R149): Writes the unsigned minimum of a and b. -/
def execMinn (d a b : BitVec 5) (s : State) : Host.Outcome State Fault Refusal :=
  finish (regReg (.minn d a b) d a b (fun x y => pickMin (x.ule y) x y)) s

/-- `MAXN` (R149): Writes the unsigned maximum of a and b. -/
def execMaxn (d a b : BitVec 5) (s : State) : Host.Outcome State Fault Refusal :=
  finish (regReg (.maxn d a b) d a b (fun x y => pickMin (y.ule x) x y)) s

/-- `SLT` (R149): Writes 1 when a is less than b signed, else 0. -/
def execSlt (d a b : BitVec 5) (s : State) : Host.Outcome State Fault Refusal :=
  finish (regReg (.slt d a b) d a b (fun x y => bit01 (x.slt y))) s

/-- `SLTN` (R149): Writes 1 when a is less than b unsigned, else 0. -/
def execSltn (d a b : BitVec 5) (s : State) : Host.Outcome State Fault Refusal :=
  finish (regReg (.sltn d a b) d a b (fun x y => bit01 (x.ult y))) s

/-- `MUL` (R149): Writes the low 64 bits of a times b. -/
def execMul (d a b : BitVec 5) (s : State) : Host.Outcome State Fault Refusal :=
  finish (regReg (.mul d a b) d a b (fun x y => x * y)) s

/-- `MULH`: bits [127:64] of the signed product. -/
def execMulh (d a b : BitVec 5) (s : State) : Host.Outcome State Fault Refusal :=
  finish (regReg (.mulh d a b) d a b (fun x y => mulHigh x.toInt y.toInt)) s

/-- `MULHN`: bits [127:64] of the unsigned product. -/
def execMulhn (d a b : BitVec 5) (s : State) : Host.Outcome State Fault Refusal :=
  finish (regReg (.mulhn d a b) d a b (fun x y => mulHigh x.toNat y.toNat)) s

/-- `DIV` (R150): Signed division rounded towards zero, with defined results at the limits. -/
def execDiv (d a b : BitVec 5) (s : State) : Host.Outcome State Fault Refusal :=
  finish (regReg (.div d a b) d a b divSigned) s

/-- `DIVN` (R150): Unsigned division, with defined results at the limits. -/
def execDivn (d a b : BitVec 5) (s : State) : Host.Outcome State Fault Refusal :=
  finish (regReg (.divn d a b) d a b divUnsigned) s

/-- `REM` (R150): Signed remainder, with defined results at the limits. -/
def execRem (d a b : BitVec 5) (s : State) : Host.Outcome State Fault Refusal :=
  finish (regReg (.rem d a b) d a b remSigned) s

/-- `REMN` (R150): Unsigned remainder, with defined results at the limits. -/
def execRemn (d a b : BitVec 5) (s : State) : Host.Outcome State Fault Refusal :=
  finish (regReg (.remn d a b) d a b remUnsigned) s

/-- `CLZ` (R149): Counts the leading zero bits of a. -/
def execClz (d a : BitVec 5) (s : State) : Host.Outcome State Fault Refusal :=
  finish (regUnary (.clz d a) d a (fun x => BitVec.ofNat 64 (leadingZeros x))) s

/-- `CTZ` (R149): Counts the trailing zero bits of a. -/
def execCtz (d a : BitVec 5) (s : State) : Host.Outcome State Fault Refusal :=
  finish (regUnary (.ctz d a) d a (fun x => BitVec.ofNat 64 (trailingZeros x))) s

/-- `POPC` (R149): Counts the one bits of a. -/
def execPopc (d a : BitVec 5) (s : State) : Host.Outcome State Fault Refusal :=
  finish (regUnary (.popc d a) d a (fun x => BitVec.ofNat 64 (popCount x.toNat 64))) s

/-- `SEXT_B` (R149): Sign-extends a[7:0]. -/
def execSextB (d a : BitVec 5) (s : State) : Host.Outcome State Fault Refusal :=
  finish (regUnary (.sextB d a) d a (fun x => (x.extractLsb' 0 8).signExtend 64)) s

/-- `SEXT_H` (R149): Sign-extends a[15:0]. -/
def execSextH (d a : BitVec 5) (s : State) : Host.Outcome State Fault Refusal :=
  finish (regUnary (.sextH d a) d a (fun x => (x.extractLsb' 0 16).signExtend 64)) s

/-- `SEXT_W` (R149): Sign-extends a[31:0]. -/
def execSextW (d a : BitVec 5) (s : State) : Host.Outcome State Fault Refusal :=
  finish (regUnary (.sextW d a) d a (fun x => (x.extractLsb' 0 32).signExtend 64)) s

/-- `ZEXT_B` (R149): Zero-extends a[7:0]. -/
def execZextB (d a : BitVec 5) (s : State) : Host.Outcome State Fault Refusal :=
  finish (regUnary (.zextB d a) d a (fun x => (x.extractLsb' 0 8).zeroExtend 64)) s

/-- `ZEXT_H` (R149): Zero-extends a[15:0]. -/
def execZextH (d a : BitVec 5) (s : State) : Host.Outcome State Fault Refusal :=
  finish (regUnary (.zextH d a) d a (fun x => (x.extractLsb' 0 16).zeroExtend 64)) s

/-- `ZEXT_W` (R149): Zero-extends a[31:0]. -/
def execZextW (d a : BitVec 5) (s : State) : Host.Outcome State Fault Refusal :=
  finish (regUnary (.zextW d a) d a (fun x => (x.extractLsb' 0 32).zeroExtend 64)) s

/-- `SEL` (R149): a if `x[c]` ≠ 0, else b. -/
def execSel (d a b c : BitVec 5) (s : State) : Host.Outcome State Fault Refusal :=
  finish (do
    start (wordOf (.sel d a b c))
      { reads := [(.x, a.toNat), (.x, b.toNat), (.x, c.toNat)], dest := some (.x, d.toNat) }
    modSt (fun st => st.result d.toNat (if st.rx c = 0 then st.rx b else st.rx a))) s

/-- `ADDI` (R151): Adds the sign-extended immediate to a. -/
def execAddi (d a : BitVec 5) (i : BitVec 16) (s : State) : Host.Outcome State Fault Refusal :=
  finish (regUnary (.addi d a i) d a (fun x => x + sx16 i)) s

/-- `ANDI` (R151): ANDs a with the zero-extended immediate. -/
def execAndi (d a : BitVec 5) (i : BitVec 16) (s : State) : Host.Outcome State Fault Refusal :=
  finish (regUnary (.andi d a i) d a (fun x => x &&& zx16 i)) s

/-- `ORI` (R151): ORs a with the zero-extended immediate. -/
def execOri (d a : BitVec 5) (i : BitVec 16) (s : State) : Host.Outcome State Fault Refusal :=
  finish (regUnary (.ori d a i) d a (fun x => x ||| zx16 i)) s

/-- `XORI` (R151): XORs a with the zero-extended immediate. -/
def execXori (d a : BitVec 5) (i : BitVec 16) (s : State) : Host.Outcome State Fault Refusal :=
  finish (regUnary (.xori d a i) d a (fun x => x ^^^ zx16 i)) s

/-- `SLTI` (R151): Signed compare of a with the sign-extended immediate. -/
def execSlti (d a : BitVec 5) (i : BitVec 16) (s : State) : Host.Outcome State Fault Refusal :=
  finish (regUnary (.slti d a i) d a (fun x => bit01 (x.slt (sx16 i)))) s

/-- `SLTIN` (R151): Unsigned compare of a with the sign-extended immediate. -/
def execSltin (d a : BitVec 5) (i : BitVec 16) (s : State) : Host.Outcome State Fault Refusal :=
  finish (regUnary (.sltin d a i) d a (fun x => bit01 (x.ult (sx16 i)))) s

/-- `SLLI` (R151): Shifts a left by an immediate amount. -/
def execSlli (d a : BitVec 5) (k : BitVec 6) (s : State) : Host.Outcome State Fault Refusal :=
  finish (regUnary (.slli d a k) d a (fun x => x <<< k.toNat)) s

/-- `SRLI` (R151): Shifts a right logically by an immediate amount. -/
def execSrli (d a : BitVec 5) (k : BitVec 6) (s : State) : Host.Outcome State Fault Refusal :=
  finish (regUnary (.srli d a k) d a (fun x => x >>> k.toNat)) s

/-- `SRAI` (R151): Shifts a right arithmetically by an immediate amount. -/
def execSrai (d a : BitVec 5) (k : BitVec 6) (s : State) : Host.Outcome State Fault Refusal :=
  finish (regUnary (.srai d a k) d a (fun x => x.sshiftRight k.toNat)) s

/-- `LHI` (R151): sx(imm) × 65,536. -/
def execLhi (d : BitVec 5) (i : BitVec 16) (s : State) : Host.Outcome State Fault Refusal :=
  finish (do
    start (wordOf (.lhi d i)) { dest := some (.x, d.toNat) }
    modSt (fun st => st.result d.toNat (sx16 i <<< 16))) s

/-- `ADDPC` (R151): the address of the `ADDPC` + sx(imm) × 65,536. -/
def execAddpc (d : BitVec 5) (i : BitVec 16) (s : State) : Host.Outcome State Fault Refusal :=
  finish (do
    start (wordOf (.addpc d i)) { dest := some (.x, d.toNat) }
    modSt (fun st => st.result d.toNat (st.pc + (sx16 i <<< 16)))) s

/-- `BEQ` (R152): Branches when a equals b. -/
def execBeq (a b : BitVec 5) (o : BitVec 16) (s : State) : Host.Outcome State Fault Refusal :=
  finish (branch (.beq a b o) a b o (fun x y => x == y)) s

/-- `BNE` (R152): Branches when a differs from b. -/
def execBne (a b : BitVec 5) (o : BitVec 16) (s : State) : Host.Outcome State Fault Refusal :=
  finish (branch (.bne a b o) a b o (fun x y => x != y)) s

/-- `BLT` (R152): Branches when a is less than b, signed. -/
def execBlt (a b : BitVec 5) (o : BitVec 16) (s : State) : Host.Outcome State Fault Refusal :=
  finish (branch (.blt a b o) a b o (fun x y => x.slt y)) s

/-- `BGE` (R152): Branches when a is at least b, signed. -/
def execBge (a b : BitVec 5) (o : BitVec 16) (s : State) : Host.Outcome State Fault Refusal :=
  finish (branch (.bge a b o) a b o (fun x y => y.sle x)) s

/-- `BLTN` (R152): Branches when a is less than b, unsigned. -/
def execBltn (a b : BitVec 5) (o : BitVec 16) (s : State) : Host.Outcome State Fault Refusal :=
  finish (branch (.bltn a b o) a b o (fun x y => x.ult y)) s

/-- `BGEN` (R152): Branches when a is at least b, unsigned. -/
def execBgen (a b : BitVec 5) (o : BitVec 16) (s : State) : Host.Outcome State Fault Refusal :=
  finish (branch (.bgen a b o) a b o (fun x y => y.ule x)) s

/-- `CALL` (R153): `x1` = A + 4, `PC` = A + 4 × offset26. -/
def execCall (o : BitVec 26) (s : State) : Host.Outcome State Fault Refusal :=
  finish (do
    start (wordOf (.call o)) { reads := [(.x, 1)] }
    modSt (fun st =>
      { st.setX 1 (st.pc + 4) with pc := st.pc + 4 * o.signExtend 64, latch := 0, resumed := false, behind := none })) s

/-- `JUMP` (R153). -/
def execJump (o : BitVec 26) (s : State) : Host.Outcome State Fault Refusal :=
  finish (do
    start (wordOf (.jump o)) {}
    modSt (fun st => { st with pc := st.pc + 4 * o.signExtend 64, latch := 0, resumed := false, behind := none })) s

/-- `JR` (R153): a misaligned target traps ALIGN with nothing written; the link write is no d-field result (R50). -/
def execJr (d a : BitVec 5) (i : BitVec 16) (s : State) : Host.Outcome State Fault Refusal :=
  finish (do
    start (wordOf (.jr d a i)) { reads := [(.x, a.toNat), (.x, d.toNat)] }
    let st ← getSt
    let t := st.rx a + sx16 i
    if t.toNat % 4 ≠ 0 then trap cALIGN t.toNat
    modSt (fun st => { st.setX d.toNat (st.pc + 4) with pc := t, latch := 0, resumed := false, behind := none })) s

end Sys2Proof.Machine
end

