-- ==== Sys2Proof/Machine/SystemRun.lean ====
section
/-! DEFINITION. The steps of the package itself: reset and boot, keys and attestation, telemetry, power islands, thermal limits and the
power cap (R130, R471 to R481). An event whose conditions do not hold does not occur. -/

namespace Sys2Proof.Machine

/-! ### Boot and keys -/

/-- The digest that the header of an image in module flash states (R66). -/
def flashStated (l : List Byte) : BitVec 256 := BitVec.ofNat 256 (imgBE (ofBytesLE (l.take 256)) 0x40 32)

/-- The digest of the machine firmware in module flash (R476, R478). -/
def firmwareDigestOf (s : State) : BitVec 256 := (s.flash.map (fun f => flashStated f.firmware)).getD Config.firmwareDigest

/-- The header rules of R66 that a firmware image or a device configuration follows, by offset; the fields of a kernel image's tables mean nothing
there (DESIGN CHOICE, log 19). -/
def bootHeader (h : Nat) : List (Nat × Bool) :=
  [(0x00, imgFld h 0 4 == 0x53594C57), (0x04, imgFld h 4 2 == 1), (0x06, imgFld h 6 2 == 0),
   (0x08, imgFld h 8 4 != 0 && imgFld h 8 4 % 65536 == 0), (0x20, imgFld h 0x20 32 == 0), (0xB0, imgFld h 0xB0 80 == 0)]

/-- An image in module flash is verified against keys (R66, R69, R476): the `DETAIL` of the check that fails, if one fails. -/
def bootImage (l : List Byte) (keys : List KeyEntry) : Option Nat :=
  let h := ofBytesLE (l.take 256)
  match lowestBad (bootHeader h) with
  | some o => some o
  | none =>
    if l.length < imgFld h 8 4 then some 0x40
    else match verifyBytes (l.take (imgFld h 8 4)) h keys with
      | .error o => some o
      | .ok _ => none

/-- A key as bytes in uncompressed form (R66). -/
def keyBytes (x y : Nat) : List Byte := 0x04 :: (be32 x ++ be32 y)

/-- The root key in module flash: it counts when its SM3 digest is the fused one (R476). -/
def rootKeys (f : Flash) : List KeyEntry :=
  let d := sm3 (keyBytes f.rootX f.rootY)
  if d = Config.rootDigest then [{ id := d.toNat / 2 ^ 128, x := f.rootX, y := f.rootY, flags := 0 }] else []

/-- Stage 0 (R476): the `DETAIL` where the machine firmware does not verify. Where its bytes are not given, `bootOk` says whether it does, and
`DETAIL` is free (log 19). -/
def stage0Bad (s : State) : Option Nat :=
  match s.flash with
  | none => if s.bootOk then none else some Config.bootDetail.toNat
  | some f => bootImage f.firmware (rootKeys f)

/-- Stage 1 (R304, R476): the lowest module that does not train, then the `DETAIL` where the device configuration, or the supervisor firmware,
does not verify. -/
def stage1Bad (s : State) : Option Nat :=
  match s.untrained with
  | m :: r => some (r.foldl min m)
  | [] => s.flash.bind (fun f => (bootImage f.config f.keys).orElse (fun _ => bootImage f.supervisor f.keys))

/-- Device reset keeps what module flash holds and records, the modules, and what has left the package (R304, R474, R476). -/
def resetKeeping (s : State) : State :=
  { State.reset with
    out := s.out, flash := s.flash, bootOk := s.bootOk, untrained := s.untrained, thermalLog := s.thermalLog
    meas := [(0, extendMeas 0 (firmwareDigestOf s))] }

/-- The package stays in reset: nothing runs, and the management controller's status shows the stage that failed, with its `DETAIL` or the
module's number (R304, R476). -/
def stayInReset (stage detail : Nat) (s : State) : State :=
  { resetKeeping s with strands := [], meas := [], bootStatus := some (stage, detail) }

/-- Device reset (R304, R476, R477): the boot ROM verifies and measures the machine firmware and starts the boot context; a failure of stage 0,
or of what stage 1 verifies, leaves the package in reset. -/
def execDeviceReset (s : State) : Host.Outcome State Fault Refusal :=
  match stage0Bad s, stage1Bad s with
  | some d, _ => .next (stayInReset 0 d s)
  | none, some d => .next (stayInReset 1 d s)
  | none, none => .next (resetKeeping s)

/-- A measurement register is extended with a digest (R478). -/
def extendReg (k : Nat) (d : BitVec 256) (s : State) : State := { s with meas := Tab.set s.meas k (extendMeas (Tab.get s.meas k) d) }

/-- Machine firmware extends M1 to M7 (R478): M1 with the device configuration, M2 with the supervisor firmware, the others with the digest that it
has under a number. -/
def measure (k : Nat) (v : BitVec 64) (s : State) : State :=
  if k = 1 then extendReg 1 ((s.flash.map (fun f => flashStated f.config)).getD (Config.flashDigest 1)) s
  else if k = 2 then extendReg 2 ((s.flash.map (fun f => flashStated f.supervisor)).getD (Config.flashDigest 2)) s
  else extendReg k (Config.measured v) s

/-- The cap on the package's power that machine firmware sets, from 600 to 2,400 W (R475); another number sets none. -/
def setPowerCap (v : Nat) (s : State) : State := if 600 ≤ v ∧ v ≤ 2400 then { s with powerCap := v } else s

/-- What machine firmware loads that has no control-register number: `FPKG` and `TIME` under theirs (R141, R468), the power cap under 0xFF0
(R475), and the extensions of M1 to M7 under 0xFF1 to 0xFF7 (R478). The numbers are the model's (DESIGN CHOICE, log 20). -/
def firmwareWrite (num : Nat) (v : BitVec 64) (s : State) : Option State :=
  if num = 0x440 then some (s.setPk 0x440 (v % 128))
  else if num = 0x011 then some { s with time := v }
  else if num = 0xFF0 then some (setPowerCap v.toNat s)
  else if 0xFF1 ≤ num ∧ num ≤ 0xFF7 then some (measure (num - 0xFF0) v s)
  else none

/-- A write of a register field without a behaviour of its own (R164), by the current strand, or a load of machine firmware (log 20). -/
def execRegisterWrite (num : BitVec 12) (v : BitVec 64) (s : State) : Host.Outcome State Fault Refusal :=
  .next ((firmwareWrite num.toNat v s).getD (writeCr s num.toNat v.toNat v.toNat (some v.toNat)))

/-- The contexts that `FORDCTL.SRES` reserves in a cluster, from the highest down (R477). -/
def reservedContexts (s : State) (cl : Nat) : List Nat :=
  (range' 0 (min 4 (fld (s.pkr 0x823).toNat 8 3))).map (fun k => cl * 16 + 15 - k)

/-- Starts a supervisor strand on context `c`, when the context is free and the pool has a record (R477). -/
def startSupervisor (s : State) (c : Nat) : State :=
  match (s.strandAt c).run, freeRecords s with
  | .free, k :: _ =>
    s.setStrand c (startStrand s c k 1 (s.pkr 0xC11) (BitVec.ofNat 64 (clusterOf c)) [(0x004, 0), (0x380, 0)])
  | _, _ => s

/-- A write of `SVSTART` (R477): `ENTRY` is stored; with `GO`, supervisor strands start once, and `RUN` reads 1. -/
def svstart (v : Nat) (s : State) : State :=
  let s := s.setPk 0xC11 (BitVec.ofNat 64 (setFld (s.pkr 0xC11).toNat 2 53 (fld v 2 53)))
  if bitOf v 0 ∧ !bitOf (s.pkr 0xC11).toNat 1 then
    let s := (range' 0 16).foldl (fun s cl => (reservedContexts s cl).foldl startSupervisor s) s
    s.setPk 0xC11 (BitVec.ofNat 64 (setFld (s.pkr 0xC11).toNat 1 1 1))
  else s

/-- `SVSTART_GO` (R477): A write of GO starts a supervisor strand on every reserved context. -/
def execSvstartGo (v : BitVec 64) (s : State) : Host.Outcome State Fault Refusal := .next (svstart v.toNat s)

/-- Entry `k` of the key table at `base` (R479). -/
def readKey (base : Nat) (s : State) (k : Nat) : KeyEntry :=
  let e := s.peekLE (base + 96 * k) 96
  { id := imgBE e 64 16, x := imgBE e 0 32, y := imgBE e 32 32, flags := imgFld e 80 1 % 4 }

/-- The key that has verified an image is still in the table, and its `USE` allows it (R479). -/
def keyKept (keys : List KeyEntry) (v : VImage) : Bool :=
  keys.any (fun k => k.id == v.key.id && k.x == v.key.x && k.y == v.key.y && bitOf k.flags (if v.probe then 1 else 0))

/-- A write of `KEYTAB` (R479): the table is read again, and kept verifications that no longer hold are dropped. -/
def keytabWrite (v : Nat) (s : State) : State :=
  let v := mergeBits 0 (if 16 < v % 32 then setFld v 0 5 16 else v) (bits 4 0 + bits 51 16)
  let s := noteRead s (fld v 16 36 * 65536) (96 * (v % 32))
  let keys := (range' 0 (v % 32)).map (readKey (fld v 16 36 * 65536) s)
  { s.setPk 0xC10 (BitVec.ofNat 64 v) with keys := keys, images := s.images.filter (keyKept keys) }

/-- `KEYTAB_WRITE` (R479): A write re-reads the key table and drops verifications that no longer hold. -/
def execKeytabWrite (v : BitVec 64) (s : State) : Host.Outcome State Fault Refusal := .next (keytabWrite v.toNat s)

/-- The key table: its address and its length. -/
def keyTable (s : State) : Nat × Nat := (fld (s.pkr 0xC10).toNat 16 36 * 65536, 96 * ((s.pkr 0xC10).toNat % 32))

/-- SM3 of the key table's entries (R480). -/
def keyTableHash (s : State) : Nat :=
  let (a, n) := keyTable s
  ofBytesLE (bytesLE 32 (sm3 (bytesLE n (s.peekLE a n))).toNat).reverse

/-- SM3 of the device configuration (R480). -/
def configHash (s : State) : BitVec 256 := (s.flash.map (fun f => sm3 f.config)).getD Config.configHash

/-- A digest as a byte string, held as a number with its first byte lowest. -/
def digestBytes (d : BitVec 256) : Nat := ofBytesLE (bytesLE 32 d.toNat).reverse

/-- Bytes 0x000 to 0x18F of an attestation report (R480). -/
def reportBody (nonce : Nat) (s : State) : Nat :=
  0x54413953 + 2 ^ 32 + (s.pkr 0x440).toNat % 128 * 2 ^ 48 + Config.serial.toNat * 2 ^ 64 + nonce * 2 ^ (8 * 0x18)
    + s.time.toNat * 2 ^ (8 * 0x38)
    + (range' 0 8).foldl (fun v k => v + digestBytes (Tab.get s.meas k) * 2 ^ (8 * (0x40 + 32 * k))) 0
    + digestBytes (configHash s) * 2 ^ (8 * 0x140) + keyTableHash s * 2 ^ (8 * 0x160) + (s.pkr 0x800).toNat * 2 ^ (8 * 0x180)

/-- The device key's signature over SM3 of a report's bytes 0x000 to 0x18F: r and s, most significant byte first (R66, R69, R480). -/
def reportSignature (body tick : Nat) : Nat :=
  let (r, v) := sm2Sign (1 + Config.deviceKey.toNat % (sm2N - 2)) (1 + (Config.signNonce tick).toNat % (sm2N - 1)) (sm3 (bytesLE 0x190 body)).toNat
  ofBytesLE (be32 r ++ be32 v)

/-- A nonce request is answered with a signed report (R480). -/
def attest (nonce : Nat) (s : State) : State :=
  let s := noteRead s (keyTable s).1 (keyTable s).2
  s.send (.report (reportBody nonce s) (reportSignature (reportBody nonce s) s.tick))

/-- `ATTESTATION_REQUEST` (R480): The attestation endpoint answers a nonce with a signed report. -/
def execAttestationRequest (nonce : BitVec 256) (s : State) : Host.Outcome State Fault Refusal := .next (attest nonce.toNat s)

/-- The first time after `now` that lies a whole number of milliseconds, at least one, behind `due`. -/
def nextDue (due now : Nat) : Nat := due + 1000000 * ((now - due) / 1000000 + 1)

/-! ### Telemetry (R481) -/

/-- Counter `i` of a sample: a count, the package power in mW, or the hottest temperature. -/
def sampleCounter (s : State) (i : Nat) : Nat :=
  if i = 11 then s.watts.headD 0 * 1000
  else if i = 12 then s.islands.foldl (fun m p => max m (p.2.temp % 256)) 0
  else Tab.get s.counters i % 2 ^ 64

/-- A telemetry sample whose time has come is written, 1,000,000 ns of `TIME` after the one before it was due (R32; log 64), and posted to the host in host-assisted mode (R27, R481). -/
def telemetrySample (s : State) : State :=
  if !bitOf (s.pkr 0x862).toNat 0 ∨ s.time.toNat < s.sampleAt then s
  else
    let k := s.sample
    let a := fld (s.pkr 0x862).toNat 16 36 * 65536 + 256 * (k % 2)
    let (s, old) := physReadFree s (a + 0x10) 1
    let ovr := if 2 ≤ k ∧ !bitOf old 1 then 1 else 0
    let s := physWrite s a 8 s.time.toNat
    let s := physWrite s (a + 8) 8 k
    let s := physWrite s (a + 0x10) 1 ovr
    let s := (range' 0 13).foldl (fun s i => physWrite s (a + 0x18 + 8 * i) 8 (sampleCounter s i)) s
    let s := { s with sample := k + 1, sampleAt := nextDue s.sampleAt s.time.toNat }
    if bitOf (s.pkr 0x800).toNat 7 then postEvent s { kind := 7, queue := 0, subject := 0, ecause := 0, eval := 0, trec := 0 } else s

/-- `TELEMETRY_SAMPLE` (R481): Every 1 ms the package writes a telemetry sample and may post an event. -/
def execTelemetrySample (s : State) : Host.Outcome State Fault Refusal := .next (telemetrySample s)

/-! ### Islands (R471 to R473) -/

def State.island (s : State) (i : Nat) : Island := Tab.getD s.islands i { st := 0, req := 0, opp := 0, oppReq := 0, temp := 0, thermal := 0, cap := 0 }

def State.setIsland (s : State) (i : Nat) (x : Island) : State := { s with islands := Tab.set s.islands i x }

/-- The state of `REQ` that an island permits nearest to the one asked for, and not deeper (R471, R473). -/
def permitted (i req : Nat) : Nat :=
  if i < 16 then req
  else if i < 20 then min req 1
  else if i < 28 then req
  else if i < 36 then 0
  else if i < 68 then (if req = 2 then 2 else 0)
  else if i < 72 then req
  else 0

/-- An island holds work (R472). -/
def islandBusy (s : State) (i : Nat) : Bool :=
  if i < 16 then s.strands.any (fun p => clusterOf p.1 == i && p.2.run != .free)
    || s.gangs.any (fun g => g.2.cluster == i && g.2.failed.isNone)
  else if i < 20 then s.lines.any (fun l => quadOf l.1 == i - 16 && l.2.dirty)
  else if i < 28 then s.strands.any (fun p => p.2.bankQ.any (fun e => e.names.any (fun b => b / 512 == i - 20)))
  else if i < 36 then true
  else if i < 68 then (range' (4 * (i - 36)) 4).any (fun p => match Tab.find s.ports p with | some q => q.st != 0 && q.st != 5 | none => false)
  else if i < 72 then s.slots.any (fun p => p.1 / 8 / 4 == i - 68)
  else true

/-- A write of `ICTL.REQ` (R473). -/
def ictlReq (i req : Nat) (s : State) : State :=
  if req = 3 ∨ 75 < i then s
  else
    let s := s.setIsland i { s.island i with req := permitted i req }
    if permitted i req = 0 then s.raise (.islandWake i) else s.raise (.islandGate i)

/-- `ICTL_REQ_WRITE` (R473): Requests an island state of On, clock-gated or power-gated. -/
def execIctlReqWrite (isl : BitVec 7) (req : BitVec 2) (s : State) : Host.Outcome State Fault Refusal := .next (ictlReq isl.toNat req.toNat s)

/-- A write of `ICTL.OPP` (R473): islands without the core clock ignore it. -/
def ictlOpp (i opp : Nat) (s : State) : State :=
  if coreIsland i then (s.setIsland i { s.island i with oppReq := opp % 4 }).raise (.opPoint i) else s

/-- `ICTL_OPP_WRITE` (R473): Requests an operating point for a core-clock island. -/
def execIctlOppWrite (isl : BitVec 7) (opp : BitVec 4) (s : State) : Host.Outcome State Fault Refusal := .next (ictlOpp isl.toNat opp.toNat s)

/-- The slowest of `OPP`, the thermal point and the power-cap point (R473). -/
def Island.point (x : Island) : Nat := max x.oppReq (max x.thermal x.cap)

/-- A new operating point takes effect (R473). -/
def opPoint (i : Nat) (s : State) : State := if coreIsland i then s.setIsland i { s.island i with opp := (s.island i).point } else s

/-- `OPERATING_POINT_CHANGE` (R473): A new operating point takes effect within 2,000 core cycles. -/
def execOperatingPointChange (isl : BitVec 7) (s : State) : Host.Outcome State Fault Refusal := .next (opPoint isl.toNat s)

/-- What gating does besides stopping the island (R472): a quadrant writes back its dirty lines first, and the ports of a link island
go Down. -/
def gateEffect (i : Nat) (s : State) : State :=
  if 16 ≤ i ∧ i < 20 then (s.lines.filter (fun l => quadOf l.1 == i - 16)).foldl (fun s l => flushLine s l.1) s
  else if 36 ≤ i ∧ i < 68 then
    (range' (4 * (i - 36)) 4).foldl (fun (s : State) p => match Tab.find s.ports p with
      | some q => { s with ports := Tab.set s.ports p { q with st := 0 } }
      | none => s) s
  else s

/-- An island leaves On for the state that `REQ` asks for, when it holds no work (R472). -/
def islandGate (i : Nat) (s : State) : State :=
  if (s.island i).req = 0 ∨ 75 < i then s
  else
    let t := if 16 ≤ i ∧ i < 20 then gateEffect i s else s
    if islandBusy t i then s
    else
      let t := gateEffect i t
      t.setIsland i { t.island i with st := (t.island i).req }

/-- `ISLAND_GATE` (R472): An island with no work leaves On for its requested state. -/
def execIslandGate (isl : BitVec 7) (s : State) : Host.Outcome State Fault Refusal := .next (islandGate isl.toNat s)

/-- An island for which `REQ` asks On, or that work has reached, returns to On (R472). -/
def islandWake (i : Nat) (s : State) : State := if (s.island i).req = 0 ∨ islandBusy s i then s.wake i else s

/-- `ISLAND_WAKE` (R472): Work reaching a gated island returns it to On after its wake time. -/
def execIslandWake (isl : BitVec 7) (s : State) : Host.Outcome State Fault Refusal := .next (islandWake isl.toNat s)

/-- Work has reached island `i` between the states `s` and `t` (R472): it holds work, or its quadrant has served an access. -/
def reached (s t : State) (i : Nat) : Bool :=
  islandBusy t i || (decide (16 ≤ i ∧ i < 20) && t.lines.any (fun l => quadOf l.1 == i - 16 && decide (s.useClock ≤ l.2.used)))

/-- Work that has reached a gated island in the step from `s` to `t` returns it to On (R472). -/
def wakeBusy (s t : State) : State := t.islands.foldl (fun u p => if p.2.st ≠ 0 ∧ reached s u p.1 then u.wake p.1 else u) t

/-! ### Thermal limits, the power cap and hardware errors (R130, R474, R475) -/

/-- Delivers MCHK with an error code to the strand of a context (R130, R131). -/
def mchkTo (code : Nat) (s : State) (c : Nat) : State :=
  onCtx c (fun s =>
    let t : Trap := { cause := cMCHK, eval := code, seq := s.seqNow }
    if haltWaits s || begunAccess s then s.mapSt (fun st => { st with late := insertLate t st.late }) else deliver s t) s

/-- The supervisor contexts: those that hold a strand which the Ford has started and which belongs to no gang (R477). -/
def supervisors (s : State) : List Nat :=
  (s.strands.filter (fun p => p.2.run != .free && p.2.gang.isNone && p.2.pool.isSome)).map (fun p => p.1)

/-- The limit of an island at a temperature (R474): below 95 °C its point is released; from 100 °C on, that of a core-clock island is lowered by
one step, at most once in 1,000,000 ns of `TIME`. -/
def Island.atTemp (x : Island) (i temp now : Nat) : Island :=
  let x := { x with temp := min temp 255 }
  if temp < 95 then { x with thermal := 0 }
  else if 100 ≤ temp ∧ coreIsland i ∧ x.stepAt ≤ now then { x with thermal := min 3 (x.thermal + 1), stepAt := now + 1000000 }
  else x

/-- A temperature is measured (R474). -/
def thermalStep (i temp : Nat) (s : State) : State :=
  let s := (s.setIsland i ((s.island i).atTemp i temp s.time.toNat)).raise (.opPoint i)
  if 110 ≤ temp then (supervisors s).foldl (mchkTo 0x0101) s else s

/-- The management controller removes package power, and records the event in module flash (R474). -/
def removePower (i temp : Nat) (s : State) : State :=
  { s with powered := false, strands := [], thermalLog := (s.time.toNat, i, temp) :: s.thermalLog }

/-- `THERMAL_STEP` (R474): Every 1 ms junction temperatures lower or release thermal points, or raise MCHK or remove power. -/
def execThermalStep (isl : BitVec 7) (temp : BitVec 9) (s : State) : Host.Outcome State Fault Refusal :=
  if 75 < isl.toNat then .next s
  else if 115 ≤ temp.toNat then .next (removePower isl.toNat temp.toNat s)
  else .next (thermalStep isl.toNat temp.toNat s)

/-- The power of the last 10 ms, against a share in hundredths of the cap: the sum of the measurements against as many times the share. -/
def powerSum (s : State) : Nat := s.watts.foldl (· + ·) 0
def capShare (s : State) (pc : Nat) : Nat := s.powerCap * s.watts.length * pc

/-- The cluster whose power-cap point is lowered next, and the one that is raised next (R475; log 21). -/
def capLower (s : State) : Option Nat := (range' 0 16).reverse.find? (fun c => decide ((s.island c).cap < 3))
def capRaise (s : State) : Option Nat := (range' 0 16).find? (fun c => decide (0 < (s.island c).cap))

/-- A measurement of the package's power, when its time has come: 1,000,000 ns of `TIME` after the one before it was due (R475; log 64). -/
def powerStep (w : Nat) (s : State) : State :=
  if s.time.toNat < s.wattsAt then s else
  let s := { s with watts := (w :: s.watts).take 10, wattsAt := nextDue s.wattsAt s.time.toNat }
  let s := { s with capping := if capShare s 100 < powerSum s * 100 then true else s.capping && decide (capShare s 100 ≤ powerSum s * 100) }
  if s.capping then
    match capLower s with
    | some c => (s.setIsland c { s.island c with cap := (s.island c).cap + 1 }).raise (.opPoint c)
    | none => s
  else if powerSum s * 100 ≤ capShare s 95 then
    match capRaise s with
    | some c => (s.setIsland c { s.island c with cap := (s.island c).cap - 1 }).raise (.opPoint c)
    | none => s
  else s

/-- `POWER_CAP_STEP` (R475): Every 1 ms the controller lowers or raises cluster points against the power cap. -/
def execPowerCapStep (watts : BitVec 16) (s : State) : Host.Outcome State Fault Refusal := .next (powerStep watts.toNat s)

/-- An uncontained hardware error is delivered as MCHK with its error code, below 0x0200, to the strand whose turn it is (R130, R131;
log 22). -/
def hardwareError (code : Nat) (s : State) : State := if s.st.run = .free ∨ 0x200 ≤ code then s else mchkTo code s s.cur

/-- `UNCONTAINED_HARDWARE_ERROR` (R130): An uncontained hardware error raises MCHK with its error code to machine level. -/
def execUncontainedHardwareError (code : BitVec 16) (s : State) : Host.Outcome State Fault Refusal := .next (hardwareError code.toNat s)

end Sys2Proof.Machine
end

