-- ==== Sys2Proof/Machine/VecRun.lean ====
section
/-! DEFINITION. The instructions that enter the vector queue: majors 0x20 to 0x2C, 0x36 and 0x37. Each commits an entry (R200) whose work is
that of the table of the vector queue. -/

namespace Sys2Proof.Machine

/-! ### The configuration instructions (R218 to R224) -/

/-- `SETMF` (R220). -/
def execSetmf (d a : BitVec 5) (σ : State) : Host.Outcome State Fault Refusal :=
  vecRun (commitV (.setmf d a) { reads := [(.x, a.toNat)], dest := some (.x, d.toNat) } (op1 := capX a) (one := true)) σ

/-- `SETRM` (R220). -/
def execSetrm (d a : BitVec 5) (σ : State) : Host.Outcome State Fault Refusal :=
  vecRun (commitV (.setrm d a) { reads := [(.x, a.toNat)], dest := some (.x, d.toNat) } (op1 := capX a) (one := true)) σ

/-- `VSAVE` (R223). -/
def execVsave (a b : BitVec 5) (σ : State) : Host.Outcome State Fault Refusal :=
  vecRun (commitV (.vsave a b)
    { reads := [(.x, a.toNat), (.x, b.toNat)], priv := true }
    (op1 := capX a) (op2 := capX b) (one := true)) σ

/-- `VRST` (R224). -/
def execVrst (a : BitVec 5) (σ : State) : Host.Outcome State Fault Refusal :=
  vecRun (commitV (.vrst a) { reads := [(.x, a.toNat)], priv := true } (op1 := capX a) (one := true)) σ

/-! ### Integer arithmetic (R231) -/

/-- `VADD_INT` (R231). -/
def execVaddInt (d a b : BitVec 5) (m : BitVec 3) (t : BitVec 4) (σ : State) : Host.Outcome State Fault Refusal :=
  vecRun (commitV (.vaddInt d a b m t)
    { reads := [(.v, a.toNat), (.v, b.toNat)], dest := some (.v, d.toNat), mask := some m.toNat }) σ

/-- `VSUB_INT` (R231). -/
def execVsubInt (d a b : BitVec 5) (m : BitVec 3) (t : BitVec 4) (σ : State) : Host.Outcome State Fault Refusal :=
  vecRun (commitV (.vsubInt d a b m t)
    { reads := [(.v, a.toNat), (.v, b.toNat)], dest := some (.v, d.toNat), mask := some m.toNat }) σ

/-- `VMUL_INT` (R231). -/
def execVmulInt (d a b : BitVec 5) (m : BitVec 3) (t : BitVec 4) (σ : State) : Host.Outcome State Fault Refusal :=
  vecRun (commitV (.vmulInt d a b m t)
    { reads := [(.v, a.toNat), (.v, b.toNat)], dest := some (.v, d.toNat), mask := some m.toNat }) σ

/-- `VMULH` (R231). -/
def execVmulh (d a b : BitVec 5) (m : BitVec 3) (t : BitVec 4) (σ : State) : Host.Outcome State Fault Refusal :=
  vecRun (commitV (.vmulh d a b m t)
    { reads := [(.v, a.toNat), (.v, b.toNat)], dest := some (.v, d.toNat), mask := some m.toNat }) σ

/-- `VMIN_INT` (R231). -/
def execVminInt (d a b : BitVec 5) (m : BitVec 3) (t : BitVec 4) (σ : State) : Host.Outcome State Fault Refusal :=
  vecRun (commitV (.vminInt d a b m t)
    { reads := [(.v, a.toNat), (.v, b.toNat)], dest := some (.v, d.toNat), mask := some m.toNat }) σ

/-- `VMAX_INT` (R231). -/
def execVmaxInt (d a b : BitVec 5) (m : BitVec 3) (t : BitVec 4) (σ : State) : Host.Outcome State Fault Refusal :=
  vecRun (commitV (.vmaxInt d a b m t)
    { reads := [(.v, a.toNat), (.v, b.toNat)], dest := some (.v, d.toNat), mask := some m.toNat }) σ

/-- `VSATADD` (R231). -/
def execVsatadd (d a b : BitVec 5) (m : BitVec 3) (t : BitVec 4) (σ : State) : Host.Outcome State Fault Refusal :=
  vecRun (commitV (.vsatadd d a b m t)
    { reads := [(.v, a.toNat), (.v, b.toNat)], dest := some (.v, d.toNat), mask := some m.toNat }) σ

/-- `VSATSUB` (R231). -/
def execVsatsub (d a b : BitVec 5) (m : BitVec 3) (t : BitVec 4) (σ : State) : Host.Outcome State Fault Refusal :=
  vecRun (commitV (.vsatsub d a b m t)
    { reads := [(.v, a.toNat), (.v, b.toNat)], dest := some (.v, d.toNat), mask := some m.toNat }) σ

/-- `VSHL` (R231). -/
def execVshl (d a b : BitVec 5) (m : BitVec 3) (t : BitVec 4) (σ : State) : Host.Outcome State Fault Refusal :=
  vecRun (commitV (.vshl d a b m t) { reads := [(.v, a.toNat), (.v, b.toNat)], dest := some (.v, d.toNat), mask := some m.toNat }) σ

/-- `VSHR` (R231). -/
def execVshr (d a b : BitVec 5) (m : BitVec 3) (t : BitVec 4) (σ : State) : Host.Outcome State Fault Refusal :=
  vecRun (commitV (.vshr d a b m t) { reads := [(.v, a.toNat), (.v, b.toNat)], dest := some (.v, d.toNat), mask := some m.toNat }) σ

/-- `VSRA` (R231). -/
def execVsra (d a b : BitVec 5) (m : BitVec 3) (t : BitVec 4) (σ : State) : Host.Outcome State Fault Refusal :=
  vecRun (commitV (.vsra d a b m t) { reads := [(.v, a.toNat), (.v, b.toNat)], dest := some (.v, d.toNat), mask := some m.toNat }) σ

/-- `VAND` (R231). -/
def execVand (d a b : BitVec 5) (m : BitVec 3) (t : BitVec 4) (σ : State) : Host.Outcome State Fault Refusal :=
  vecRun (commitV (.vand d a b m t) { reads := [(.v, a.toNat), (.v, b.toNat)], dest := some (.v, d.toNat), mask := some m.toNat }) σ

/-- `VOR` (R231). -/
def execVor (d a b : BitVec 5) (m : BitVec 3) (t : BitVec 4) (σ : State) : Host.Outcome State Fault Refusal :=
  vecRun (commitV (.vor d a b m t) { reads := [(.v, a.toNat), (.v, b.toNat)], dest := some (.v, d.toNat), mask := some m.toNat }) σ

/-- `VXOR` (R231). -/
def execVxor (d a b : BitVec 5) (m : BitVec 3) (t : BitVec 4) (σ : State) : Host.Outcome State Fault Refusal :=
  vecRun (commitV (.vxor d a b m t) { reads := [(.v, a.toNat), (.v, b.toNat)], dest := some (.v, d.toNat), mask := some m.toNat }) σ

/-- `VABS_INT` (R231). -/
def execVabsInt (d a : BitVec 5) (m : BitVec 3) (t : BitVec 4) (σ : State) : Host.Outcome State Fault Refusal :=
  vecRun (commitV (.vabsInt d a m t) { reads := [(.v, a.toNat)], dest := some (.v, d.toNat), mask := some m.toNat }) σ

/-- `VNEG_INT` (R231). -/
def execVnegInt (d a : BitVec 5) (m : BitVec 3) (t : BitVec 4) (σ : State) : Host.Outcome State Fault Refusal :=
  vecRun (commitV (.vnegInt d a m t) { reads := [(.v, a.toNat)], dest := some (.v, d.toNat), mask := some m.toNat }) σ

/-! ### Floating-point arithmetic (R232 to R234) -/

/-- `VADD_FP` (R232). -/
def execVaddFp (d a b : BitVec 5) (m : BitVec 3) (t : BitVec 4) (σ : State) : Host.Outcome State Fault Refusal :=
  vecRun (commitV (.vaddFp d a b m t)
    { reads := [(.v, a.toNat), (.v, b.toNat)], dest := some (.v, d.toNat), mask := some m.toNat }) σ

/-- `VSUB_FP` (R232). -/
def execVsubFp (d a b : BitVec 5) (m : BitVec 3) (t : BitVec 4) (σ : State) : Host.Outcome State Fault Refusal :=
  vecRun (commitV (.vsubFp d a b m t)
    { reads := [(.v, a.toNat), (.v, b.toNat)], dest := some (.v, d.toNat), mask := some m.toNat }) σ

/-- `VMUL_FP` (R232). -/
def execVmulFp (d a b : BitVec 5) (m : BitVec 3) (t : BitVec 4) (σ : State) : Host.Outcome State Fault Refusal :=
  vecRun (commitV (.vmulFp d a b m t)
    { reads := [(.v, a.toNat), (.v, b.toNat)], dest := some (.v, d.toNat), mask := some m.toNat }) σ

/-- `VFMA` (R232). -/
def execVfma (d a b : BitVec 5) (m : BitVec 3) (t : BitVec 4) (σ : State) : Host.Outcome State Fault Refusal :=
  vecRun (commitV (.vfma d a b m t)
    { reads := [(.v, d.toNat), (.v, a.toNat), (.v, b.toNat)], dest := some (.v, d.toNat), mask := some m.toNat }) σ

/-- `VFMS` (R232). -/
def execVfms (d a b : BitVec 5) (m : BitVec 3) (t : BitVec 4) (σ : State) : Host.Outcome State Fault Refusal :=
  vecRun (commitV (.vfms d a b m t)
    { reads := [(.v, d.toNat), (.v, a.toNat), (.v, b.toNat)], dest := some (.v, d.toNat), mask := some m.toNat }) σ

/-- `VFNMA` (R232). -/
def execVfnma (d a b : BitVec 5) (m : BitVec 3) (t : BitVec 4) (σ : State) : Host.Outcome State Fault Refusal :=
  vecRun (commitV (.vfnma d a b m t)
    { reads := [(.v, d.toNat), (.v, a.toNat), (.v, b.toNat)], dest := some (.v, d.toNat), mask := some m.toNat }) σ

/-- `VDIV` (R232). -/
def execVdiv (d a b : BitVec 5) (m : BitVec 3) (t : BitVec 4) (σ : State) : Host.Outcome State Fault Refusal :=
  vecRun (commitV (.vdiv d a b m t) { reads := [(.v, a.toNat), (.v, b.toNat)], dest := some (.v, d.toNat), mask := some m.toNat }) σ

/-- `VSQRT` (R232). -/
def execVsqrt (d a : BitVec 5) (m : BitVec 3) (t : BitVec 4) (σ : State) : Host.Outcome State Fault Refusal :=
  vecRun (commitV (.vsqrt d a m t) { reads := [(.v, a.toNat)], dest := some (.v, d.toNat), mask := some m.toNat }) σ

/-- `VRCP` (R232). -/
def execVrcp (d a : BitVec 5) (m : BitVec 3) (t : BitVec 4) (σ : State) : Host.Outcome State Fault Refusal :=
  vecRun (commitV (.vrcp d a m t) { reads := [(.v, a.toNat)], dest := some (.v, d.toNat), mask := some m.toNat }) σ

/-- `VRSQ` (R232). -/
def execVrsq (d a : BitVec 5) (m : BitVec 3) (t : BitVec 4) (σ : State) : Host.Outcome State Fault Refusal :=
  vecRun (commitV (.vrsq d a m t) { reads := [(.v, a.toNat)], dest := some (.v, d.toNat), mask := some m.toNat }) σ

/-- `VMIN_FP` (R232). -/
def execVminFp (d a b : BitVec 5) (m : BitVec 3) (t : BitVec 4) (σ : State) : Host.Outcome State Fault Refusal :=
  vecRun (commitV (.vminFp d a b m t)
    { reads := [(.v, a.toNat), (.v, b.toNat)], dest := some (.v, d.toNat), mask := some m.toNat }) σ

/-- `VMAX_FP` (R232). -/
def execVmaxFp (d a b : BitVec 5) (m : BitVec 3) (t : BitVec 4) (σ : State) : Host.Outcome State Fault Refusal :=
  vecRun (commitV (.vmaxFp d a b m t)
    { reads := [(.v, a.toNat), (.v, b.toNat)], dest := some (.v, d.toNat), mask := some m.toNat }) σ

/-- `VABS_FP` (R232). -/
def execVabsFp (d a : BitVec 5) (m : BitVec 3) (t : BitVec 4) (σ : State) : Host.Outcome State Fault Refusal :=
  vecRun (commitV (.vabsFp d a m t) { reads := [(.v, a.toNat)], dest := some (.v, d.toNat), mask := some m.toNat }) σ

/-- `VNEG_FP` (R232). -/
def execVnegFp (d a : BitVec 5) (m : BitVec 3) (t : BitVec 4) (σ : State) : Host.Outcome State Fault Refusal :=
  vecRun (commitV (.vnegFp d a m t) { reads := [(.v, a.toNat)], dest := some (.v, d.toNat), mask := some m.toNat }) σ

/-- `VSCALE` (R232). -/
def execVscale (d a b : BitVec 5) (m : BitVec 3) (t : BitVec 4) (σ : State) : Host.Outcome State Fault Refusal :=
  vecRun (commitV (.vscale d a b m t)
    { reads := [(.v, a.toNat), (.v, b.toNat)], dest := some (.v, d.toNat), mask := some m.toNat }) σ

/-- `VRND` (R234). -/
def execVrnd (d a : BitVec 5) (r m : BitVec 3) (t : BitVec 4) (σ : State) : Host.Outcome State Fault Refusal :=
  vecRun (commitV (.vrnd d a r m t) { reads := [(.v, a.toNat)], dest := some (.v, d.toNat), mask := some m.toNat }) σ

/-! ### Comparison, selection and masks (R235 to R237) -/

/-- `VCMP_EQ` (R235). -/
def execVcmpEq (d a b : BitVec 5) (m : BitVec 3) (t : BitVec 4) (σ : State) : Host.Outcome State Fault Refusal :=
  vecRun (commitV (.vcmpEq d a b m t)
    { reads := [(.v, a.toNat), (.v, b.toNat)], dest := some (.m, d.toNat), mask := some m.toNat }) σ

/-- `VCMP_NE` (R235). -/
def execVcmpNe (d a b : BitVec 5) (m : BitVec 3) (t : BitVec 4) (σ : State) : Host.Outcome State Fault Refusal :=
  vecRun (commitV (.vcmpNe d a b m t)
    { reads := [(.v, a.toNat), (.v, b.toNat)], dest := some (.m, d.toNat), mask := some m.toNat }) σ

/-- `VCMP_LT` (R235). -/
def execVcmpLt (d a b : BitVec 5) (m : BitVec 3) (t : BitVec 4) (σ : State) : Host.Outcome State Fault Refusal :=
  vecRun (commitV (.vcmpLt d a b m t)
    { reads := [(.v, a.toNat), (.v, b.toNat)], dest := some (.m, d.toNat), mask := some m.toNat }) σ

/-- `VCMP_LE` (R235). -/
def execVcmpLe (d a b : BitVec 5) (m : BitVec 3) (t : BitVec 4) (σ : State) : Host.Outcome State Fault Refusal :=
  vecRun (commitV (.vcmpLe d a b m t)
    { reads := [(.v, a.toNat), (.v, b.toNat)], dest := some (.m, d.toNat), mask := some m.toNat }) σ

/-- `VCMP_UN` (R235). -/
def execVcmpUn (d a b : BitVec 5) (m : BitVec 3) (t : BitVec 4) (σ : State) : Host.Outcome State Fault Refusal :=
  vecRun (commitV (.vcmpUn d a b m t)
    { reads := [(.v, a.toNat), (.v, b.toNat)], dest := some (.m, d.toNat), mask := some m.toNat }) σ

/-- `VSEL` (R236). -/
def execVsel (d a b : BitVec 5) (m : BitVec 3) (t : BitVec 4) (σ : State) : Host.Outcome State Fault Refusal :=
  vecRun (commitV (.vsel d a b m t) { reads := [(.v, a.toNat), (.v, b.toNat)], dest := some (.v, d.toNat), mask := some m.toNat }) σ

/-- `MAND` (R235). -/
def execMand (d a b : BitVec 5) (m : BitVec 3) (σ : State) : Host.Outcome State Fault Refusal :=
  vecRun (commitV (.mand d a b m) { reads := [(.m, a.toNat), (.m, b.toNat)], dest := some (.m, d.toNat), mask := some m.toNat }) σ

/-- `MOR` (R235). -/
def execMor (d a b : BitVec 5) (m : BitVec 3) (σ : State) : Host.Outcome State Fault Refusal :=
  vecRun (commitV (.mor d a b m) { reads := [(.m, a.toNat), (.m, b.toNat)], dest := some (.m, d.toNat), mask := some m.toNat }) σ

/-- `MXOR` (R235). -/
def execMxor (d a b : BitVec 5) (m : BitVec 3) (σ : State) : Host.Outcome State Fault Refusal :=
  vecRun (commitV (.mxor d a b m) { reads := [(.m, a.toNat), (.m, b.toNat)], dest := some (.m, d.toNat), mask := some m.toNat }) σ

/-- `MNOT` (R235). -/
def execMnot (d a : BitVec 5) (m : BitVec 3) (σ : State) : Host.Outcome State Fault Refusal :=
  vecRun (commitV (.mnot d a m) { reads := [(.m, a.toNat)], dest := some (.m, d.toNat), mask := some m.toNat }) σ

/-- `MSET` (R235). -/
def execMset (d : BitVec 5) (m : BitVec 3) (σ : State) : Host.Outcome State Fault Refusal :=
  vecRun (commitV (.mset d m) { dest := some (.m, d.toNat), mask := some m.toNat }) σ

/-- `MCLR` (R235). -/
def execMclr (d : BitVec 5) (m : BitVec 3) (σ : State) : Host.Outcome State Fault Refusal :=
  vecRun (commitV (.mclr d m) { dest := some (.m, d.toNat), mask := some m.toNat }) σ

/-- `VPOPC` (R237). -/
def execVpopc (d a : BitVec 5) (m : BitVec 3) (σ : State) : Host.Outcome State Fault Refusal :=
  vecRun (commitV (.vpopc d a m) { reads := [(.m, a.toNat)], dest := some (.x, d.toNat), mask := some m.toNat } (one := true)) σ

/-- `VFIRST` (R237). -/
def execVfirst (d a : BitVec 5) (m : BitVec 3) (σ : State) : Host.Outcome State Fault Refusal :=
  vecRun (commitV (.vfirst d a m) { reads := [(.m, a.toNat)], dest := some (.x, d.toNat), mask := some m.toNat } (one := true)) σ

/-! ### Conversion and moves (R238 to R240) -/

/-- `VCVT` (R239). -/
def execVcvt (d a : BitVec 5) (r : BitVec 1) (s : BitVec 4) (m : BitVec 3) (t : BitVec 4) (σ : State) : Host.Outcome State Fault Refusal :=
  vecRun (commitV (.vcvt d a r s m t) { reads := [(.v, a.toNat)], dest := some (.v, d.toNat), mask := some m.toNat }) σ

/-- `VFRAC` (R240). -/
def execVfrac (d a : BitVec 5) (m : BitVec 3) (t : BitVec 4) (σ : State) : Host.Outcome State Fault Refusal :=
  vecRun (commitV (.vfrac d a m t) { reads := [(.v, a.toNat)], dest := some (.v, d.toNat), mask := some m.toNat }) σ

/-- `VCLASS` (R240). -/
def execVclass (d a : BitVec 5) (m : BitVec 3) (t : BitVec 4) (σ : State) : Host.Outcome State Fault Refusal :=
  vecRun (commitV (.vclass d a m t) { reads := [(.v, a.toNat)], dest := some (.v, d.toNat), mask := some m.toNat }) σ

/-- `VMV_V` (R238). -/
def execVmvV (d a : BitVec 5) (m : BitVec 3) (t : BitVec 4) (σ : State) : Host.Outcome State Fault Refusal :=
  vecRun (commitV (.vmvV d a m t) { reads := [(.v, a.toNat)], dest := some (.v, d.toNat), mask := some m.toNat }) σ

/-- `VMV_X` (R238). -/
def execVmvX (d b : BitVec 5) (m : BitVec 3) (t : BitVec 4) (σ : State) : Host.Outcome State Fault Refusal :=
  vecRun (commitV (.vmvX d b m t) { reads := [(.x, b.toNat)], dest := some (.v, d.toNat), mask := some m.toNat } (op1 := capX b)) σ

/-- `VID` (R238). -/
def execVid (d : BitVec 5) (m : BitVec 3) (t : BitVec 4) (σ : State) : Host.Outcome State Fault Refusal :=
  vecRun (commitV (.vid d m t) { dest := some (.v, d.toNat), mask := some m.toNat }) σ

/-- `VIOTA` (R238). -/
def execViota (d a : BitVec 5) (m : BitVec 3) (t : BitVec 4) (σ : State) : Host.Outcome State Fault Refusal :=
  vecRun (commitV (.viota d a m t) { reads := [(.m, a.toNat)], dest := some (.v, d.toNat), mask := some m.toNat }) σ

/-! ### Reductions, scans and holds (R243 to R247) -/

/-- `VREDO` (R245). -/
def execVredo (a : BitVec 5) (h : BitVec 2) (m : BitVec 3) (t : BitVec 4) (σ : State) : Host.Outcome State Fault Refusal :=
  vecRun (commitV (.vredo a h m t) { reads := [(.v, a.toNat)], mask := some m.toNat }) σ

/-- `VREDT` (R244). -/
def execVredt (a : BitVec 5) (h : BitVec 2) (m : BitVec 3) (t : BitVec 4) (σ : State) : Host.Outcome State Fault Refusal :=
  vecRun (commitV (.vredt a h m t) { reads := [(.v, a.toNat)], mask := some m.toNat }) σ

/-- `VREDMAX` (R245). -/
def execVredmax (a : BitVec 5) (h : BitVec 2) (m : BitVec 3) (t : BitVec 4) (σ : State) : Host.Outcome State Fault Refusal :=
  vecRun (commitV (.vredmax a h m t) { reads := [(.v, a.toNat)], mask := some m.toNat }) σ

/-- `VREDMIN` (R245). -/
def execVredmin (a : BitVec 5) (h : BitVec 2) (m : BitVec 3) (t : BitVec 4) (σ : State) : Host.Outcome State Fault Refusal :=
  vecRun (commitV (.vredmin a h m t) { reads := [(.v, a.toNat)], mask := some m.toNat }) σ

/-- `VREDAND` (R245). -/
def execVredand (a : BitVec 5) (h : BitVec 2) (m : BitVec 3) (t : BitVec 4) (σ : State) : Host.Outcome State Fault Refusal :=
  vecRun (commitV (.vredand a h m t) { reads := [(.v, a.toNat)], mask := some m.toNat }) σ

/-- `VREDOR` (R245). -/
def execVredor (a : BitVec 5) (h : BitVec 2) (m : BitVec 3) (t : BitVec 4) (σ : State) : Host.Outcome State Fault Refusal :=
  vecRun (commitV (.vredor a h m t) { reads := [(.v, a.toNat)], mask := some m.toNat }) σ

/-- `VREDXOR` (R245). -/
def execVredxor (a : BitVec 5) (h : BitVec 2) (m : BitVec 3) (t : BitVec 4) (σ : State) : Host.Outcome State Fault Refusal :=
  vecRun (commitV (.vredxor a h m t) { reads := [(.v, a.toNat)], mask := some m.toNat }) σ

/-- `VSCAN` (R246). -/
def execVscan (d a : BitVec 5) (h : BitVec 2) (m : BitVec 3) (t : BitVec 4) (σ : State) : Host.Outcome State Fault Refusal :=
  vecRun (commitV (.vscan d a h m t) { reads := [(.v, a.toNat)], dest := some (.v, d.toNat), mask := some m.toNat }) σ

/-- `VSCANX` (R246). -/
def execVscanx (d a : BitVec 5) (h : BitVec 2) (m : BitVec 3) (t : BitVec 4) (σ : State) : Host.Outcome State Fault Refusal :=
  vecRun (commitV (.vscanx d a h m t) { reads := [(.v, a.toNat)], dest := some (.v, d.toNat), mask := some m.toNat }) σ

/-- `VHRD` (R247). -/
def execVhrd (d : BitVec 5) (h : BitVec 2) (t : BitVec 4) (σ : State) : Host.Outcome State Fault Refusal :=
  vecRun (commitV (.vhrd d h t) { dest := some (.x, d.toNat) } (one := true)) σ

/-- `VHCLR` (R247). -/
def execVhclr (h : BitVec 2) (σ : State) : Host.Outcome State Fault Refusal :=
  vecRun (commitV (.vhclr h) {} (one := true)) σ

/-! ### Permutations (R249 to R253) -/

/-- `VCOMPRESS` (R251). -/
def execVcompress (d a : BitVec 5) (m : BitVec 3) (t : BitVec 4) (σ : State) : Host.Outcome State Fault Refusal :=
  vecRun (commitV (.vcompress d a m t) { reads := [(.v, a.toNat)], dest := some (.v, d.toNat), mask := some m.toNat }) σ

/-- `VEXPAND` (R251). -/
def execVexpand (d a : BitVec 5) (m : BitVec 3) (t : BitVec 4) (σ : State) : Host.Outcome State Fault Refusal :=
  vecRun (commitV (.vexpand d a m t) { reads := [(.v, a.toNat)], dest := some (.v, d.toNat), mask := some m.toNat }) σ

/-- `VSLIDEUP` (R249). -/
def execVslideup (d a b : BitVec 5) (m : BitVec 3) (t : BitVec 4) (σ : State) : Host.Outcome State Fault Refusal :=
  vecRun (commitV (.vslideup d a b m t)
    { reads := [(.v, a.toNat), (.x, b.toNat)], dest := some (.v, d.toNat), mask := some m.toNat }
    (op1 := capX b)) σ

/-- `VSLIDEDN` (R249). -/
def execVslidedn (d a b : BitVec 5) (m : BitVec 3) (t : BitVec 4) (σ : State) : Host.Outcome State Fault Refusal :=
  vecRun (commitV (.vslidedn d a b m t)
    { reads := [(.v, a.toNat), (.x, b.toNat)], dest := some (.v, d.toNat), mask := some m.toNat }
    (op1 := capX b)) σ

/-- `VPERM` (R249). -/
def execVperm (d a b : BitVec 5) (m : BitVec 3) (t : BitVec 4) (σ : State) : Host.Outcome State Fault Refusal :=
  vecRun (commitV (.vperm d a b m t)
    { reads := [(.v, a.toNat), (.v, b.toNat)], dest := some (.v, d.toNat), mask := some m.toNat }) σ

/-- `VRESHAPE` (R252). -/
def execVreshape (d a b : BitVec 5) (m : BitVec 3) (t : BitVec 4) (σ : State) : Host.Outcome State Fault Refusal :=
  vecRun (commitV (.vreshape d a b m t)
    { reads := [(.v, a.toNat), (.x, b.toNat)], dest := some (.v, d.toNat), mask := some m.toNat }
    (op1 := capX b)) σ

/-- `VMOVX` (R253). -/
def execVmovx (d a b : BitVec 5) (t : BitVec 4) (σ : State) : Host.Outcome State Fault Refusal :=
  vecRun (commitV (.vmovx d a b t)
    { reads := [(.v, a.toNat), (.x, b.toNat)], dest := some (.x, d.toNat) }
    (op1 := capX b) (one := true)) σ

/-- `VINS` (R253). -/
def execVins (d a b : BitVec 5) (m : BitVec 3) (t : BitVec 4) (σ : State) : Host.Outcome State Fault Refusal :=
  vecRun (commitV (.vins d a b m t)
    { reads := [(.x, a.toNat), (.x, b.toNat)], dest := some (.v, d.toNat), mask := some m.toNat }
    (op1 := capX a) (op2 := capX b) (one := true)) σ

/-! ### Vector memory access (R255 to R276) -/

/-- `VLD_UNIT` (R260). -/
def execVldUnit (d a : BitVec 5) (m : BitVec 3) (u f b : BitVec 1) (s : BitVec 2) (σ : State) : Host.Outcome State Fault Refusal :=
  vecRun (commitV (.vldUnit d a m u f b s)
    { reads := [(.x, a.toNat)], dest := some (.v, d.toNat), mask := some m.toNat }
    (op1 := capX a)) σ

/-- `VLD_CONVERT` (R266). -/
def execVldConvert (d a : BitVec 5) (t : BitVec 4) (m : BitVec 3) (u f b : BitVec 1) (s : BitVec 2) (σ : State) : Host.Outcome State Fault Refusal :=
  vecRun (commitV (.vldConvert d a t m u f b s)
    { reads := [(.x, a.toNat)], dest := some (.v, d.toNat), mask := some m.toNat }
    (op1 := capX a)) σ

/-- `VLD_STRIDED` (R260). -/
def execVldStrided (d a c : BitVec 5) (m : BitVec 3) (u f b : BitVec 1) (s : BitVec 2) (σ : State) : Host.Outcome State Fault Refusal :=
  vecRun (commitV (.vldStrided d a c m u f b s)
    { reads := [(.x, a.toNat), (.x, c.toNat)], dest := some (.v, d.toNat), mask := some m.toNat }
    (op1 := capX a) (op2 := capX c)) σ

/-- `VLD_INDEXED` (R260). -/
def execVldIndexed (d a c : BitVec 5) (m : BitVec 3) (u f b : BitVec 1) (s : BitVec 2) (σ : State) : Host.Outcome State Fault Refusal :=
  vecRun (commitV (.vldIndexed d a c m u f b s)
    { reads := [(.x, a.toNat), (.v, c.toNat)], dest := some (.v, d.toNat), mask := some m.toNat }
    (op1 := capX a)) σ

/-- `VLDZ` (R272). -/
def execVldz (d a : BitVec 5) (f b : BitVec 1) (s : BitVec 2) (σ : State) : Host.Outcome State Fault Refusal :=
  vecRun (commitV (.vldz d a f b s)
    { reads := [(.x, a.toNat)], dest := some (.v, d.toNat), back := some a.toNat }
    (op1 := capX a)) σ

/-- `VLDS` (R269). -/
def execVlds (d k : BitVec 5) (σ : State) : Host.Outcome State Fault Refusal :=
  vecRun (commitV (.vlds d k) { dest := some (.v, d.toNat) }) σ

/-- `VST_UNIT` (R260). -/
def execVstUnit (s a : BitVec 5) (m : BitVec 3) (u b : BitVec 1) (z : BitVec 2) (σ : State) : Host.Outcome State Fault Refusal :=
  vecRun (commitV (.vstUnit s a m u b z) { reads := [(.v, s.toNat), (.x, a.toNat)], mask := some m.toNat } (op1 := capX a)) σ

/-- `VST_CONVERT` (R267). -/
def execVstConvert (s a : BitVec 5) (t : BitVec 4) (m : BitVec 3) (u b : BitVec 1) (z : BitVec 2) (σ : State) : Host.Outcome State Fault Refusal :=
  vecRun (commitV (.vstConvert s a t m u b z) { reads := [(.v, s.toNat), (.x, a.toNat)], mask := some m.toNat } (op1 := capX a)) σ

/-- `VST_STRIDED` (R260). -/
def execVstStrided (s a c : BitVec 5) (m : BitVec 3) (u b : BitVec 1) (z : BitVec 2) (σ : State) : Host.Outcome State Fault Refusal :=
  vecRun (commitV (.vstStrided s a c m u b z)
    { reads := [(.v, s.toNat), (.x, a.toNat), (.x, c.toNat)], mask := some m.toNat }
    (op1 := capX a) (op2 := capX c)) σ

/-- `VST_INDEXED` (R260). -/
def execVstIndexed (s a c : BitVec 5) (m : BitVec 3) (u b : BitVec 1) (z : BitVec 2) (σ : State) : Host.Outcome State Fault Refusal :=
  vecRun (commitV (.vstIndexed s a c m u b z)
    { reads := [(.v, s.toNat), (.x, a.toNat), (.v, c.toNat)], mask := some m.toNat }
    (op1 := capX a)) σ

/-- `VSTZ` (R273). -/
def execVstz (s a : BitVec 5) (b : BitVec 1) (z : BitVec 2) (σ : State) : Host.Outcome State Fault Refusal :=
  vecRun (commitV (.vstz s a b z) { reads := [(.v, s.toNat), (.x, a.toNat)], back := some a.toNat } (op1 := capX a)) σ

/-- `VCPST` (R274). -/
def execVcpst (s a : BitVec 5) (w : BitVec 2) (m : BitVec 3) (b : BitVec 1) (σ : State) : Host.Outcome State Fault Refusal :=
  vecRun (commitV (.vcpst s a w m b) { reads := [(.v, s.toNat), (.x, a.toNat)], mask := some m.toNat } (op1 := capX a)) σ

/-- `VAMO_ADD` (R275). -/
def execVamoAdd (s a c : BitVec 5) (m : BitVec 3) (o : BitVec 2) (u : BitVec 1) (σ : State) : Host.Outcome State Fault Refusal :=
  vecRun (commitV (.vamoAdd s a c m o u)
    { reads := (.v, s.toNat) :: (.x, a.toNat) :: vamoReads o c, mask := some m.toNat }
    (op1 := capX a) (op2 := vamoStride o c)) σ

/-- `VAMO_MAX` (R275). -/
def execVamoMax (s a c : BitVec 5) (m : BitVec 3) (o : BitVec 2) (u : BitVec 1) (σ : State) : Host.Outcome State Fault Refusal :=
  vecRun (commitV (.vamoMax s a c m o u)
    { reads := (.v, s.toNat) :: (.x, a.toNat) :: vamoReads o c, mask := some m.toNat }
    (op1 := capX a) (op2 := vamoStride o c)) σ

/-- `VAMO_MIN` (R275). -/
def execVamoMin (s a c : BitVec 5) (m : BitVec 3) (o : BitVec 2) (u : BitVec 1) (σ : State) : Host.Outcome State Fault Refusal :=
  vecRun (commitV (.vamoMin s a c m o u)
    { reads := (.v, s.toNat) :: (.x, a.toNat) :: vamoReads o c, mask := some m.toNat }
    (op1 := capX a) (op2 := vamoStride o c)) σ

/-! ### Matrix mode (R286 to R290) -/

/-- `MSETM` (R286). -/
def execMsetm (a b : BitVec 5) (σ : State) : Host.Outcome State Fault Refusal :=
  vecRun (commitV (.msetm a b) { reads := [(.x, a.toNat), (.x, b.toNat)] } (op1 := capX a) (op2 := capX b) (one := true)) σ

/-- `MZERO` (R289). -/
def execMzero (k : BitVec 2) (σ : State) : Host.Outcome State Fault Refusal :=
  vecRun (commitV (.mzero k) {} (one := true)) σ

/-- `OPACC` (R287). -/
def execOpacc (k : BitVec 2) (a b : BitVec 5) (m : BitVec 3) (t : BitVec 4) (σ : State) : Host.Outcome State Fault Refusal :=
  vecRun (commitV (.opacc k a b m t) { reads := [(.v, a.toNat), (.v, b.toNat)], mask := some m.toNat }) σ

/-- `OPSUB` (R287). -/
def execOpsub (k : BitVec 2) (a b : BitVec 5) (m : BitVec 3) (t : BitVec 4) (σ : State) : Host.Outcome State Fault Refusal :=
  vecRun (commitV (.opsub k a b m t) { reads := [(.v, a.toNat), (.v, b.toNat)], mask := some m.toNat }) σ

/-- `MEXTR` (R290). -/
def execMextr (k : BitVec 2) (d b : BitVec 5) (m : BitVec 3) (t : BitVec 4) (z : BitVec 1) (σ : State) : Host.Outcome State Fault Refusal :=
  vecRun (commitV (.mextr k d b m t z) { reads := [(.x, b.toNat)], mask := some m.toNat } (op1 := capX b)) σ

/-- `MEXTC` (R290). -/
def execMextc (k : BitVec 2) (d b : BitVec 5) (m : BitVec 3) (t : BitVec 4) (z : BitVec 1) (σ : State) : Host.Outcome State Fault Refusal :=
  vecRun (commitV (.mextc k d b m t z) { reads := [(.x, b.toNat)], mask := some m.toNat } (op1 := capX b)) σ

/-- `MPUTR` (R290). -/
def execMputr (k : BitVec 2) (s b : BitVec 5) (m : BitVec 3) (t : BitVec 4) (σ : State) : Host.Outcome State Fault Refusal :=
  vecRun (commitV (.mputr k s b m t) { reads := [(.v, s.toNat), (.x, b.toNat)], mask := some m.toNat } (op1 := capX b)) σ

/-! ### The tap unit and the sampler (R410 to R439) -/

/-- `TAP` (R411). -/
def execTap (s b : BitVec 5) (m : BitVec 3) (t : BitVec 4) (σ : State) : Host.Outcome State Fault Refusal :=
  vecRun (commitV (.tap s b m t)
    { reads := [(.v, s.toNat), (.x, b.toNat)], mask := some m.toNat }
    (op1 := capX b)) σ

/-- `TAPEND` (R412). -/
def execTapend (a : BitVec 5) (σ : State) : Host.Outcome State Fault Refusal :=
  vecRun (commitV (.tapend a) { reads := [(.x, a.toNat)] } (op1 := capX a) (one := true)) σ

/-- `TAPSTEER` (R414). -/
def execTapsteer (d b : BitVec 5) (m : BitVec 3) (t : BitVec 4) (σ : State) : Host.Outcome State Fault Refusal :=
  vecRun (commitV (.tapsteer d b m t)
    { reads := [(.v, d.toNat), (.x, b.toNat)], dest := some (.v, d.toNat), mask := some m.toNat }
    (op1 := capX b)) σ

/-- `URD` (R433). -/
def execUrd (d a : BitVec 5) (t : BitVec 4) (σ : State) : Host.Outcome State Fault Refusal :=
  vecRun (commitV (.urd d a t)
    { reads := [(.x, a.toNat)], dest := some (.x, d.toNat) }
    (op1 := capX a) (one := true)) σ

/-- `VURD` (R434). -/
def execVurd (d : BitVec 5) (m : BitVec 3) (t : BitVec 4) (σ : State) : Host.Outcome State Fault Refusal :=
  vecRun (commitV (.vurd d m t) { dest := some (.v, d.toNat), mask := some m.toNat }) σ

/-- `VSHORT` (R435). -/
def execVshort (d s a : BitVec 5) (m : BitVec 3) (t : BitVec 4) (σ : State) : Host.Outcome State Fault Refusal :=
  vecRun (commitV (.vshort d s a m t)
    { reads := [(.v, s.toNat), (.x, a.toNat)], dest := some (.x, d.toNat), mask := some m.toNat }
    (op1 := capX a)) σ

/-- `VACCEPT` (R438). -/
def execVaccept (d a : BitVec 5) (m : BitVec 3) (σ : State) : Host.Outcome State Fault Refusal :=
  vecRun (commitV (.vaccept d a m)
    { reads := [(.x, a.toNat)], dest := some (.v, d.toNat), mask := some m.toNat }
    (op1 := capX a)) σ

/-- `SCOMMIT` (R439). -/
def execScommit (a : BitVec 5) (σ : State) : Host.Outcome State Fault Refusal :=
  vecRun (commitV (.scommit a) { reads := [(.x, a.toNat)] } (op1 := capX a)) σ

end Sys2Proof.Machine
end

