-- ==== Sys2Proof/Machine/VecSet.lean ====
section
/-! DEFINITION. The configuration instructions that the strand core executes, wholly or in part (R219 to R222): `SETVL`, `SETTL`, `VGRANT`
and `VREL`. -/

namespace Sys2Proof.Machine

/-- An entry that is complete at commit, with the strand's registers after it and the value of `x[d]` (R219, R221). -/
def pushDone (i : Instr) (d a : BitVec 5) (f : Strand → Strand × Dword) : M Unit := do
  let s ← get
  let st := s.st
  let e := { newVEntry s (wordOf i) (st.rx a) 0 true with finished := true, p := 1 }
  let (st, v) := f st
  set (s.setSt (pushVEntry (s.setSt (st.putX d.toNat v)) e {}))

/-- Commits an entry that is complete at commit (R219). -/
def commitDone (i : Instr) (info : Info) (d a : BitVec 5) (f : Strand → Strand × Dword) : M Unit := do
  start (wordOf i) info
  let st ← getSt
  if st.lanes = 0 then trap cVGRANT (wordOf i)
  if !st.canCommit false then wait
  pushDone i d a f

/-- What `SETVL` does for a width of 2^lw bytes (R219). -/
def setVl (lw : Nat) (a : Nat) (st : Strand) : Strand × Dword :=
  let n := st.lanes * 256 / 2 ^ lw
  let ceil := (st.cr 0x10A).toNat % 65536
  let v := min a (if ceil = 0 then n else min n ceil)
  ((st.setCrN 0x100 v).setCrN 0x101 (lw * 2 ^ 16), BitVec.ofNat 64 v)

/-- `SETVL` (R219). -/
def execSetvl (d a : BitVec 5) (t : BitVec 4) (s : State) : Host.Outcome State Fault Refusal :=
  vecRun (commitDone (.setvl d a t) (infoDA d a) d a (fun st => setVl (typeLog2 t.toNat) (st.rx a).toNat st)) s

/-- `SETTL` (R219). -/
def execSettl (d a : BitVec 5) (s : State) : Host.Outcome State Fault Refusal :=
  vecRun (commitDone (.settl d a) (infoDA d a) d a (fun st =>
    let v := min (st.rx a).toNat 256
    (st.setCrN 0x102 v, BitVec.ofNat 64 v))) s

/-- `VGRANT` (R221). Entries that have been committed with no lanes trap before lanes come (R226; log 65). -/
def execVgrant (d a : BitVec 5) (s : State) : Host.Outcome State Fault Refusal :=
  finishAccess (do
    start (wordOf (.vgrant d a)) (infoDA d a)
    let st ← getSt
    let n := (st.rx a).toNat
    if 0 < st.lanes then
      if !st.canCommit false then wait
      pushDone (.vgrant d a) d a (fun st => (st, BitVec.ofNat 64 st.lanes))
      kick
    else if n = 0 then modSt (fun st => st.result d.toNat 0)
    else
      settleVq
      if st.want.isNone then wantLanes (min 64 (roundUp n 8)) d.toNat
      else modify (fun s => laneTurn (clusterOf s.cur) s)
      if (← getSt).want.isSome then wait) s

/-- `VREL` (R222). -/
def execVrel (s : State) : Host.Outcome State Fault Refusal :=
  vecRun (do
    if (← getSt).lanes = 0 then
      start (wordOf .vrel) {}
      advance
    else commitV .vrel {} (one := true)) s

end Sys2Proof.Machine
end

