-- ==== Sys2Proof/Machine/Dispatch.lean ====
section
/-! DEFINITION. One arm for each row of the opcode table: its meaning. -/

namespace Sys2Proof.Machine

/-- What each instruction, step and event does (R42). -/
def exec (i : Instr) (s : State) : Host.Outcome State Fault Refusal :=
  match i with
  | .pfx v m u c => Sys2Proof.Machine.execPfx v m u c s
  | .add d a b => Sys2Proof.Machine.execAdd d a b s
  | .sub d a b => Sys2Proof.Machine.execSub d a b s
  | .and d a b => Sys2Proof.Machine.execAnd d a b s
  | .or d a b => Sys2Proof.Machine.execOr d a b s
  | .xor d a b => Sys2Proof.Machine.execXor d a b s
  | .andn d a b => Sys2Proof.Machine.execAndn d a b s
  | .sll d a b => Sys2Proof.Machine.execSll d a b s
  | .srl d a b => Sys2Proof.Machine.execSrl d a b s
  | .sra d a b => Sys2Proof.Machine.execSra d a b s
  | .min d a b => Sys2Proof.Machine.execMin d a b s
  | .max d a b => Sys2Proof.Machine.execMax d a b s
  | .minn d a b => Sys2Proof.Machine.execMinn d a b s
  | .maxn d a b => Sys2Proof.Machine.execMaxn d a b s
  | .slt d a b => Sys2Proof.Machine.execSlt d a b s
  | .sltn d a b => Sys2Proof.Machine.execSltn d a b s
  | .mul d a b => Sys2Proof.Machine.execMul d a b s
  | .mulh d a b => Sys2Proof.Machine.execMulh d a b s
  | .mulhn d a b => Sys2Proof.Machine.execMulhn d a b s
  | .div d a b => Sys2Proof.Machine.execDiv d a b s
  | .divn d a b => Sys2Proof.Machine.execDivn d a b s
  | .rem d a b => Sys2Proof.Machine.execRem d a b s
  | .remn d a b => Sys2Proof.Machine.execRemn d a b s
  | .clz d a => Sys2Proof.Machine.execClz d a s
  | .ctz d a => Sys2Proof.Machine.execCtz d a s
  | .popc d a => Sys2Proof.Machine.execPopc d a s
  | .sextB d a => Sys2Proof.Machine.execSextB d a s
  | .sextH d a => Sys2Proof.Machine.execSextH d a s
  | .sextW d a => Sys2Proof.Machine.execSextW d a s
  | .zextB d a => Sys2Proof.Machine.execZextB d a s
  | .zextH d a => Sys2Proof.Machine.execZextH d a s
  | .zextW d a => Sys2Proof.Machine.execZextW d a s
  | .sel d a b c => Sys2Proof.Machine.execSel d a b c s
  | .addi d a imm => Sys2Proof.Machine.execAddi d a imm s
  | .andi d a imm => Sys2Proof.Machine.execAndi d a imm s
  | .ori d a imm => Sys2Proof.Machine.execOri d a imm s
  | .xori d a imm => Sys2Proof.Machine.execXori d a imm s
  | .slti d a imm => Sys2Proof.Machine.execSlti d a imm s
  | .sltin d a imm => Sys2Proof.Machine.execSltin d a imm s
  | .slli d a s0 => Sys2Proof.Machine.execSlli d a s0 s
  | .srli d a s0 => Sys2Proof.Machine.execSrli d a s0 s
  | .srai d a s0 => Sys2Proof.Machine.execSrai d a s0 s
  | .lhi d imm => Sys2Proof.Machine.execLhi d imm s
  | .addpc d imm => Sys2Proof.Machine.execAddpc d imm s
  | .ld d b s0 n q f => Sys2Proof.Machine.execLd d b s0 n q f s
  | .st s0 b z q f => Sys2Proof.Machine.execSt s0 b z q f s
  | .amoadd d a b z o => Sys2Proof.Machine.execAmoadd d a b z o s
  | .amoand d a b z o => Sys2Proof.Machine.execAmoand d a b z o s
  | .amoor d a b z o => Sys2Proof.Machine.execAmoor d a b z o s
  | .amoxor d a b z o => Sys2Proof.Machine.execAmoxor d a b z o s
  | .amomin d a b z o => Sys2Proof.Machine.execAmomin d a b z o s
  | .amomax d a b z o => Sys2Proof.Machine.execAmomax d a b z o s
  | .amominn d a b z o => Sys2Proof.Machine.execAmominn d a b z o s
  | .amomaxn d a b z o => Sys2Proof.Machine.execAmomaxn d a b z o s
  | .amoswap d a b z o => Sys2Proof.Machine.execAmoswap d a b z o s
  | .cas d a b z o => Sys2Proof.Machine.execCas d a b z o s
  | .fence k s0 => Sys2Proof.Machine.execFence k s0 s
  | .waiteq d a b k o z => Sys2Proof.Machine.execWaiteq d a b k o z s
  | .waitne d a b k o z => Sys2Proof.Machine.execWaitne d a b k o z s
  | .gbar => Sys2Proof.Machine.execGbar s
  | .gbarA d => Sys2Proof.Machine.execGbarA d s
  | .gbarW d a => Sys2Proof.Machine.execGbarW d a s
  | .beq a b o => Sys2Proof.Machine.execBeq a b o s
  | .bne a b o => Sys2Proof.Machine.execBne a b o s
  | .blt a b o => Sys2Proof.Machine.execBlt a b o s
  | .bge a b o => Sys2Proof.Machine.execBge a b o s
  | .bltn a b o => Sys2Proof.Machine.execBltn a b o s
  | .bgen a b o => Sys2Proof.Machine.execBgen a b o s
  | .call o => Sys2Proof.Machine.execCall o s
  | .jump o => Sys2Proof.Machine.execJump o s
  | .jr d a imm => Sys2Proof.Machine.execJr d a imm s
  | .sysc imm => Sys2Proof.Machine.execSysc imm s
  | .brk imm => Sys2Proof.Machine.execBrk imm s
  | .eret => Sys2Proof.Machine.execEret s
  | .idle a => Sys2Proof.Machine.execIdle a s
  | .yield => Sys2Proof.Machine.execYield s
  | .stop => Sys2Proof.Machine.execStop s
  | .spawn d a q => Sys2Proof.Machine.execSpawn d a q s
  | .iflush => Sys2Proof.Machine.execIflush s
  | .tinvAll => Sys2Proof.Machine.execTinvAll s
  | .tinvAs d => Sys2Proof.Machine.execTinvAs d s
  | .tinvVa d a => Sys2Proof.Machine.execTinvVa d a s
  | .crd d c => Sys2Proof.Machine.execCrd d c s
  | .cwr d a c => Sys2Proof.Machine.execCwr d a c s
  | .cset d a c => Sys2Proof.Machine.execCset d a c s
  | .cclr d a c => Sys2Proof.Machine.execCclr d a c s
  | .hint p => Sys2Proof.Machine.execHint p s
  | .setvl d a t => Sys2Proof.Machine.execSetvl d a t s
  | .settl d a => Sys2Proof.Machine.execSettl d a s
  | .setmf d a => Sys2Proof.Machine.execSetmf d a s
  | .setrm d a => Sys2Proof.Machine.execSetrm d a s
  | .vgrant d a => Sys2Proof.Machine.execVgrant d a s
  | .vrel => Sys2Proof.Machine.execVrel s
  | .vsave a b => Sys2Proof.Machine.execVsave a b s
  | .vrst a => Sys2Proof.Machine.execVrst a s
  | .vaddInt d a b m t => Sys2Proof.Machine.execVaddInt d a b m t s
  | .vsubInt d a b m t => Sys2Proof.Machine.execVsubInt d a b m t s
  | .vmulInt d a b m t => Sys2Proof.Machine.execVmulInt d a b m t s
  | .vmulh d a b m t => Sys2Proof.Machine.execVmulh d a b m t s
  | .vminInt d a b m t => Sys2Proof.Machine.execVminInt d a b m t s
  | .vmaxInt d a b m t => Sys2Proof.Machine.execVmaxInt d a b m t s
  | .vsatadd d a b m t => Sys2Proof.Machine.execVsatadd d a b m t s
  | .vsatsub d a b m t => Sys2Proof.Machine.execVsatsub d a b m t s
  | .vshl d a b m t => Sys2Proof.Machine.execVshl d a b m t s
  | .vshr d a b m t => Sys2Proof.Machine.execVshr d a b m t s
  | .vsra d a b m t => Sys2Proof.Machine.execVsra d a b m t s
  | .vand d a b m t => Sys2Proof.Machine.execVand d a b m t s
  | .vor d a b m t => Sys2Proof.Machine.execVor d a b m t s
  | .vxor d a b m t => Sys2Proof.Machine.execVxor d a b m t s
  | .vabsInt d a m t => Sys2Proof.Machine.execVabsInt d a m t s
  | .vnegInt d a m t => Sys2Proof.Machine.execVnegInt d a m t s
  | .vaddFp d a b m t => Sys2Proof.Machine.execVaddFp d a b m t s
  | .vsubFp d a b m t => Sys2Proof.Machine.execVsubFp d a b m t s
  | .vmulFp d a b m t => Sys2Proof.Machine.execVmulFp d a b m t s
  | .vfma d a b m t => Sys2Proof.Machine.execVfma d a b m t s
  | .vfms d a b m t => Sys2Proof.Machine.execVfms d a b m t s
  | .vfnma d a b m t => Sys2Proof.Machine.execVfnma d a b m t s
  | .vdiv d a b m t => Sys2Proof.Machine.execVdiv d a b m t s
  | .vsqrt d a m t => Sys2Proof.Machine.execVsqrt d a m t s
  | .vrcp d a m t => Sys2Proof.Machine.execVrcp d a m t s
  | .vrsq d a m t => Sys2Proof.Machine.execVrsq d a m t s
  | .vminFp d a b m t => Sys2Proof.Machine.execVminFp d a b m t s
  | .vmaxFp d a b m t => Sys2Proof.Machine.execVmaxFp d a b m t s
  | .vabsFp d a m t => Sys2Proof.Machine.execVabsFp d a m t s
  | .vnegFp d a m t => Sys2Proof.Machine.execVnegFp d a m t s
  | .vscale d a b m t => Sys2Proof.Machine.execVscale d a b m t s
  | .vrnd d a r m t => Sys2Proof.Machine.execVrnd d a r m t s
  | .vcmpEq d a b m t => Sys2Proof.Machine.execVcmpEq d a b m t s
  | .vcmpNe d a b m t => Sys2Proof.Machine.execVcmpNe d a b m t s
  | .vcmpLt d a b m t => Sys2Proof.Machine.execVcmpLt d a b m t s
  | .vcmpLe d a b m t => Sys2Proof.Machine.execVcmpLe d a b m t s
  | .vcmpUn d a b m t => Sys2Proof.Machine.execVcmpUn d a b m t s
  | .vsel d a b m t => Sys2Proof.Machine.execVsel d a b m t s
  | .mand d a b m => Sys2Proof.Machine.execMand d a b m s
  | .mor d a b m => Sys2Proof.Machine.execMor d a b m s
  | .mxor d a b m => Sys2Proof.Machine.execMxor d a b m s
  | .mnot d a m => Sys2Proof.Machine.execMnot d a m s
  | .mset d m => Sys2Proof.Machine.execMset d m s
  | .mclr d m => Sys2Proof.Machine.execMclr d m s
  | .vpopc d a m => Sys2Proof.Machine.execVpopc d a m s
  | .vfirst d a m => Sys2Proof.Machine.execVfirst d a m s
  | .vcvt d a r s0 m t => Sys2Proof.Machine.execVcvt d a r s0 m t s
  | .vfrac d a m t => Sys2Proof.Machine.execVfrac d a m t s
  | .vclass d a m t => Sys2Proof.Machine.execVclass d a m t s
  | .vmvV d a m t => Sys2Proof.Machine.execVmvV d a m t s
  | .vmvX d b m t => Sys2Proof.Machine.execVmvX d b m t s
  | .vid d m t => Sys2Proof.Machine.execVid d m t s
  | .viota d a m t => Sys2Proof.Machine.execViota d a m t s
  | .vredo a h m t => Sys2Proof.Machine.execVredo a h m t s
  | .vredt a h m t => Sys2Proof.Machine.execVredt a h m t s
  | .vredmax a h m t => Sys2Proof.Machine.execVredmax a h m t s
  | .vredmin a h m t => Sys2Proof.Machine.execVredmin a h m t s
  | .vredand a h m t => Sys2Proof.Machine.execVredand a h m t s
  | .vredor a h m t => Sys2Proof.Machine.execVredor a h m t s
  | .vredxor a h m t => Sys2Proof.Machine.execVredxor a h m t s
  | .vscan d a h m t => Sys2Proof.Machine.execVscan d a h m t s
  | .vscanx d a h m t => Sys2Proof.Machine.execVscanx d a h m t s
  | .vhrd d h t => Sys2Proof.Machine.execVhrd d h t s
  | .vhclr h => Sys2Proof.Machine.execVhclr h s
  | .vcompress d a m t => Sys2Proof.Machine.execVcompress d a m t s
  | .vexpand d a m t => Sys2Proof.Machine.execVexpand d a m t s
  | .vslideup d a b m t => Sys2Proof.Machine.execVslideup d a b m t s
  | .vslidedn d a b m t => Sys2Proof.Machine.execVslidedn d a b m t s
  | .vperm d a b m t => Sys2Proof.Machine.execVperm d a b m t s
  | .vreshape d a b m t => Sys2Proof.Machine.execVreshape d a b m t s
  | .vmovx d a b t => Sys2Proof.Machine.execVmovx d a b t s
  | .vins d a b m t => Sys2Proof.Machine.execVins d a b m t s
  | .vldUnit d a m u f b s0 => Sys2Proof.Machine.execVldUnit d a m u f b s0 s
  | .vldConvert d a t m u f b s0 => Sys2Proof.Machine.execVldConvert d a t m u f b s0 s
  | .vldStrided d a c m u f b s0 => Sys2Proof.Machine.execVldStrided d a c m u f b s0 s
  | .vldIndexed d a c m u f b s0 => Sys2Proof.Machine.execVldIndexed d a c m u f b s0 s
  | .vldz d a f b s0 => Sys2Proof.Machine.execVldz d a f b s0 s
  | .vlds d k => Sys2Proof.Machine.execVlds d k s
  | .vstUnit s0 a m u b z => Sys2Proof.Machine.execVstUnit s0 a m u b z s
  | .vstConvert s0 a t m u b z => Sys2Proof.Machine.execVstConvert s0 a t m u b z s
  | .vstStrided s0 a c m u b z => Sys2Proof.Machine.execVstStrided s0 a c m u b z s
  | .vstIndexed s0 a c m u b z => Sys2Proof.Machine.execVstIndexed s0 a c m u b z s
  | .vstz s0 a b z => Sys2Proof.Machine.execVstz s0 a b z s
  | .vcpst s0 a w m b => Sys2Proof.Machine.execVcpst s0 a w m b s
  | .vamoAdd s0 a c m o u => Sys2Proof.Machine.execVamoAdd s0 a c m o u s
  | .vamoMax s0 a c m o u => Sys2Proof.Machine.execVamoMax s0 a c m o u s
  | .vamoMin s0 a c m o u => Sys2Proof.Machine.execVamoMin s0 a c m o u s
  | .msetm a b => Sys2Proof.Machine.execMsetm a b s
  | .mzero k => Sys2Proof.Machine.execMzero k s
  | .opacc k a b m t => Sys2Proof.Machine.execOpacc k a b m t s
  | .opsub k a b m t => Sys2Proof.Machine.execOpsub k a b m t s
  | .mextr k d b m t z => Sys2Proof.Machine.execMextr k d b m t z s
  | .mextc k d b m t z => Sys2Proof.Machine.execMextc k d b m t z s
  | .mputr k s0 b m t => Sys2Proof.Machine.execMputr k s0 b m t s
  | .breg g a b => Sys2Proof.Machine.execBreg g a b s
  | .cbld g a c => Sys2Proof.Machine.execCbld g a c s
  | .tbld g a b c t => Sys2Proof.Machine.execTbld g a b c t s
  | .lkz g => Sys2Proof.Machine.execLkz g s
  | .lka g b j => Sys2Proof.Machine.execLka g b j s
  | .lkab g a b c t => Sys2Proof.Machine.execLkab g a b c t s
  | .lkx g a v t => Sys2Proof.Machine.execLkx g a v t s
  | .bdot a b c => Sys2Proof.Machine.execBdot a b c s
  | .baxpy a b c => Sys2Proof.Machine.execBaxpy a b c s
  | .bcopy a c => Sys2Proof.Machine.execBcopy a c s
  | .bbit a b c o => Sys2Proof.Machine.execBbit a b c o s
  | .bfill b c => Sys2Proof.Machine.execBfill b c s
  | .bsync => Sys2Proof.Machine.execBsync s
  | .cpdecl a k => Sys2Proof.Machine.execCpdecl a k s
  | .cplink j k => Sys2Proof.Machine.execCplink j k s
  | .cpstore d a b k => Sys2Proof.Machine.execCpstore d a b k s
  | .cpwaitR a k => Sys2Proof.Machine.execCpwaitR a k s
  | .cpwaitV a s0 k => Sys2Proof.Machine.execCpwaitV a s0 k s
  | .cpcancel k => Sys2Proof.Machine.execCpcancel k s
  | .srd d k => Sys2Proof.Machine.execSrd d k s
  | .savail d k => Sys2Proof.Machine.execSavail d k s
  | .cflush a b imm => Sys2Proof.Machine.execCflush a b imm s
  | .cinval a b => Sys2Proof.Machine.execCinval a b s
  | .czero a b => Sys2Proof.Machine.execCzero a b s
  | .cseal a b => Sys2Proof.Machine.execCseal a b s
  | .tap s0 b m t => Sys2Proof.Machine.execTap s0 b m t s
  | .tapend a => Sys2Proof.Machine.execTapend a s
  | .tapsteer d b m t => Sys2Proof.Machine.execTapsteer d b m t s
  | .urd d a t => Sys2Proof.Machine.execUrd d a t s
  | .vurd d m t => Sys2Proof.Machine.execVurd d m t s
  | .vshort d s0 a m t => Sys2Proof.Machine.execVshort d s0 a m t s
  | .vaccept d a m => Sys2Proof.Machine.execVaccept d a m s
  | .scommit a => Sys2Proof.Machine.execScommit a s
  | .ramoAdd d a b z q => Sys2Proof.Machine.execRamoAdd d a b z q s
  | .ramoAnd d a b z q => Sys2Proof.Machine.execRamoAnd d a b z q s
  | .ramoOr d a b z q => Sys2Proof.Machine.execRamoOr d a b z q s
  | .ramoXor d a b z q => Sys2Proof.Machine.execRamoXor d a b z q s
  | .ramoMin d a b z q => Sys2Proof.Machine.execRamoMin d a b z q s
  | .ramoMax d a b z q => Sys2Proof.Machine.execRamoMax d a b z q s
  | .ramoMinn d a b z q => Sys2Proof.Machine.execRamoMinn d a b z q s
  | .ramoMaxn d a b z q => Sys2Proof.Machine.execRamoMaxn d a b z q s
  | .ramoSwap d a b z q => Sys2Proof.Machine.execRamoSwap d a b z q s
  | .rfence a h => Sys2Proof.Machine.execRfence a h s
  | .registerWrite num v => Sys2Proof.Machine.execRegisterWrite num v s
  | .qenWrite v => Sys2Proof.Machine.execQenWrite v s
  | .lineMonitorFire line => Sys2Proof.Machine.execLineMonitorFire line s
  | .startRecordAdmission q => Sys2Proof.Machine.execStartRecordAdmission q s
  | .laneGrant cl => Sys2Proof.Machine.execLaneGrant cl s
  | .granuleZeroed cl g => Sys2Proof.Machine.execGranuleZeroed cl g s
  | .completionWrite gid => Sys2Proof.Machine.execCompletionWrite gid s
  | .hostEventPost => Sys2Proof.Machine.execHostEventPost s
  | .hostEventRetry => Sys2Proof.Machine.execHostEventRetry s
  | .answerResume sid => Sys2Proof.Machine.execAnswerResume sid s
  | .answerKill sid => Sys2Proof.Machine.execAnswerKill sid s
  | .answerAdmit q t => Sys2Proof.Machine.execAnswerAdmit q t s
  | .answerReject q t => Sys2Proof.Machine.execAnswerReject q t s
  | .answerProceed q subj => Sys2Proof.Machine.execAnswerProceed q subj s
  | .trapDelivery ctx cause eval => Sys2Proof.Machine.execTrapDelivery ctx cause eval s
  | .preemption ctx => Sys2Proof.Machine.execPreemption ctx s
  | .strandResume sid => Sys2Proof.Machine.execStrandResume sid s
  | .timerTrap ctx => Sys2Proof.Machine.execTimerTrap ctx s
  | .idleDeadline ctx => Sys2Proof.Machine.execIdleDeadline ctx s
  | .waitTimeout ctx => Sys2Proof.Machine.execWaitTimeout ctx s
  | .storePerformed ctx k => Sys2Proof.Machine.execStorePerformed ctx k s
  | .readQueueWriteback ctx => Sys2Proof.Machine.execReadQueueWriteback ctx s
  | .tableWalk ctx va kind => Sys2Proof.Machine.execTableWalk ctx va kind s
  | .vqGroupWrite ctx w => Sys2Proof.Machine.execVqGroupWrite ctx w s
  | .vqEntryRetire ctx => Sys2Proof.Machine.execVqEntryRetire ctx s
  | .bankEntryComplete w => Sys2Proof.Machine.execBankEntryComplete w s
  | .berrWrite bank v => Sys2Proof.Machine.execBerrWrite bank v s
  | .cacheFill line dom => Sys2Proof.Machine.execCacheFill line dom s
  | .cacheEviction line => Sys2Proof.Machine.execCacheEviction line s
  | .seal line => Sys2Proof.Machine.execSeal line s
  | .keyRotation dom => Sys2Proof.Machine.execKeyRotation dom s
  | .ddrldWrite v => Sys2Proof.Machine.execDdrldWrite v s
  | .refresh bank => Sys2Proof.Machine.execRefresh bank s
  | .activationCountMitigation bank => Sys2Proof.Machine.execActivationCountMitigation bank s
  | .patrolScrub bank row => Sys2Proof.Machine.execPatrolScrub bank row s
  | .centreVisit bank => Sys2Proof.Machine.execCentreVisit bank s
  | .stripFetch eng k => Sys2Proof.Machine.execStripFetch eng k s
  | .writeOperationReleased eng k => Sys2Proof.Machine.execWriteOperationReleased eng k s
  | .writeOperationVisible eng k scope => Sys2Proof.Machine.execWriteOperationVisible eng k scope s
  | .slotDrained eng k => Sys2Proof.Machine.execSlotDrained eng k s
  | .sqmWrite n v => Sys2Proof.Machine.execSqmWrite n v s
  | .trswWrite v => Sys2Proof.Machine.execTrswWrite v s
  | .sucWrite v => Sys2Proof.Machine.execSucWrite v s
  | .portEnable p => Sys2Proof.Machine.execPortEnable p s
  | .trainingComplete p peer => Sys2Proof.Machine.execTrainingComplete p peer s
  | .trainingTimeout p => Sys2Proof.Machine.execTrainingTimeout p s
  | .linkErrorDetected p => Sys2Proof.Machine.execLinkErrorDetected p s
  | .retrainComplete p => Sys2Proof.Machine.execRetrainComplete p s
  | .retrainTimeout p => Sys2Proof.Machine.execRetrainTimeout p s
  | .linkCalibration p => Sys2Proof.Machine.execLinkCalibration p s
  | .flitReceive p seq f => Sys2Proof.Machine.execFlitReceive p seq f s
  | .remoteRequestArrival src tag op size pa mt dom data be => Sys2Proof.Machine.execRemoteRequestArrival src tag op size pa mt dom data be s
  | .remoteCompletionArrival home tag data err => Sys2Proof.Machine.execRemoteCompletionArrival home tag data err s
  | .remoteRefusalArrival home tag => Sys2Proof.Machine.execRemoteRefusalArrival home tag s
  | .tagResend home tag => Sys2Proof.Machine.execTagResend home tag s
  | .fltoExpiry home tag => Sys2Proof.Machine.execFltoExpiry home tag s
  | .rdmaWriteInbound p va data be => Sys2Proof.Machine.execRdmaWriteInbound p va data be s
  | .rdmaReadInbound p va len => Sys2Proof.Machine.execRdmaReadInbound p va len s
  | .roceUnsupportedRequest p => Sys2Proof.Machine.execRoceUnsupportedRequest p s
  | .outboundAck p => Sys2Proof.Machine.execOutboundAck p s
  | .cnpReceive conn => Sys2Proof.Machine.execCnpReceive conn s
  | .ptpMessage ppm => Sys2Proof.Machine.execPtpMessage ppm s
  | .deviceReset => Sys2Proof.Machine.execDeviceReset s
  | .svstartGo v => Sys2Proof.Machine.execSvstartGo v s
  | .keytabWrite v => Sys2Proof.Machine.execKeytabWrite v s
  | .attestationRequest nonce => Sys2Proof.Machine.execAttestationRequest nonce s
  | .telemetrySample => Sys2Proof.Machine.execTelemetrySample s
  | .thermalStep isl temp => Sys2Proof.Machine.execThermalStep isl temp s
  | .powerCapStep watts => Sys2Proof.Machine.execPowerCapStep watts s
  | .ictlReqWrite isl req => Sys2Proof.Machine.execIctlReqWrite isl req s
  | .ictlOppWrite isl opp => Sys2Proof.Machine.execIctlOppWrite isl opp s
  | .operatingPointChange isl => Sys2Proof.Machine.execOperatingPointChange isl s
  | .islandGate isl => Sys2Proof.Machine.execIslandGate isl s
  | .islandWake isl => Sys2Proof.Machine.execIslandWake isl s
  | .wordsThatAreNotInstructions w => Sys2Proof.Machine.execWordsThatAreNotInstructions w s
  | .loadPerformed ctx k => Sys2Proof.Machine.execLoadPerformed ctx k s
  | .accessFailure eng k va code => Sys2Proof.Machine.execAccessFailure eng k va code s
  | .hostReadResponse p data => Sys2Proof.Machine.execHostReadResponse p data s
  | .uncontainedHardwareError code => Sys2Proof.Machine.execUncontainedHardwareError code s
  | .ddrldReloadComplete => Sys2Proof.Machine.execDdrldReloadComplete s
  | .answerWithoutSubject => Sys2Proof.Machine.execAnswerWithoutSubject s

end Sys2Proof.Machine
end

