-- ==== Sys2Proof/Machine/Turn.lean ====
section
/-! DEFINITION. What the machine does next: which context has its turn, how queued work goes on between instructions, the fetch and
execution of one instruction, and the passing of time (R124, R141 to R143). -/

namespace Sys2Proof.Machine

/-- Stores of the current strand whose completions have come are done; one that failed leaves its trap (R102, R461; log 56). -/
def reapLate (s : State) : State :=
  let mine := fun (t : Txn) => t.late.isSome && t.sid == s.st.owner && t.done.isSome
  let s := s.txns.foldl (fun (s : State) t =>
    match mine t, t.done with
    | true, some (err, d) =>
      if err = 0 then s
      else
        let x : Trap :=
          if err = 3 then
            { cause := cBANKERR, eval := t.va, w0 := 0x11, w2 := d % 2 ^ 52, w3 := d / 2 ^ 52 % 4096 + t.home * 65536 + 2 ^ 31, epc := t.late,
              latch := some t.latch, seq := t.seq }
          else
            { cause := cLINKERR, eval := t.va, w0 := err, w1 := t.home, w2 := t.tag, w3 := if err = 1 then 2 else 1, epc := t.late,
              latch := some t.latch, seq := t.seq }
        s.mapSt (fun st => { st with late := insertLate x st.late })
    | _, _ => s) s
  { s with txns := s.txns.filter (fun t => !mine t) }

/-- Queued work of the current strand that is not left to its events is carried out before its next instruction. A queue whose head
must act before anything is committed is carried on in any case. -/
def settleTurn : M Unit := do
  modify reapLate
  let s ← get
  if !s.defer || s.agenda.isEmpty then
    settleStores
    settleVqSoft
    modSt writeBacks
    modify (fun s => settleBank s.cur s)
  if (← getSt).vq.any VEntry.blocks then settleVq
  deliverLate

/-- The word at `PC` of the current strand is fetched and executed. -/
def runWord (s : State) : Host.Outcome State Fault Refusal :=
  match fetchWord s with
  | .ok w t => match decode w with
    | .ok i => exec i t
    | .error _ => Sys2Proof.Machine.execWordsThatAreNotInstructions w t
  | .error _ _ => Sys2Proof.Machine.execWordsThatAreNotInstructions 0 s

/-- The word at `PC` transfers control, possibly to itself. -/
def transfers (s : State) : Bool :=
  match fetchWord s with
  | .ok w _ => decide (0x10 ≤ w.toNat / 2 ^ 26 ∧ w.toNat / 2 ^ 26 ≤ 0x18)
  | .error _ _ => false

/-- The current strand has issued the instruction at which it stood in `s` (R143): it has gone on, or sleeps, waits for lanes, or has transferred
control to where it stands, which needs no wait. -/
def issued (s t : State) : Bool :=
  t.st.pc != s.st.pc || t.st.run != s.st.run || t.st.want != s.st.want || t.st.pl != s.st.pl || ((pendingX s.st true).isEmpty && transfers s)

/-- Context `c` has issued: it stands last in its core's order (R143), and no `YIELD` waits for it any more (R159). -/
def tookTurn (c : Nat) (s : State) : State :=
  { s with
    order := Tab.set s.order (coreOf c) ((c + 1) % 4)
    strands := s.strands.map (fun p => match p.2.yielded with
      | some (l, t) => if p.1 = c then p else (p.1, { p.2 with yielded := some (l.filter (· != c), t) })
      | none => p) }

/-- The turn of a strand begins: no `YIELD` of its own holds it. -/
def takeTurn (c : Nat) (s : State) : State := ({ s with cur := c } : State).mapSt (fun st => { st with yielded := none })

/-- The turn of a context, after its queued work has been carried on: TIMER first (R142); then the word at `PC` is fetched and executed. With it,
whether the context has issued (R143). -/
def runInstr (s : State) : Host.Outcome State Fault Refusal × Bool :=
  if s.st.timerDue s.time && !underWay s then
    (.next (trapOr s s { cause := cTIMER, eval := s.time.toNat }), false)
  else match runWord s with
    | .next t => if issued s t then (.next (tookTurn s.cur t), true) else (.next t, false)
    | x => (x, true)

/-- The turn of context `c`, and whether it has issued. A trap between instructions waits for an access outside the package that the instruction
has begun, which goes on (R458). -/
def strandTurn (c : Nat) (s : State) : Host.Outcome State Fault Refusal × Bool :=
  let s := takeTurn c s
  match settleTurn s with
  | .ok _ t => runInstr t
  | .error (.trap x) t => if begunAccess s then runInstr s else (.next (trapOr s t x), true)
  | .error .wait t => (.next t, false)
  | .error (.fault f) _ => (.fault f, true)
  | .error (.refuse r) _ => (.refused r, true)

/-- The turn of a core (R143): that of the first of its contexts that is ready; one whose instruction waits lets the next try. -/
def coreTurn : List Nat → State → Host.Outcome State Fault Refusal
  | [], s => .next s
  | c :: r, s =>
    if !canIssue s c then coreTurn r s
    else match strandTurn c s with
      | (.next t, false) => coreTurn r t
      | (x, _) => x

/-- The contexts of a core in the order of issue: from the one that follows the context that issued last (R143). -/
def orderOf (s : State) (core : Nat) : List Nat := (range' 0 4).map (fun k => core * 4 + (Tab.get s.order core + k) % 4)

/-- The context of a core that comes first and is in none of the waits that an event ends. -/
def firstOf (s : State) (core : Nat) : Option Nat := (orderOf s core).find? (canIssue s)

/-- The context whose turn comes next: the first of the first core, after the last turn's, that has one. -/
def nextReady (s : State) : Nat → Nat → Option Nat
  | 0, _ => none
  | n + 1, core =>
    let d := (core + 1) % 64
    match firstOf s d with
    | some c => some c
    | none => nextReady s n d

/-- The context whose turn comes next, from the current one. -/
def nextContext (s : State) : Option Nat := nextReady s 64 (coreOf s.cur)

/-- The core cycles that pass at a core-clock island in a step: at least one, but for the clusters whose turn it was not, and none while the
island's clock is stopped (R141, R473; log 3). -/
def cyclesPassed (s : State) (c : Nat) : Nat :=
  if (Tab.get s.islands c).st ≠ 0 then 0
  else (Config.cycleAdvance (128 * s.tick + c)).toNat + (if c = clusterOf s.cur ∨ 16 ≤ c then 1 else 0)

/-- One step passes: the core cycles of every island, `CYCLE` among them, and `TIME` go on by amounts the spec leaves open (log 3). -/
def passTime (s : State) : State :=
  { s with
    tick := s.tick + 1
    time := s.time + ((Config.timeAdvance s.tick s.slew).toNat : Dword)
    cycle := ((range' 0 76).filter coreIsland).map (fun c => (c, Tab.get s.cycle c + BitVec.ofNat 64 (cyclesPassed s c))) }

/-- The first context, in the order of their numbers, that holds a strand and that `p` names. -/
def firstCtx (s : State) (p : Strand → Nat → Bool) : Option Nat :=
  (s.strands.find? (fun q => q.2.run != .free && p q.2 q.1)).map (fun q => q.1)

/-- The strand sleeps until an event wakes it. -/
def Strand.asleep (st : Strand) : Bool := match st.run with | .idle _ | .waitLine _ => true | _ => false

/-- A strand has the trap of an access that was performed after its instruction, or will have it. -/
def lateDue (s : State) (st : Strand) : Bool :=
  !st.late.isEmpty || s.txns.any (fun t => t.late.isSome && t.sid == st.owner && (match t.done with | some (e, _) => e != 0 | none => false))

/-- The trap of an access that was performed after its instruction is delivered to a strand that sleeps (log 56). -/
def wakeLate (c : Nat) (s : State) : State :=
  onCtx c (fun s =>
    let s := reapLate s
    match s.st.late with
    | [] => s
    | x :: _ => deliver s x) s

/-- A request that its port has not seen answered for 65,536 core cycles is sent again, once (R456). -/
def unanswered (s : State) (t : Txn) : Bool :=
  t.done.isNone && t.home != 127 && t.st == 1 && (match Tab.find s.ports t.port with
    | some p => p.st == 2 && decide (max t.since p.upAt + 65536 ≤ s.fordNow)
    | none => false)

/-- A step whose time has come, if there is one: a TIMER trap (R142), the end of an `IDLE` (R158) or of a wait (R182), a retry of the
host event queue (R134), a key rotation (R392), a port's timeout (R451), a transaction's (R452), or the service of a message that waits (R453, R465). -/
def timedTask (s : State) : Option Task :=
  let now := s.time.toNat
  match firstCtx s (fun st _ => decide (st.cr 0x807 ≤ s.time) && (!st.timer || (st.asleep && st.timerDue s.time))) with
  | some c => some (.timerTrap c)
  | none =>
  match firstCtx s (fun st c => st.asleep && (lateDue s st) && !haltWaits { s with cur := c }) with
  | some c => some (.lateTrap c)
  | none =>
  if bitOf (s.pkr 0x862).toNat 0 && decide (s.sampleAt ≤ now) then some .telemetry else
  match firstCtx s (fun st _ => match st.run with | .idle (some t) => decide (t ≤ now) | _ => false) with
  | some c => some (.idleDeadline c)
  | none =>
  match firstCtx s (fun st c => match st.run, st.deadline with
      | .waitLine _, some t => decide (t ≤ s.cyclesOf (clusterOf c))
      | _, _ => false) with
  | some c => some (.waitTimeout c)
  | none =>
  if (match s.evRetry with | some t => decide (t ≤ now) | none => false) then some .hostEventRetry
  else match s.domKeys.find? (fun d => hasDomains s && d.2.valid && d.2.rotp != 0 && !d.2.wait && decide (d.2.due ≤ now)) with
  | some d => some (.keyRotation d.1)
  | none =>
  match s.ports.find? (fun p => (p.2.st == 1 && decide (p.2.since + 10000000 ≤ now)) || (p.2.st == 3 && decide (p.2.since + 2000000 ≤ now))) with
  | some p => some (if p.2.st = 1 then .trainingTimeout p.1 else .retrainTimeout p.1)
  | none =>
  match s.txns.find? (fun t => t.done.isNone && (upPorts s t.home).isEmpty && (match t.waitAt with
      | some w => decide (w + (s.pkr 0x853).toNat % 2 ^ 40 ≤ now)
      | none => false)) with
  | some t => some (.fltoExpiry t.home t.tag)
  | none =>
  match s.txns.find? (unanswered s) with
  | some t => some (.tagResend t.home t.tag)
  | none => (readyLane s).map Task.inbound

/-- An answer that the Ford has taken from an answer queue (R134). -/
def answerTask (action qsel subject : Nat) (s : State) : Host.Outcome State Fault Refusal :=
  if action = 1 then .next (answerResume (subject % 4096) s)
  else if action = 2 then .next (answerKill (subject % 4096) s)
  else if action = 3 then .next (answerAdmit qsel subject s)
  else if action = 4 then .next (answerReject qsel subject s)
  else if action = 5 then .next (answerProceed qsel subject s)
  else .next (countAnswer s)

/-- Performs a step that the machine has raised. -/
def runTask (t : Task) (s : State) : Host.Outcome State Fault Refusal :=
  match t with
  | .qenWrite v => .next (qenWrite v s)
  | .lineFire line => .next (lineFire line s)
  | .admission _ => serveNext s
  | .laneGrant cl => .next (allocatorTurn cl s)
  | .granuleZeroed cl g => .next (granZeroed cl g s)
  | .completionWrite gid => runWork (completeGang gid) s
  | .preempt c => .next (preemptFor c s)
  | .lateTrap c => .next (wakeLate c s)
  | .telemetry => .next (telemetrySample s)
  | .hostEventPost => runWork postHead s
  | .hostEventRetry => runWork postHead { s with evRetry := none }
  | .answer a q j => answerTask a q j s
  | .timerTrap c => .next (timerPends c s)
  | .idleDeadline c => .next (idleOver c s)
  | .waitTimeout c => .next (waitOver c s)
  | .ddrldWrite v => .next (if s.ddrldBusy.isSome then s else reloadDomain (v % 65536) s)
  | .ddrldDone => .next { s with ddrldBusy := none }
  | .keyRotation d => .next (rotationDue d s)
  | .slotDrained e k => runWork (do
      if (← getSlot (slotKey e k)).draining then drainChain (slotKey e k)
      modify recheckGangs) s
  | .svstartGo v => .next (svstart v s)
  | .keytabWrite v => .next (keytabWrite v s)
  | .ictlReq i r => .next (ictlReq i r s)
  | .ictlOpp i o => .next (ictlOpp i o s)
  | .opPoint i => .next (opPoint i s)
  | .islandGate i => .next (islandGate i s)
  | .islandWake i => .next (islandWake i s)
  | .trainingTimeout p => .next (trainingLate p s)
  | .retrainTimeout p => .next (retrainLate p s)
  | .fltoExpiry h g => .next (fltoExpires h g s)
  | .tagResend h g => .next (resendTxn h g s)
  | .inbound l => .next (serveLane l s)

/-- The turn of the next core that has a context which may issue; nothing happens when there is none. -/
def nextTurn (s : State) : Host.Outcome State Fault Refusal :=
  match nextContext s with
  | some c => coreTurn (orderOf s (coreOf c)) s
  | none => .next s

/-- A raised step gives way to the next strand's turn: one step in eight does, so that steps which keep raising one another (R121, R135)
hold no strand up for ever (log 23). -/
def givesWay (s : State) : Bool := s.tick % 8 == 7 && (nextContext s).isSome

/-- The engines carry on the queued work of a strand that sleeps (R158, R182); a trap that an entry finds is delivered. -/
def carryOn (c : Nat) (s : State) : State :=
  match (do
      settleStores
      settleVqSoft
      modSt writeBacks
      modify (fun s => settleBank s.cur s)) { s with cur := c } with
  | .ok _ t => { t with cur := s.cur }
  | .error (.trap x) t => { trapOr { s with cur := c } t x with cur := s.cur }
  | .error _ t => { t with cur := s.cur }

/-- The strand issues nothing now: it sleeps, is parked for the host, or waits for lanes. -/
def Strand.still (st : Strand) : Bool := st.asleep || st.want.isSome || (match st.run with | .parked _ => true | _ => false)

/-- The queued work of every strand that issues nothing goes on, that of the strands on no context, and that
of cancelled streams (R20, R126, R370). -/
def carryAll (s : State) : State :=
  let n := s.slots.length
  let s := drainSlots (settleRest s)
  let s := if s.slots.length < n then recheckGangs s else s
  s.strands.foldl (fun s p =>
    if p.2.still && (!p.2.vq.isEmpty || !p.2.bankQ.isEmpty || !p.2.stores.isEmpty || !p.2.loads.isEmpty) then carryOn p.1 s else s) s

/-- What the machine does next, before time passes: the agenda, then what it has raised, then what is due, then a strand's turn. -/
def turn (s : State) : Host.Outcome State Fault Refusal :=
  match s.agenda with
  | .event i :: r => exec i { s with agenda := r }
  | .turn c :: r => coreTurn (orderOf s (coreOf c)) { s with agenda := r }
  | [] =>
    match s.due with
    | t :: r => if givesWay s then nextTurn s else runTask t { s with due := r }
    | [] =>
      match timedTask s with
      | some t => if givesWay s then nextTurn s else runTask t s
      | none => nextTurn (carryAll s)

/-- A register write whose effect reaches beyond its register (R114, R392, R473, R477, R479), with that effect. -/
def registerEffect : Task → Option (State → State)
  | .qenWrite v => some (qenWrite v)
  | .ddrldWrite v => some (fun s => if s.ddrldBusy.isSome then s else reloadDomain (v % 65536) s)
  | .svstartGo v => some (svstart v)
  | .keytabWrite v => some (keytabWrite v)
  | .ictlReq i r => some (ictlReq i r)
  | .ictlOpp i o => some (ictlOpp i o)
  | _ => none

/-- The register writes that the instruction of this step has made take effect within the step. -/
def settleWrites (s : State) : State :=
  s.due.foldl (fun s t => match registerEffect t with
    | some f => f { s with due := s.due.erase t }
    | none => s) s

/-- Without power only a device reset can come (R474). -/
def unpowered (s : State) : Host.Outcome State Fault Refusal :=
  match s.agenda with
  | .event .deviceReset :: r => exec .deviceReset { s with agenda := r }
  | _ => .fault .powerRemoved

/-- One step of the machine. -/
def stepOf (s : State) : Host.Outcome State Fault Refusal :=
  match if s.powered then turn s else unpowered s with
  | .next t => .next (passTime (wakeBusy s (settleWrites t)))
  | .fault f => .fault f
  | .refused r => .refused r

/-! ### Placing an instruction -/

/-- Writes a doubleword to memory as system software would, with no copy of it left in the cache. -/
def placeDword (a v : Nat) (s : State) : State :=
  { s with
    mem := Mem.writeLE s.mem a 8 v
    lines := Tab.erase s.lines (a / 64)
    wordErr := Tab.erase s.wordErr (a / 32) }

/-- Tables that map the 512 MiB around the virtual address `pc` of the current strand to physical addresses from 0x2000_0000, as WB
memory that any level may read, write and execute. -/
def placeTables (asid pc : Nat) (s : State) : State :=
  let s := s.setPk 0x810 (BitVec.ofNat 64 (0x100000 + 16))
  let s := placeDword (0x100000 + 8 * asid) (0x200000 + 1) s
  let s := placeDword (0x200000 + 8 * fld pc 42 13) (0x210000 + 1) s
  placeDword (0x210000 + 8 * fld pc 29 13) (0x20000000 + 2 + 0x3C) s

/-- Puts the word `w` where the context whose turn comes next fetches, and maps it. -/
def placeWord (w : Nat) (s : State) : State :=
  let st := s.strandAt ((nextContext s).getD s.cur)
  let pc := st.pc.toNat
  let pa := 0x20000000 + pc % 0x20000000
  let s := placeTables st.asid pc { s with tlb := [], icache := [] }
  { s with
    mem := Mem.writeLE s.mem pa 4 w
    lines := Tab.erase s.lines (pa / 64)
    wordErr := Tab.erase s.wordErr (pa / 32) }

end Sys2Proof.Machine
end

