-- ==== Sys2Proof/Machine/Step.lean ====
section
/-! DEFINITION. One step of the machine, and the placing of an instruction where the next step fetches. -/

namespace Sys2Proof.Machine

/-- One step of the package. -/
def step (s : State) : Host.Outcome State Fault Refusal := stepOf s

/-- The state with the instruction word `w` stored where the next step fetches (R35): every instruction is one 32-bit word, and the
bits above `nbits` are zero. The address of the program counter is mapped, since a fetch needs it (R36). -/
def State.withFetchWord (s : State) (nbits w : Nat) : State := placeWord (w % 2 ^ nbits % 2 ^ 32) s

end Sys2Proof.Machine
end

