-- ==== Sys2Proof/Laws/PerInstr.lean ====
section
/-! SUPPORT. Per instruction: the encoder gives every instruction with words its word, and the decoder reads a well-formed
instruction back from it (R35 to R44); the steps and events have none. -/


set_option linter.unusedSimpArgs false

namespace Sys2Proof.Laws

/-- The 232 rows of the opcode table that have words come first; each encodes, and decoding its word gives it back when it is
well formed. The steps and events that follow have no word. -/
def RoundTrip.Statement (i : Instr) : Prop :=
  (i.ctorIdx < 232 → ∃ w, encode i = some w ∧ (i.wf = true → decode w = .ok i)) ∧ (232 ≤ i.ctorIdx → encode i = none)

theorem RoundTrip.ofWord {i : Instr} {n : Nat} (hi : i.ctorIdx < 232) (he : encode i = some (BitVec.ofNat 32 n))
    (hn : n < 4294967296) (hd : i.wf = true → decodeNat n = .ok i) : RoundTrip.Statement i := by
  refine ⟨fun _ => ⟨_, he, fun hw => ?_⟩, fun h => absurd hi (by omega)⟩
  rw [decode, BitVec.toNat_ofNat, Nat.mod_eq_of_lt hn]
  exact hd hw

theorem RoundTrip.ofEvent {i : Instr} (hi : 232 ≤ i.ctorIdx) (he : encode i = none) : RoundTrip.Statement i :=
  ⟨fun h => absurd h (by omega), fun _ => he⟩

/-- A field read from a word that is written as higher part, field and lower part. -/
theorem RoundTrip.part {n A B hi x lo : Nat} (e : n = lo + x * A + hi * (A * B)) (hx : x < B) (hl : lo < A) : n / A % B = x := by
  have hA : 0 < A := Nat.lt_of_le_of_lt (Nat.zero_le _) hl
  have : n = lo + (x + hi * B) * A := by rw [e, Nat.add_mul, Nat.mul_assoc, Nat.mul_comm B A, Nat.add_assoc]
  rw [this, Nat.add_mul_div_right _ _ hA, Nat.div_eq_of_lt hl, Nat.zero_add, Nat.add_mul_mod_self_right, Nat.mod_eq_of_lt hx]

theorem RoundTrip.part0 {n A B hi x : Nat} (hA : 0 < A) (e : n = x * A + hi * (A * B)) (hx : x < B) : n / A % B = x :=
  RoundTrip.part (lo := 0) (by rw [e, Nat.zero_add]) hx hA

theorem RoundTrip.low {n B hi x : Nat} (e : n = x + hi * B) (hx : x < B) : n % B = x := by
  rw [e, Nat.add_mul_mod_self_right, Nat.mod_eq_of_lt hx]

theorem RoundTrip.high {n A x lo : Nat} (e : n = lo + x * A) (hl : lo < A) : n / A = x := by
  have hA : 0 < A := Nat.lt_of_le_of_lt (Nat.zero_le _) hl
  rw [e, Nat.add_mul_div_right _ _ hA, Nat.div_eq_of_lt hl, Nat.zero_add]

theorem RoundTrip.field {k : Nat} (x : BitVec k) {m : Nat} (h : m % 2 ^ k = x.toNat) : BitVec.ofNat k m = x := by
  apply BitVec.eq_of_toNat_eq
  rw [BitVec.toNat_ofNat, h]

/-- A part of a part whose value is known. -/
theorem RoundTrip.inner {n A B G : Nat} (h : n / A % B = G) (a b k : Nat) (hk : B = a * (b * k)) : n / (A * a) % b = G / a % b := by
  rw [← h, hk, Nat.mod_mul_right_div_self, Nat.mod_mul_right_mod, Nat.div_div_eq_div_mul]

theorem RoundTrip.inner0 {n B G : Nat} (h : n % B = G) (a b k : Nat) (hk : B = a * (b * k)) : n / a % b = G / a % b := by
  rw [← h, hk, Nat.mod_mul_right_div_self, Nat.mod_mul_right_mod]

theorem RoundTrip.low0 {n B G : Nat} (h : n % B = G) (b k : Nat) (hk : B = b * k) : n % b = G % b := by
  rw [← h, hk, Nat.mod_mul_right_mod]

theorem major1 {n : Nat} (h : n / 67108864 = 1) : decodeNat n = readPfx n := by
  rw [decodeNat, h]
  rfl

theorem major2 {n : Nat} (h : n / 67108864 = 2) : decodeNat n = decode02 n := by
  rw [decodeNat, h]
  rfl

theorem major3 {n : Nat} (h : n / 67108864 = 3) : decodeNat n = readAddi n := by
  rw [decodeNat, h]
  rfl

theorem major4 {n : Nat} (h : n / 67108864 = 4) : decodeNat n = readAndi n := by
  rw [decodeNat, h]
  rfl

theorem major5 {n : Nat} (h : n / 67108864 = 5) : decodeNat n = readOri n := by
  rw [decodeNat, h]
  rfl

theorem major6 {n : Nat} (h : n / 67108864 = 6) : decodeNat n = readXori n := by
  rw [decodeNat, h]
  rfl

theorem major7 {n : Nat} (h : n / 67108864 = 7) : decodeNat n = readSlti n := by
  rw [decodeNat, h]
  rfl

theorem major8 {n : Nat} (h : n / 67108864 = 8) : decodeNat n = readSltin n := by
  rw [decodeNat, h]
  rfl

theorem major9 {n : Nat} (h : n / 67108864 = 9) : decodeNat n = decode09 n := by
  rw [decodeNat, h]
  rfl

theorem major10 {n : Nat} (h : n / 67108864 = 10) : decodeNat n = readLhi n := by
  rw [decodeNat, h]
  rfl

theorem major11 {n : Nat} (h : n / 67108864 = 11) : decodeNat n = readAddpc n := by
  rw [decodeNat, h]
  rfl

theorem major12 {n : Nat} (h : n / 67108864 = 12) : decodeNat n = readLd n := by
  rw [decodeNat, h]
  rfl

theorem major13 {n : Nat} (h : n / 67108864 = 13) : decodeNat n = readSt n := by
  rw [decodeNat, h]
  rfl

theorem major14 {n : Nat} (h : n / 67108864 = 14) : decodeNat n = decode0E n := by
  rw [decodeNat, h]
  rfl

theorem major15 {n : Nat} (h : n / 67108864 = 15) : decodeNat n = decode0F n := by
  rw [decodeNat, h]
  rfl

theorem major16 {n : Nat} (h : n / 67108864 = 16) : decodeNat n = readBeq n := by
  rw [decodeNat, h]
  rfl

theorem major17 {n : Nat} (h : n / 67108864 = 17) : decodeNat n = readBne n := by
  rw [decodeNat, h]
  rfl

theorem major18 {n : Nat} (h : n / 67108864 = 18) : decodeNat n = readBlt n := by
  rw [decodeNat, h]
  rfl

theorem major19 {n : Nat} (h : n / 67108864 = 19) : decodeNat n = readBge n := by
  rw [decodeNat, h]
  rfl

theorem major20 {n : Nat} (h : n / 67108864 = 20) : decodeNat n = readBltn n := by
  rw [decodeNat, h]
  rfl

theorem major21 {n : Nat} (h : n / 67108864 = 21) : decodeNat n = readBgen n := by
  rw [decodeNat, h]
  rfl

theorem major22 {n : Nat} (h : n / 67108864 = 22) : decodeNat n = readCall n := by
  rw [decodeNat, h]
  rfl

theorem major23 {n : Nat} (h : n / 67108864 = 23) : decodeNat n = readJump n := by
  rw [decodeNat, h]
  rfl

theorem major24 {n : Nat} (h : n / 67108864 = 24) : decodeNat n = readJr n := by
  rw [decodeNat, h]
  rfl

theorem major25 {n : Nat} (h : n / 67108864 = 25) : decodeNat n = decode19 n := by
  rw [decodeNat, h]
  rfl

theorem major26 {n : Nat} (h : n / 67108864 = 26) : decodeNat n = decode1A n := by
  rw [decodeNat, h]
  rfl

theorem major32 {n : Nat} (h : n / 67108864 = 32) : decodeNat n = decode20 n := by
  rw [decodeNat, h]
  rfl

theorem major33 {n : Nat} (h : n / 67108864 = 33) : decodeNat n = decode21 n := by
  rw [decodeNat, h]
  rfl

theorem major34 {n : Nat} (h : n / 67108864 = 34) : decodeNat n = decode22 n := by
  rw [decodeNat, h]
  rfl

theorem major35 {n : Nat} (h : n / 67108864 = 35) : decodeNat n = decode23 n := by
  rw [decodeNat, h]
  rfl

theorem major36 {n : Nat} (h : n / 67108864 = 36) : decodeNat n = decode24 n := by
  rw [decodeNat, h]
  rfl

theorem major37 {n : Nat} (h : n / 67108864 = 37) : decodeNat n = decode25 n := by
  rw [decodeNat, h]
  rfl

theorem major38 {n : Nat} (h : n / 67108864 = 38) : decodeNat n = decode26 n := by
  rw [decodeNat, h]
  rfl

theorem major39 {n : Nat} (h : n / 67108864 = 39) : decodeNat n = decode27 n := by
  rw [decodeNat, h]
  rfl

theorem major40 {n : Nat} (h : n / 67108864 = 40) : decodeNat n = decode28 n := by
  rw [decodeNat, h]
  rfl

theorem major44 {n : Nat} (h : n / 67108864 = 44) : decodeNat n = decode2C n := by
  rw [decodeNat, h]
  rfl

theorem major48 {n : Nat} (h : n / 67108864 = 48) : decodeNat n = decode30 n := by
  rw [decodeNat, h]
  rfl

theorem major49 {n : Nat} (h : n / 67108864 = 49) : decodeNat n = decode31 n := by
  rw [decodeNat, h]
  rfl

theorem major50 {n : Nat} (h : n / 67108864 = 50) : decodeNat n = decode32 n := by
  rw [decodeNat, h]
  rfl

theorem major52 {n : Nat} (h : n / 67108864 = 52) : decodeNat n = decode34 n := by
  rw [decodeNat, h]
  rfl

theorem major53 {n : Nat} (h : n / 67108864 = 53) : decodeNat n = decode35 n := by
  rw [decodeNat, h]
  rfl

theorem major54 {n : Nat} (h : n / 67108864 = 54) : decodeNat n = decode36 n := by
  rw [decodeNat, h]
  rfl

theorem major55 {n : Nat} (h : n / 67108864 = 55) : decodeNat n = decode37 n := by
  rw [decodeNat, h]
  rfl

theorem major56 {n : Nat} (h : n / 67108864 = 56) : decodeNat n = decode38 n := by
  rw [decodeNat, h]
  rfl

theorem major63 {n : Nat} (h : n / 67108864 = 63) : decodeNat n = readHint n := by
  rw [decodeNat, h]
  rfl

theorem layout0 {n x0 x1 x2 x3 x4 x5 : Nat} (h0 : x0 < 65536) (h1 : x1 < 32) (h2 : x2 < 2) (h3 : x3 < 8) (h4 : x4 < 2) (h5 : x5 < 64)
    (e : n = x0 + x1 * 65536 + x2 * 2097152 + x3 * 4194304 + x4 * 33554432 + x5 * 67108864) : n < 4294967296 ∧ n % 65536 = x0 ∧ n / 65536 % 32 = x1 ∧ n / 2097152 % 2 = x2 ∧ n / 4194304 % 8 = x3 ∧ n / 33554432 % 2 = x4 ∧ n / 67108864 = x5 :=
  ⟨by omega, by omega, by omega, by omega, by omega, by omega, by omega⟩

theorem RoundTrip.pfx (i : BitVec 1) (m : BitVec 3) (u : BitVec 1) (c : BitVec 5) : RoundTrip.Statement (.pfx i m u c) := by
  obtain ⟨wd, hn⟩ : ∃ wd, wd = 67108864 + i.toNat * 33554432 + m.toNat * 4194304 + u.toNat * 2097152 + c.toNat * 65536 := ⟨_, rfl⟩
  obtain ⟨hlt, q0, q1, q2, q3, q4, q5⟩ := layout0 (show 0 < 65536 by decide) c.isLt u.isLt m.isLt i.isLt (show 1 < 64 by decide) (hn.trans (by omega))
  refine RoundTrip.ofWord (n := wd) (by exact (by decide : 0 < 232)) (hn ▸ rfl) hlt (fun hw => ?_)
  clear hn
  replace hw : ¬(m.toNat = 0 ∧ i.toNat = 1) ∧ ¬(u.toNat = 0 ∧ c.toNat ≠ 0) ∧ ¬(m.toNat = 0 ∧ u.toNat = 0) := of_decide_eq_true hw
  rw [major1 q5]
  unfold readPfx
  rw [RoundTrip.field i q4, RoundTrip.field m q3, RoundTrip.field u q2, RoundTrip.field c q1]
  have hi := i.isLt
  have hm := m.isLt
  have hu := u.isLt
  have hc := c.isLt
  rw [q0, q3, q4, q2, q1]
  rw [if_pos (by omega)]

theorem layout1 {n x0 x1 x2 x3 x4 : Nat} (h0 : x0 < 2048) (h1 : x1 < 32) (h2 : x2 < 32) (h3 : x3 < 32) (h4 : x4 < 64)
    (e : n = x0 + x1 * 2048 + x2 * 65536 + x3 * 2097152 + x4 * 67108864) : n < 4294967296 ∧ n % 2048 = x0 ∧ n / 2048 % 32 = x1 ∧ n / 65536 % 32 = x2 ∧ n / 2097152 % 32 = x3 ∧ n / 67108864 = x4 :=
  ⟨by omega, by omega, by omega, by omega, by omega, by omega⟩

theorem RoundTrip.add (d : BitVec 5) (a : BitVec 5) (b : BitVec 5) : RoundTrip.Statement (.add d a b) := by
  obtain ⟨wd, hn⟩ : ∃ wd, wd = 134217728 + d.toNat * 2097152 + a.toNat * 65536 + b.toNat * 2048 := ⟨_, rfl⟩
  obtain ⟨hlt, q0, q1, q2, q3, q4⟩ := layout1 (show 0 < 2048 by decide) b.isLt a.isLt d.isLt (show 2 < 64 by decide) (hn.trans (by omega))
  refine RoundTrip.ofWord (n := wd) (by exact (by decide : 1 < 232)) (hn ▸ rfl) hlt (fun hw => ?_)
  clear hn
  have e1 : wd % 64 = 0 := RoundTrip.low0 q0 64 32 rfl
  have e2 : wd / 64 % 32 = 0 := RoundTrip.inner0 q0 64 32 1 rfl
  rw [major2 q4]
  rw [decode02, e1]
  change readAdd wd = _
  unfold readAdd
  rw [RoundTrip.field d q3, RoundTrip.field a q2, RoundTrip.field b q1]
  rw [if_pos e2]

theorem RoundTrip.sub (d : BitVec 5) (a : BitVec 5) (b : BitVec 5) : RoundTrip.Statement (.sub d a b) := by
  obtain ⟨wd, hn⟩ : ∃ wd, wd = 134217729 + d.toNat * 2097152 + a.toNat * 65536 + b.toNat * 2048 := ⟨_, rfl⟩
  obtain ⟨hlt, q0, q1, q2, q3, q4⟩ := layout1 (show 1 < 2048 by decide) b.isLt a.isLt d.isLt (show 2 < 64 by decide) (hn.trans (by omega))
  refine RoundTrip.ofWord (n := wd) (by exact (by decide : 2 < 232)) (hn ▸ rfl) hlt (fun hw => ?_)
  clear hn
  have e1 : wd % 64 = 1 := RoundTrip.low0 q0 64 32 rfl
  have e2 : wd / 64 % 32 = 0 := RoundTrip.inner0 q0 64 32 1 rfl
  rw [major2 q4]
  rw [decode02, e1]
  change readSub wd = _
  unfold readSub
  rw [RoundTrip.field d q3, RoundTrip.field a q2, RoundTrip.field b q1]
  rw [if_pos e2]

theorem RoundTrip.and (d : BitVec 5) (a : BitVec 5) (b : BitVec 5) : RoundTrip.Statement (.and d a b) := by
  obtain ⟨wd, hn⟩ : ∃ wd, wd = 134217730 + d.toNat * 2097152 + a.toNat * 65536 + b.toNat * 2048 := ⟨_, rfl⟩
  obtain ⟨hlt, q0, q1, q2, q3, q4⟩ := layout1 (show 2 < 2048 by decide) b.isLt a.isLt d.isLt (show 2 < 64 by decide) (hn.trans (by omega))
  refine RoundTrip.ofWord (n := wd) (by exact (by decide : 3 < 232)) (hn ▸ rfl) hlt (fun hw => ?_)
  clear hn
  have e1 : wd % 64 = 2 := RoundTrip.low0 q0 64 32 rfl
  have e2 : wd / 64 % 32 = 0 := RoundTrip.inner0 q0 64 32 1 rfl
  rw [major2 q4]
  rw [decode02, e1]
  change readAnd wd = _
  unfold readAnd
  rw [RoundTrip.field d q3, RoundTrip.field a q2, RoundTrip.field b q1]
  rw [if_pos e2]

theorem RoundTrip.or (d : BitVec 5) (a : BitVec 5) (b : BitVec 5) : RoundTrip.Statement (.or d a b) := by
  obtain ⟨wd, hn⟩ : ∃ wd, wd = 134217731 + d.toNat * 2097152 + a.toNat * 65536 + b.toNat * 2048 := ⟨_, rfl⟩
  obtain ⟨hlt, q0, q1, q2, q3, q4⟩ := layout1 (show 3 < 2048 by decide) b.isLt a.isLt d.isLt (show 2 < 64 by decide) (hn.trans (by omega))
  refine RoundTrip.ofWord (n := wd) (by exact (by decide : 4 < 232)) (hn ▸ rfl) hlt (fun hw => ?_)
  clear hn
  have e1 : wd % 64 = 3 := RoundTrip.low0 q0 64 32 rfl
  have e2 : wd / 64 % 32 = 0 := RoundTrip.inner0 q0 64 32 1 rfl
  rw [major2 q4]
  rw [decode02, e1]
  change readOr wd = _
  unfold readOr
  rw [RoundTrip.field d q3, RoundTrip.field a q2, RoundTrip.field b q1]
  rw [if_pos e2]

theorem RoundTrip.xor (d : BitVec 5) (a : BitVec 5) (b : BitVec 5) : RoundTrip.Statement (.xor d a b) := by
  obtain ⟨wd, hn⟩ : ∃ wd, wd = 134217732 + d.toNat * 2097152 + a.toNat * 65536 + b.toNat * 2048 := ⟨_, rfl⟩
  obtain ⟨hlt, q0, q1, q2, q3, q4⟩ := layout1 (show 4 < 2048 by decide) b.isLt a.isLt d.isLt (show 2 < 64 by decide) (hn.trans (by omega))
  refine RoundTrip.ofWord (n := wd) (by exact (by decide : 5 < 232)) (hn ▸ rfl) hlt (fun hw => ?_)
  clear hn
  have e1 : wd % 64 = 4 := RoundTrip.low0 q0 64 32 rfl
  have e2 : wd / 64 % 32 = 0 := RoundTrip.inner0 q0 64 32 1 rfl
  rw [major2 q4]
  rw [decode02, e1]
  change readXor wd = _
  unfold readXor
  rw [RoundTrip.field d q3, RoundTrip.field a q2, RoundTrip.field b q1]
  rw [if_pos e2]

theorem RoundTrip.andn (d : BitVec 5) (a : BitVec 5) (b : BitVec 5) : RoundTrip.Statement (.andn d a b) := by
  obtain ⟨wd, hn⟩ : ∃ wd, wd = 134217733 + d.toNat * 2097152 + a.toNat * 65536 + b.toNat * 2048 := ⟨_, rfl⟩
  obtain ⟨hlt, q0, q1, q2, q3, q4⟩ := layout1 (show 5 < 2048 by decide) b.isLt a.isLt d.isLt (show 2 < 64 by decide) (hn.trans (by omega))
  refine RoundTrip.ofWord (n := wd) (by exact (by decide : 6 < 232)) (hn ▸ rfl) hlt (fun hw => ?_)
  clear hn
  have e1 : wd % 64 = 5 := RoundTrip.low0 q0 64 32 rfl
  have e2 : wd / 64 % 32 = 0 := RoundTrip.inner0 q0 64 32 1 rfl
  rw [major2 q4]
  rw [decode02, e1]
  change readAndn wd = _
  unfold readAndn
  rw [RoundTrip.field d q3, RoundTrip.field a q2, RoundTrip.field b q1]
  rw [if_pos e2]

theorem RoundTrip.sll (d : BitVec 5) (a : BitVec 5) (b : BitVec 5) : RoundTrip.Statement (.sll d a b) := by
  obtain ⟨wd, hn⟩ : ∃ wd, wd = 134217734 + d.toNat * 2097152 + a.toNat * 65536 + b.toNat * 2048 := ⟨_, rfl⟩
  obtain ⟨hlt, q0, q1, q2, q3, q4⟩ := layout1 (show 6 < 2048 by decide) b.isLt a.isLt d.isLt (show 2 < 64 by decide) (hn.trans (by omega))
  refine RoundTrip.ofWord (n := wd) (by exact (by decide : 7 < 232)) (hn ▸ rfl) hlt (fun hw => ?_)
  clear hn
  have e1 : wd % 64 = 6 := RoundTrip.low0 q0 64 32 rfl
  have e2 : wd / 64 % 32 = 0 := RoundTrip.inner0 q0 64 32 1 rfl
  rw [major2 q4]
  rw [decode02, e1]
  change readSll wd = _
  unfold readSll
  rw [RoundTrip.field d q3, RoundTrip.field a q2, RoundTrip.field b q1]
  rw [if_pos e2]

theorem RoundTrip.srl (d : BitVec 5) (a : BitVec 5) (b : BitVec 5) : RoundTrip.Statement (.srl d a b) := by
  obtain ⟨wd, hn⟩ : ∃ wd, wd = 134217735 + d.toNat * 2097152 + a.toNat * 65536 + b.toNat * 2048 := ⟨_, rfl⟩
  obtain ⟨hlt, q0, q1, q2, q3, q4⟩ := layout1 (show 7 < 2048 by decide) b.isLt a.isLt d.isLt (show 2 < 64 by decide) (hn.trans (by omega))
  refine RoundTrip.ofWord (n := wd) (by exact (by decide : 8 < 232)) (hn ▸ rfl) hlt (fun hw => ?_)
  clear hn
  have e1 : wd % 64 = 7 := RoundTrip.low0 q0 64 32 rfl
  have e2 : wd / 64 % 32 = 0 := RoundTrip.inner0 q0 64 32 1 rfl
  rw [major2 q4]
  rw [decode02, e1]
  change readSrl wd = _
  unfold readSrl
  rw [RoundTrip.field d q3, RoundTrip.field a q2, RoundTrip.field b q1]
  rw [if_pos e2]

theorem RoundTrip.sra (d : BitVec 5) (a : BitVec 5) (b : BitVec 5) : RoundTrip.Statement (.sra d a b) := by
  obtain ⟨wd, hn⟩ : ∃ wd, wd = 134217736 + d.toNat * 2097152 + a.toNat * 65536 + b.toNat * 2048 := ⟨_, rfl⟩
  obtain ⟨hlt, q0, q1, q2, q3, q4⟩ := layout1 (show 8 < 2048 by decide) b.isLt a.isLt d.isLt (show 2 < 64 by decide) (hn.trans (by omega))
  refine RoundTrip.ofWord (n := wd) (by exact (by decide : 9 < 232)) (hn ▸ rfl) hlt (fun hw => ?_)
  clear hn
  have e1 : wd % 64 = 8 := RoundTrip.low0 q0 64 32 rfl
  have e2 : wd / 64 % 32 = 0 := RoundTrip.inner0 q0 64 32 1 rfl
  rw [major2 q4]
  rw [decode02, e1]
  change readSra wd = _
  unfold readSra
  rw [RoundTrip.field d q3, RoundTrip.field a q2, RoundTrip.field b q1]
  rw [if_pos e2]

theorem RoundTrip.min (d : BitVec 5) (a : BitVec 5) (b : BitVec 5) : RoundTrip.Statement (.min d a b) := by
  obtain ⟨wd, hn⟩ : ∃ wd, wd = 134217737 + d.toNat * 2097152 + a.toNat * 65536 + b.toNat * 2048 := ⟨_, rfl⟩
  obtain ⟨hlt, q0, q1, q2, q3, q4⟩ := layout1 (show 9 < 2048 by decide) b.isLt a.isLt d.isLt (show 2 < 64 by decide) (hn.trans (by omega))
  refine RoundTrip.ofWord (n := wd) (by exact (by decide : 10 < 232)) (hn ▸ rfl) hlt (fun hw => ?_)
  clear hn
  have e1 : wd % 64 = 9 := RoundTrip.low0 q0 64 32 rfl
  have e2 : wd / 64 % 32 = 0 := RoundTrip.inner0 q0 64 32 1 rfl
  rw [major2 q4]
  rw [decode02, e1]
  change readMin wd = _
  unfold readMin
  rw [RoundTrip.field d q3, RoundTrip.field a q2, RoundTrip.field b q1]
  rw [if_pos e2]

theorem RoundTrip.max (d : BitVec 5) (a : BitVec 5) (b : BitVec 5) : RoundTrip.Statement (.max d a b) := by
  obtain ⟨wd, hn⟩ : ∃ wd, wd = 134217738 + d.toNat * 2097152 + a.toNat * 65536 + b.toNat * 2048 := ⟨_, rfl⟩
  obtain ⟨hlt, q0, q1, q2, q3, q4⟩ := layout1 (show 10 < 2048 by decide) b.isLt a.isLt d.isLt (show 2 < 64 by decide) (hn.trans (by omega))
  refine RoundTrip.ofWord (n := wd) (by exact (by decide : 11 < 232)) (hn ▸ rfl) hlt (fun hw => ?_)
  clear hn
  have e1 : wd % 64 = 10 := RoundTrip.low0 q0 64 32 rfl
  have e2 : wd / 64 % 32 = 0 := RoundTrip.inner0 q0 64 32 1 rfl
  rw [major2 q4]
  rw [decode02, e1]
  change readMax wd = _
  unfold readMax
  rw [RoundTrip.field d q3, RoundTrip.field a q2, RoundTrip.field b q1]
  rw [if_pos e2]

theorem RoundTrip.minn (d : BitVec 5) (a : BitVec 5) (b : BitVec 5) : RoundTrip.Statement (.minn d a b) := by
  obtain ⟨wd, hn⟩ : ∃ wd, wd = 134217739 + d.toNat * 2097152 + a.toNat * 65536 + b.toNat * 2048 := ⟨_, rfl⟩
  obtain ⟨hlt, q0, q1, q2, q3, q4⟩ := layout1 (show 11 < 2048 by decide) b.isLt a.isLt d.isLt (show 2 < 64 by decide) (hn.trans (by omega))
  refine RoundTrip.ofWord (n := wd) (by exact (by decide : 12 < 232)) (hn ▸ rfl) hlt (fun hw => ?_)
  clear hn
  have e1 : wd % 64 = 11 := RoundTrip.low0 q0 64 32 rfl
  have e2 : wd / 64 % 32 = 0 := RoundTrip.inner0 q0 64 32 1 rfl
  rw [major2 q4]
  rw [decode02, e1]
  change readMinn wd = _
  unfold readMinn
  rw [RoundTrip.field d q3, RoundTrip.field a q2, RoundTrip.field b q1]
  rw [if_pos e2]

theorem RoundTrip.maxn (d : BitVec 5) (a : BitVec 5) (b : BitVec 5) : RoundTrip.Statement (.maxn d a b) := by
  obtain ⟨wd, hn⟩ : ∃ wd, wd = 134217740 + d.toNat * 2097152 + a.toNat * 65536 + b.toNat * 2048 := ⟨_, rfl⟩
  obtain ⟨hlt, q0, q1, q2, q3, q4⟩ := layout1 (show 12 < 2048 by decide) b.isLt a.isLt d.isLt (show 2 < 64 by decide) (hn.trans (by omega))
  refine RoundTrip.ofWord (n := wd) (by exact (by decide : 13 < 232)) (hn ▸ rfl) hlt (fun hw => ?_)
  clear hn
  have e1 : wd % 64 = 12 := RoundTrip.low0 q0 64 32 rfl
  have e2 : wd / 64 % 32 = 0 := RoundTrip.inner0 q0 64 32 1 rfl
  rw [major2 q4]
  rw [decode02, e1]
  change readMaxn wd = _
  unfold readMaxn
  rw [RoundTrip.field d q3, RoundTrip.field a q2, RoundTrip.field b q1]
  rw [if_pos e2]

theorem RoundTrip.slt (d : BitVec 5) (a : BitVec 5) (b : BitVec 5) : RoundTrip.Statement (.slt d a b) := by
  obtain ⟨wd, hn⟩ : ∃ wd, wd = 134217741 + d.toNat * 2097152 + a.toNat * 65536 + b.toNat * 2048 := ⟨_, rfl⟩
  obtain ⟨hlt, q0, q1, q2, q3, q4⟩ := layout1 (show 13 < 2048 by decide) b.isLt a.isLt d.isLt (show 2 < 64 by decide) (hn.trans (by omega))
  refine RoundTrip.ofWord (n := wd) (by exact (by decide : 14 < 232)) (hn ▸ rfl) hlt (fun hw => ?_)
  clear hn
  have e1 : wd % 64 = 13 := RoundTrip.low0 q0 64 32 rfl
  have e2 : wd / 64 % 32 = 0 := RoundTrip.inner0 q0 64 32 1 rfl
  rw [major2 q4]
  rw [decode02, e1]
  change readSlt wd = _
  unfold readSlt
  rw [RoundTrip.field d q3, RoundTrip.field a q2, RoundTrip.field b q1]
  rw [if_pos e2]

theorem RoundTrip.sltn (d : BitVec 5) (a : BitVec 5) (b : BitVec 5) : RoundTrip.Statement (.sltn d a b) := by
  obtain ⟨wd, hn⟩ : ∃ wd, wd = 134217742 + d.toNat * 2097152 + a.toNat * 65536 + b.toNat * 2048 := ⟨_, rfl⟩
  obtain ⟨hlt, q0, q1, q2, q3, q4⟩ := layout1 (show 14 < 2048 by decide) b.isLt a.isLt d.isLt (show 2 < 64 by decide) (hn.trans (by omega))
  refine RoundTrip.ofWord (n := wd) (by exact (by decide : 15 < 232)) (hn ▸ rfl) hlt (fun hw => ?_)
  clear hn
  have e1 : wd % 64 = 14 := RoundTrip.low0 q0 64 32 rfl
  have e2 : wd / 64 % 32 = 0 := RoundTrip.inner0 q0 64 32 1 rfl
  rw [major2 q4]
  rw [decode02, e1]
  change readSltn wd = _
  unfold readSltn
  rw [RoundTrip.field d q3, RoundTrip.field a q2, RoundTrip.field b q1]
  rw [if_pos e2]

theorem RoundTrip.mul (d : BitVec 5) (a : BitVec 5) (b : BitVec 5) : RoundTrip.Statement (.mul d a b) := by
  obtain ⟨wd, hn⟩ : ∃ wd, wd = 134217744 + d.toNat * 2097152 + a.toNat * 65536 + b.toNat * 2048 := ⟨_, rfl⟩
  obtain ⟨hlt, q0, q1, q2, q3, q4⟩ := layout1 (show 16 < 2048 by decide) b.isLt a.isLt d.isLt (show 2 < 64 by decide) (hn.trans (by omega))
  refine RoundTrip.ofWord (n := wd) (by exact (by decide : 16 < 232)) (hn ▸ rfl) hlt (fun hw => ?_)
  clear hn
  have e1 : wd % 64 = 16 := RoundTrip.low0 q0 64 32 rfl
  have e2 : wd / 64 % 32 = 0 := RoundTrip.inner0 q0 64 32 1 rfl
  rw [major2 q4]
  rw [decode02, e1]
  change readMul wd = _
  unfold readMul
  rw [RoundTrip.field d q3, RoundTrip.field a q2, RoundTrip.field b q1]
  rw [if_pos e2]

theorem RoundTrip.mulh (d : BitVec 5) (a : BitVec 5) (b : BitVec 5) : RoundTrip.Statement (.mulh d a b) := by
  obtain ⟨wd, hn⟩ : ∃ wd, wd = 134217745 + d.toNat * 2097152 + a.toNat * 65536 + b.toNat * 2048 := ⟨_, rfl⟩
  obtain ⟨hlt, q0, q1, q2, q3, q4⟩ := layout1 (show 17 < 2048 by decide) b.isLt a.isLt d.isLt (show 2 < 64 by decide) (hn.trans (by omega))
  refine RoundTrip.ofWord (n := wd) (by exact (by decide : 17 < 232)) (hn ▸ rfl) hlt (fun hw => ?_)
  clear hn
  have e1 : wd % 64 = 17 := RoundTrip.low0 q0 64 32 rfl
  have e2 : wd / 64 % 32 = 0 := RoundTrip.inner0 q0 64 32 1 rfl
  rw [major2 q4]
  rw [decode02, e1]
  change readMulh wd = _
  unfold readMulh
  rw [RoundTrip.field d q3, RoundTrip.field a q2, RoundTrip.field b q1]
  rw [if_pos e2]

theorem RoundTrip.mulhn (d : BitVec 5) (a : BitVec 5) (b : BitVec 5) : RoundTrip.Statement (.mulhn d a b) := by
  obtain ⟨wd, hn⟩ : ∃ wd, wd = 134217746 + d.toNat * 2097152 + a.toNat * 65536 + b.toNat * 2048 := ⟨_, rfl⟩
  obtain ⟨hlt, q0, q1, q2, q3, q4⟩ := layout1 (show 18 < 2048 by decide) b.isLt a.isLt d.isLt (show 2 < 64 by decide) (hn.trans (by omega))
  refine RoundTrip.ofWord (n := wd) (by exact (by decide : 18 < 232)) (hn ▸ rfl) hlt (fun hw => ?_)
  clear hn
  have e1 : wd % 64 = 18 := RoundTrip.low0 q0 64 32 rfl
  have e2 : wd / 64 % 32 = 0 := RoundTrip.inner0 q0 64 32 1 rfl
  rw [major2 q4]
  rw [decode02, e1]
  change readMulhn wd = _
  unfold readMulhn
  rw [RoundTrip.field d q3, RoundTrip.field a q2, RoundTrip.field b q1]
  rw [if_pos e2]

theorem RoundTrip.div (d : BitVec 5) (a : BitVec 5) (b : BitVec 5) : RoundTrip.Statement (.div d a b) := by
  obtain ⟨wd, hn⟩ : ∃ wd, wd = 134217748 + d.toNat * 2097152 + a.toNat * 65536 + b.toNat * 2048 := ⟨_, rfl⟩
  obtain ⟨hlt, q0, q1, q2, q3, q4⟩ := layout1 (show 20 < 2048 by decide) b.isLt a.isLt d.isLt (show 2 < 64 by decide) (hn.trans (by omega))
  refine RoundTrip.ofWord (n := wd) (by exact (by decide : 19 < 232)) (hn ▸ rfl) hlt (fun hw => ?_)
  clear hn
  have e1 : wd % 64 = 20 := RoundTrip.low0 q0 64 32 rfl
  have e2 : wd / 64 % 32 = 0 := RoundTrip.inner0 q0 64 32 1 rfl
  rw [major2 q4]
  rw [decode02, e1]
  change readDiv wd = _
  unfold readDiv
  rw [RoundTrip.field d q3, RoundTrip.field a q2, RoundTrip.field b q1]
  rw [if_pos e2]

theorem RoundTrip.divn (d : BitVec 5) (a : BitVec 5) (b : BitVec 5) : RoundTrip.Statement (.divn d a b) := by
  obtain ⟨wd, hn⟩ : ∃ wd, wd = 134217749 + d.toNat * 2097152 + a.toNat * 65536 + b.toNat * 2048 := ⟨_, rfl⟩
  obtain ⟨hlt, q0, q1, q2, q3, q4⟩ := layout1 (show 21 < 2048 by decide) b.isLt a.isLt d.isLt (show 2 < 64 by decide) (hn.trans (by omega))
  refine RoundTrip.ofWord (n := wd) (by exact (by decide : 20 < 232)) (hn ▸ rfl) hlt (fun hw => ?_)
  clear hn
  have e1 : wd % 64 = 21 := RoundTrip.low0 q0 64 32 rfl
  have e2 : wd / 64 % 32 = 0 := RoundTrip.inner0 q0 64 32 1 rfl
  rw [major2 q4]
  rw [decode02, e1]
  change readDivn wd = _
  unfold readDivn
  rw [RoundTrip.field d q3, RoundTrip.field a q2, RoundTrip.field b q1]
  rw [if_pos e2]

theorem RoundTrip.rem (d : BitVec 5) (a : BitVec 5) (b : BitVec 5) : RoundTrip.Statement (.rem d a b) := by
  obtain ⟨wd, hn⟩ : ∃ wd, wd = 134217750 + d.toNat * 2097152 + a.toNat * 65536 + b.toNat * 2048 := ⟨_, rfl⟩
  obtain ⟨hlt, q0, q1, q2, q3, q4⟩ := layout1 (show 22 < 2048 by decide) b.isLt a.isLt d.isLt (show 2 < 64 by decide) (hn.trans (by omega))
  refine RoundTrip.ofWord (n := wd) (by exact (by decide : 21 < 232)) (hn ▸ rfl) hlt (fun hw => ?_)
  clear hn
  have e1 : wd % 64 = 22 := RoundTrip.low0 q0 64 32 rfl
  have e2 : wd / 64 % 32 = 0 := RoundTrip.inner0 q0 64 32 1 rfl
  rw [major2 q4]
  rw [decode02, e1]
  change readRem wd = _
  unfold readRem
  rw [RoundTrip.field d q3, RoundTrip.field a q2, RoundTrip.field b q1]
  rw [if_pos e2]

theorem RoundTrip.remn (d : BitVec 5) (a : BitVec 5) (b : BitVec 5) : RoundTrip.Statement (.remn d a b) := by
  obtain ⟨wd, hn⟩ : ∃ wd, wd = 134217751 + d.toNat * 2097152 + a.toNat * 65536 + b.toNat * 2048 := ⟨_, rfl⟩
  obtain ⟨hlt, q0, q1, q2, q3, q4⟩ := layout1 (show 23 < 2048 by decide) b.isLt a.isLt d.isLt (show 2 < 64 by decide) (hn.trans (by omega))
  refine RoundTrip.ofWord (n := wd) (by exact (by decide : 22 < 232)) (hn ▸ rfl) hlt (fun hw => ?_)
  clear hn
  have e1 : wd % 64 = 23 := RoundTrip.low0 q0 64 32 rfl
  have e2 : wd / 64 % 32 = 0 := RoundTrip.inner0 q0 64 32 1 rfl
  rw [major2 q4]
  rw [decode02, e1]
  change readRemn wd = _
  unfold readRemn
  rw [RoundTrip.field d q3, RoundTrip.field a q2, RoundTrip.field b q1]
  rw [if_pos e2]

theorem layout2 {n x0 x1 x2 x3 : Nat} (h0 : x0 < 65536) (h1 : x1 < 32) (h2 : x2 < 32) (h3 : x3 < 64)
    (e : n = x0 + x1 * 65536 + x2 * 2097152 + x3 * 67108864) : n < 4294967296 ∧ n % 65536 = x0 ∧ n / 65536 % 32 = x1 ∧ n / 2097152 % 32 = x2 ∧ n / 67108864 = x3 :=
  ⟨by omega, by omega, by omega, by omega, by omega⟩

theorem RoundTrip.clz (d : BitVec 5) (a : BitVec 5) : RoundTrip.Statement (.clz d a) := by
  obtain ⟨wd, hn⟩ : ∃ wd, wd = 134217752 + d.toNat * 2097152 + a.toNat * 65536 := ⟨_, rfl⟩
  obtain ⟨hlt, q0, q1, q2, q3⟩ := layout2 (show 24 < 65536 by decide) a.isLt d.isLt (show 2 < 64 by decide) (hn.trans (by omega))
  refine RoundTrip.ofWord (n := wd) (by exact (by decide : 23 < 232)) (hn ▸ rfl) hlt (fun hw => ?_)
  clear hn
  have e1 : wd % 64 = 24 := RoundTrip.low0 q0 64 1024 rfl
  have e2 : wd / 64 % 1024 = 0 := RoundTrip.inner0 q0 64 1024 1 rfl
  rw [major2 q3]
  rw [decode02, e1]
  change readClz wd = _
  unfold readClz
  rw [RoundTrip.field d q2, RoundTrip.field a q1]
  rw [if_pos e2]

theorem RoundTrip.ctz (d : BitVec 5) (a : BitVec 5) : RoundTrip.Statement (.ctz d a) := by
  obtain ⟨wd, hn⟩ : ∃ wd, wd = 134217753 + d.toNat * 2097152 + a.toNat * 65536 := ⟨_, rfl⟩
  obtain ⟨hlt, q0, q1, q2, q3⟩ := layout2 (show 25 < 65536 by decide) a.isLt d.isLt (show 2 < 64 by decide) (hn.trans (by omega))
  refine RoundTrip.ofWord (n := wd) (by exact (by decide : 24 < 232)) (hn ▸ rfl) hlt (fun hw => ?_)
  clear hn
  have e1 : wd % 64 = 25 := RoundTrip.low0 q0 64 1024 rfl
  have e2 : wd / 64 % 1024 = 0 := RoundTrip.inner0 q0 64 1024 1 rfl
  rw [major2 q3]
  rw [decode02, e1]
  change readCtz wd = _
  unfold readCtz
  rw [RoundTrip.field d q2, RoundTrip.field a q1]
  rw [if_pos e2]

theorem RoundTrip.popc (d : BitVec 5) (a : BitVec 5) : RoundTrip.Statement (.popc d a) := by
  obtain ⟨wd, hn⟩ : ∃ wd, wd = 134217754 + d.toNat * 2097152 + a.toNat * 65536 := ⟨_, rfl⟩
  obtain ⟨hlt, q0, q1, q2, q3⟩ := layout2 (show 26 < 65536 by decide) a.isLt d.isLt (show 2 < 64 by decide) (hn.trans (by omega))
  refine RoundTrip.ofWord (n := wd) (by exact (by decide : 25 < 232)) (hn ▸ rfl) hlt (fun hw => ?_)
  clear hn
  have e1 : wd % 64 = 26 := RoundTrip.low0 q0 64 1024 rfl
  have e2 : wd / 64 % 1024 = 0 := RoundTrip.inner0 q0 64 1024 1 rfl
  rw [major2 q3]
  rw [decode02, e1]
  change readPopc wd = _
  unfold readPopc
  rw [RoundTrip.field d q2, RoundTrip.field a q1]
  rw [if_pos e2]

theorem RoundTrip.sextB (d : BitVec 5) (a : BitVec 5) : RoundTrip.Statement (.sextB d a) := by
  obtain ⟨wd, hn⟩ : ∃ wd, wd = 134217756 + d.toNat * 2097152 + a.toNat * 65536 := ⟨_, rfl⟩
  obtain ⟨hlt, q0, q1, q2, q3⟩ := layout2 (show 28 < 65536 by decide) a.isLt d.isLt (show 2 < 64 by decide) (hn.trans (by omega))
  refine RoundTrip.ofWord (n := wd) (by exact (by decide : 26 < 232)) (hn ▸ rfl) hlt (fun hw => ?_)
  clear hn
  have e1 : wd % 64 = 28 := RoundTrip.low0 q0 64 1024 rfl
  have e2 : wd / 64 % 1024 = 0 := RoundTrip.inner0 q0 64 1024 1 rfl
  rw [major2 q3]
  rw [decode02, e1]
  change readSextB wd = _
  unfold readSextB
  rw [RoundTrip.field d q2, RoundTrip.field a q1]
  rw [if_pos e2]

theorem RoundTrip.sextH (d : BitVec 5) (a : BitVec 5) : RoundTrip.Statement (.sextH d a) := by
  obtain ⟨wd, hn⟩ : ∃ wd, wd = 134217757 + d.toNat * 2097152 + a.toNat * 65536 := ⟨_, rfl⟩
  obtain ⟨hlt, q0, q1, q2, q3⟩ := layout2 (show 29 < 65536 by decide) a.isLt d.isLt (show 2 < 64 by decide) (hn.trans (by omega))
  refine RoundTrip.ofWord (n := wd) (by exact (by decide : 27 < 232)) (hn ▸ rfl) hlt (fun hw => ?_)
  clear hn
  have e1 : wd % 64 = 29 := RoundTrip.low0 q0 64 1024 rfl
  have e2 : wd / 64 % 1024 = 0 := RoundTrip.inner0 q0 64 1024 1 rfl
  rw [major2 q3]
  rw [decode02, e1]
  change readSextH wd = _
  unfold readSextH
  rw [RoundTrip.field d q2, RoundTrip.field a q1]
  rw [if_pos e2]

theorem RoundTrip.sextW (d : BitVec 5) (a : BitVec 5) : RoundTrip.Statement (.sextW d a) := by
  obtain ⟨wd, hn⟩ : ∃ wd, wd = 134217758 + d.toNat * 2097152 + a.toNat * 65536 := ⟨_, rfl⟩
  obtain ⟨hlt, q0, q1, q2, q3⟩ := layout2 (show 30 < 65536 by decide) a.isLt d.isLt (show 2 < 64 by decide) (hn.trans (by omega))
  refine RoundTrip.ofWord (n := wd) (by exact (by decide : 28 < 232)) (hn ▸ rfl) hlt (fun hw => ?_)
  clear hn
  have e1 : wd % 64 = 30 := RoundTrip.low0 q0 64 1024 rfl
  have e2 : wd / 64 % 1024 = 0 := RoundTrip.inner0 q0 64 1024 1 rfl
  rw [major2 q3]
  rw [decode02, e1]
  change readSextW wd = _
  unfold readSextW
  rw [RoundTrip.field d q2, RoundTrip.field a q1]
  rw [if_pos e2]

theorem RoundTrip.zextB (d : BitVec 5) (a : BitVec 5) : RoundTrip.Statement (.zextB d a) := by
  obtain ⟨wd, hn⟩ : ∃ wd, wd = 134217760 + d.toNat * 2097152 + a.toNat * 65536 := ⟨_, rfl⟩
  obtain ⟨hlt, q0, q1, q2, q3⟩ := layout2 (show 32 < 65536 by decide) a.isLt d.isLt (show 2 < 64 by decide) (hn.trans (by omega))
  refine RoundTrip.ofWord (n := wd) (by exact (by decide : 29 < 232)) (hn ▸ rfl) hlt (fun hw => ?_)
  clear hn
  have e1 : wd % 64 = 32 := RoundTrip.low0 q0 64 1024 rfl
  have e2 : wd / 64 % 1024 = 0 := RoundTrip.inner0 q0 64 1024 1 rfl
  rw [major2 q3]
  rw [decode02, e1]
  change readZextB wd = _
  unfold readZextB
  rw [RoundTrip.field d q2, RoundTrip.field a q1]
  rw [if_pos e2]

theorem RoundTrip.zextH (d : BitVec 5) (a : BitVec 5) : RoundTrip.Statement (.zextH d a) := by
  obtain ⟨wd, hn⟩ : ∃ wd, wd = 134217761 + d.toNat * 2097152 + a.toNat * 65536 := ⟨_, rfl⟩
  obtain ⟨hlt, q0, q1, q2, q3⟩ := layout2 (show 33 < 65536 by decide) a.isLt d.isLt (show 2 < 64 by decide) (hn.trans (by omega))
  refine RoundTrip.ofWord (n := wd) (by exact (by decide : 30 < 232)) (hn ▸ rfl) hlt (fun hw => ?_)
  clear hn
  have e1 : wd % 64 = 33 := RoundTrip.low0 q0 64 1024 rfl
  have e2 : wd / 64 % 1024 = 0 := RoundTrip.inner0 q0 64 1024 1 rfl
  rw [major2 q3]
  rw [decode02, e1]
  change readZextH wd = _
  unfold readZextH
  rw [RoundTrip.field d q2, RoundTrip.field a q1]
  rw [if_pos e2]

theorem RoundTrip.zextW (d : BitVec 5) (a : BitVec 5) : RoundTrip.Statement (.zextW d a) := by
  obtain ⟨wd, hn⟩ : ∃ wd, wd = 134217762 + d.toNat * 2097152 + a.toNat * 65536 := ⟨_, rfl⟩
  obtain ⟨hlt, q0, q1, q2, q3⟩ := layout2 (show 34 < 65536 by decide) a.isLt d.isLt (show 2 < 64 by decide) (hn.trans (by omega))
  refine RoundTrip.ofWord (n := wd) (by exact (by decide : 31 < 232)) (hn ▸ rfl) hlt (fun hw => ?_)
  clear hn
  have e1 : wd % 64 = 34 := RoundTrip.low0 q0 64 1024 rfl
  have e2 : wd / 64 % 1024 = 0 := RoundTrip.inner0 q0 64 1024 1 rfl
  rw [major2 q3]
  rw [decode02, e1]
  change readZextW wd = _
  unfold readZextW
  rw [RoundTrip.field d q2, RoundTrip.field a q1]
  rw [if_pos e2]

theorem layout3 {n x0 x1 x2 x3 x4 x5 : Nat} (h0 : x0 < 64) (h1 : x1 < 32) (h2 : x2 < 32) (h3 : x3 < 32) (h4 : x4 < 32) (h5 : x5 < 64)
    (e : n = x0 + x1 * 64 + x2 * 2048 + x3 * 65536 + x4 * 2097152 + x5 * 67108864) : n < 4294967296 ∧ n % 64 = x0 ∧ n / 64 % 32 = x1 ∧ n / 2048 % 32 = x2 ∧ n / 65536 % 32 = x3 ∧ n / 2097152 % 32 = x4 ∧ n / 67108864 = x5 :=
  ⟨by omega, by omega, by omega, by omega, by omega, by omega, by omega⟩

theorem RoundTrip.sel (d : BitVec 5) (a : BitVec 5) (b : BitVec 5) (c : BitVec 5) : RoundTrip.Statement (.sel d a b c) := by
  obtain ⟨wd, hn⟩ : ∃ wd, wd = 134217764 + d.toNat * 2097152 + a.toNat * 65536 + b.toNat * 2048 + c.toNat * 64 := ⟨_, rfl⟩
  obtain ⟨hlt, q0, q1, q2, q3, q4, q5⟩ := layout3 (show 36 < 64 by decide) c.isLt b.isLt a.isLt d.isLt (show 2 < 64 by decide) (hn.trans (by omega))
  refine RoundTrip.ofWord (n := wd) (by exact (by decide : 32 < 232)) (hn ▸ rfl) hlt (fun hw => ?_)
  clear hn
  rw [major2 q5]
  rw [decode02, q0]
  change readSel wd = _
  unfold readSel
  rw [RoundTrip.field d q4, RoundTrip.field a q3, RoundTrip.field b q2, RoundTrip.field c q1]

theorem RoundTrip.addi (d : BitVec 5) (a : BitVec 5) (i : BitVec 16) : RoundTrip.Statement (.addi d a i) := by
  obtain ⟨wd, hn⟩ : ∃ wd, wd = 201326592 + d.toNat * 2097152 + a.toNat * 65536 + i.toNat := ⟨_, rfl⟩
  obtain ⟨hlt, q0, q1, q2, q3⟩ := layout2 i.isLt a.isLt d.isLt (show 3 < 64 by decide) (hn.trans (by omega))
  refine RoundTrip.ofWord (n := wd) (by exact (by decide : 33 < 232)) (hn ▸ rfl) hlt (fun hw => ?_)
  clear hn
  rw [major3 q3]
  unfold readAddi
  rw [RoundTrip.field d q2, RoundTrip.field a q1, RoundTrip.field i q0]

theorem RoundTrip.andi (d : BitVec 5) (a : BitVec 5) (i : BitVec 16) : RoundTrip.Statement (.andi d a i) := by
  obtain ⟨wd, hn⟩ : ∃ wd, wd = 268435456 + d.toNat * 2097152 + a.toNat * 65536 + i.toNat := ⟨_, rfl⟩
  obtain ⟨hlt, q0, q1, q2, q3⟩ := layout2 i.isLt a.isLt d.isLt (show 4 < 64 by decide) (hn.trans (by omega))
  refine RoundTrip.ofWord (n := wd) (by exact (by decide : 34 < 232)) (hn ▸ rfl) hlt (fun hw => ?_)
  clear hn
  rw [major4 q3]
  unfold readAndi
  rw [RoundTrip.field d q2, RoundTrip.field a q1, RoundTrip.field i q0]

theorem RoundTrip.ori (d : BitVec 5) (a : BitVec 5) (i : BitVec 16) : RoundTrip.Statement (.ori d a i) := by
  obtain ⟨wd, hn⟩ : ∃ wd, wd = 335544320 + d.toNat * 2097152 + a.toNat * 65536 + i.toNat := ⟨_, rfl⟩
  obtain ⟨hlt, q0, q1, q2, q3⟩ := layout2 i.isLt a.isLt d.isLt (show 5 < 64 by decide) (hn.trans (by omega))
  refine RoundTrip.ofWord (n := wd) (by exact (by decide : 35 < 232)) (hn ▸ rfl) hlt (fun hw => ?_)
  clear hn
  rw [major5 q3]
  unfold readOri
  rw [RoundTrip.field d q2, RoundTrip.field a q1, RoundTrip.field i q0]

theorem RoundTrip.xori (d : BitVec 5) (a : BitVec 5) (i : BitVec 16) : RoundTrip.Statement (.xori d a i) := by
  obtain ⟨wd, hn⟩ : ∃ wd, wd = 402653184 + d.toNat * 2097152 + a.toNat * 65536 + i.toNat := ⟨_, rfl⟩
  obtain ⟨hlt, q0, q1, q2, q3⟩ := layout2 i.isLt a.isLt d.isLt (show 6 < 64 by decide) (hn.trans (by omega))
  refine RoundTrip.ofWord (n := wd) (by exact (by decide : 36 < 232)) (hn ▸ rfl) hlt (fun hw => ?_)
  clear hn
  rw [major6 q3]
  unfold readXori
  rw [RoundTrip.field d q2, RoundTrip.field a q1, RoundTrip.field i q0]

theorem RoundTrip.slti (d : BitVec 5) (a : BitVec 5) (i : BitVec 16) : RoundTrip.Statement (.slti d a i) := by
  obtain ⟨wd, hn⟩ : ∃ wd, wd = 469762048 + d.toNat * 2097152 + a.toNat * 65536 + i.toNat := ⟨_, rfl⟩
  obtain ⟨hlt, q0, q1, q2, q3⟩ := layout2 i.isLt a.isLt d.isLt (show 7 < 64 by decide) (hn.trans (by omega))
  refine RoundTrip.ofWord (n := wd) (by exact (by decide : 37 < 232)) (hn ▸ rfl) hlt (fun hw => ?_)
  clear hn
  rw [major7 q3]
  unfold readSlti
  rw [RoundTrip.field d q2, RoundTrip.field a q1, RoundTrip.field i q0]

theorem RoundTrip.sltin (d : BitVec 5) (a : BitVec 5) (i : BitVec 16) : RoundTrip.Statement (.sltin d a i) := by
  obtain ⟨wd, hn⟩ : ∃ wd, wd = 536870912 + d.toNat * 2097152 + a.toNat * 65536 + i.toNat := ⟨_, rfl⟩
  obtain ⟨hlt, q0, q1, q2, q3⟩ := layout2 i.isLt a.isLt d.isLt (show 8 < 64 by decide) (hn.trans (by omega))
  refine RoundTrip.ofWord (n := wd) (by exact (by decide : 38 < 232)) (hn ▸ rfl) hlt (fun hw => ?_)
  clear hn
  rw [major8 q3]
  unfold readSltin
  rw [RoundTrip.field d q2, RoundTrip.field a q1, RoundTrip.field i q0]

theorem layout4 {n x0 x1 x2 x3 x4 : Nat} (h0 : x0 < 64) (h1 : x1 < 1024) (h2 : x2 < 32) (h3 : x3 < 32) (h4 : x4 < 64)
    (e : n = x0 + x1 * 64 + x2 * 65536 + x3 * 2097152 + x4 * 67108864) : n < 4294967296 ∧ n % 64 = x0 ∧ n / 64 % 1024 = x1 ∧ n / 65536 % 32 = x2 ∧ n / 2097152 % 32 = x3 ∧ n / 67108864 = x4 :=
  ⟨by omega, by omega, by omega, by omega, by omega, by omega⟩

theorem RoundTrip.slli (d : BitVec 5) (a : BitVec 5) (s : BitVec 6) : RoundTrip.Statement (.slli d a s) := by
  obtain ⟨wd, hn⟩ : ∃ wd, wd = 603979776 + d.toNat * 2097152 + a.toNat * 65536 + s.toNat := ⟨_, rfl⟩
  obtain ⟨hlt, q0, q1, q2, q3, q4⟩ := layout4 s.isLt (show 0 < 1024 by decide) a.isLt d.isLt (show 9 < 64 by decide) (hn.trans (by omega))
  refine RoundTrip.ofWord (n := wd) (by exact (by decide : 39 < 232)) (hn ▸ rfl) hlt (fun hw => ?_)
  clear hn
  have e1 : wd / 64 % 4 = 0 := RoundTrip.inner q1 1 4 256 rfl
  have e2 : wd / 256 % 256 = 0 := RoundTrip.inner q1 4 256 1 rfl
  rw [major9 q4]
  rw [decode09, e1]
  change readSlli wd = _
  unfold readSlli
  rw [RoundTrip.field d q3, RoundTrip.field a q2, RoundTrip.field s q0]
  rw [if_pos e2]

theorem RoundTrip.srli (d : BitVec 5) (a : BitVec 5) (s : BitVec 6) : RoundTrip.Statement (.srli d a s) := by
  obtain ⟨wd, hn⟩ : ∃ wd, wd = 603979840 + d.toNat * 2097152 + a.toNat * 65536 + s.toNat := ⟨_, rfl⟩
  obtain ⟨hlt, q0, q1, q2, q3, q4⟩ := layout4 s.isLt (show 1 < 1024 by decide) a.isLt d.isLt (show 9 < 64 by decide) (hn.trans (by omega))
  refine RoundTrip.ofWord (n := wd) (by exact (by decide : 40 < 232)) (hn ▸ rfl) hlt (fun hw => ?_)
  clear hn
  have e1 : wd / 64 % 4 = 1 := RoundTrip.inner q1 1 4 256 rfl
  have e2 : wd / 256 % 256 = 0 := RoundTrip.inner q1 4 256 1 rfl
  rw [major9 q4]
  rw [decode09, e1]
  change readSrli wd = _
  unfold readSrli
  rw [RoundTrip.field d q3, RoundTrip.field a q2, RoundTrip.field s q0]
  rw [if_pos e2]

theorem RoundTrip.srai (d : BitVec 5) (a : BitVec 5) (s : BitVec 6) : RoundTrip.Statement (.srai d a s) := by
  obtain ⟨wd, hn⟩ : ∃ wd, wd = 603979904 + d.toNat * 2097152 + a.toNat * 65536 + s.toNat := ⟨_, rfl⟩
  obtain ⟨hlt, q0, q1, q2, q3, q4⟩ := layout4 s.isLt (show 2 < 1024 by decide) a.isLt d.isLt (show 9 < 64 by decide) (hn.trans (by omega))
  refine RoundTrip.ofWord (n := wd) (by exact (by decide : 41 < 232)) (hn ▸ rfl) hlt (fun hw => ?_)
  clear hn
  have e1 : wd / 64 % 4 = 2 := RoundTrip.inner q1 1 4 256 rfl
  have e2 : wd / 256 % 256 = 0 := RoundTrip.inner q1 4 256 1 rfl
  rw [major9 q4]
  rw [decode09, e1]
  change readSrai wd = _
  unfold readSrai
  rw [RoundTrip.field d q3, RoundTrip.field a q2, RoundTrip.field s q0]
  rw [if_pos e2]

theorem RoundTrip.lhi (d : BitVec 5) (i : BitVec 16) : RoundTrip.Statement (.lhi d i) := by
  obtain ⟨wd, hn⟩ : ∃ wd, wd = 671088640 + d.toNat * 2097152 + i.toNat := ⟨_, rfl⟩
  obtain ⟨hlt, q0, q1, q2, q3⟩ := layout2 i.isLt (show 0 < 32 by decide) d.isLt (show 10 < 64 by decide) (hn.trans (by omega))
  refine RoundTrip.ofWord (n := wd) (by exact (by decide : 42 < 232)) (hn ▸ rfl) hlt (fun hw => ?_)
  clear hn
  rw [major10 q3]
  unfold readLhi
  rw [RoundTrip.field d q2, RoundTrip.field i q0]
  rw [if_pos q1]

theorem RoundTrip.addpc (d : BitVec 5) (i : BitVec 16) : RoundTrip.Statement (.addpc d i) := by
  obtain ⟨wd, hn⟩ : ∃ wd, wd = 738197504 + d.toNat * 2097152 + i.toNat := ⟨_, rfl⟩
  obtain ⟨hlt, q0, q1, q2, q3⟩ := layout2 i.isLt (show 0 < 32 by decide) d.isLt (show 11 < 64 by decide) (hn.trans (by omega))
  refine RoundTrip.ofWord (n := wd) (by exact (by decide : 43 < 232)) (hn ▸ rfl) hlt (fun hw => ?_)
  clear hn
  rw [major11 q3]
  unfold readAddpc
  rw [RoundTrip.field d q2, RoundTrip.field i q0]
  rw [if_pos q1]

theorem layout5 {n x0 x1 x2 x3 x4 x5 x6 x7 : Nat} (h0 : x0 < 2048) (h1 : x1 < 2) (h2 : x2 < 2) (h3 : x3 < 2) (h4 : x4 < 4) (h5 : x5 < 32) (h6 : x6 < 32) (h7 : x7 < 64)
    (e : n = x0 + x1 * 2048 + x2 * 4096 + x3 * 8192 + x4 * 16384 + x5 * 65536 + x6 * 2097152 + x7 * 67108864) : n < 4294967296 ∧ n % 2048 = x0 ∧ n / 2048 % 2 = x1 ∧ n / 4096 % 2 = x2 ∧ n / 8192 % 2 = x3 ∧ n / 16384 % 4 = x4 ∧ n / 65536 % 32 = x5 ∧ n / 2097152 % 32 = x6 ∧ n / 67108864 = x7 :=
  ⟨by omega, by omega, by omega, by omega, by omega, by omega, by omega, by omega, by omega⟩

theorem RoundTrip.ld (d : BitVec 5) (b : BitVec 5) (s : BitVec 2) (n : BitVec 1) (q : BitVec 1) (f : BitVec 11) : RoundTrip.Statement (.ld d b s n q f) := by
  obtain ⟨wd, hn⟩ : ∃ wd, wd = 805306368 + d.toNat * 2097152 + b.toNat * 65536 + s.toNat * 16384 + n.toNat * 8192 + q.toNat * 2048 + f.toNat := ⟨_, rfl⟩
  obtain ⟨hlt, q0, q1, q2, q3, q4, q5, q6, q7⟩ := layout5 f.isLt q.isLt (show 0 < 2 by decide) n.isLt s.isLt b.isLt d.isLt (show 12 < 64 by decide) (hn.trans (by omega))
  refine RoundTrip.ofWord (n := wd) (by exact (by decide : 44 < 232)) (hn ▸ rfl) hlt (fun hw => ?_)
  clear hn
  replace hw : ¬(s.toNat = 3 ∧ n.toNat = 1) := of_decide_eq_true hw
  rw [major12 q7]
  unfold readLd
  rw [RoundTrip.field d q6, RoundTrip.field b q5, RoundTrip.field s q4, RoundTrip.field n q3, RoundTrip.field q q1, RoundTrip.field f q0]
  have hd := d.isLt
  have hb := b.isLt
  have hs := s.isLt
  have hn := n.isLt
  have hq := q.isLt
  have hf := f.isLt
  rw [q2, q4, q3]
  rw [if_pos (by omega)]

theorem RoundTrip.st (s : BitVec 5) (b : BitVec 5) (z : BitVec 2) (q : BitVec 1) (f : BitVec 11) : RoundTrip.Statement (.st s b z q f) := by
  obtain ⟨wd, hn⟩ : ∃ wd, wd = 872415232 + s.toNat * 2097152 + b.toNat * 65536 + z.toNat * 16384 + q.toNat * 4096 + f.toNat := ⟨_, rfl⟩
  obtain ⟨hlt, q0, q1, q2, q3, q4, q5, q6, q7⟩ := layout5 f.isLt (show 0 < 2 by decide) q.isLt (show 0 < 2 by decide) z.isLt b.isLt s.isLt (show 13 < 64 by decide) (hn.trans (by omega))
  refine RoundTrip.ofWord (n := wd) (by exact (by decide : 45 < 232)) (hn ▸ rfl) hlt (fun hw => ?_)
  clear hn
  rw [major13 q7]
  unfold readSt
  rw [RoundTrip.field s q6, RoundTrip.field b q5, RoundTrip.field z q4, RoundTrip.field q q2, RoundTrip.field f q0]
  rw [if_pos ⟨q1, q3⟩]

theorem layout6 {n x0 x1 x2 x3 x4 x5 x6 x7 : Nat} (h0 : x0 < 16) (h1 : x1 < 4) (h2 : x2 < 2) (h3 : x3 < 16) (h4 : x4 < 32) (h5 : x5 < 32) (h6 : x6 < 32) (h7 : x7 < 64)
    (e : n = x0 + x1 * 16 + x2 * 64 + x3 * 128 + x4 * 2048 + x5 * 65536 + x6 * 2097152 + x7 * 67108864) : n < 4294967296 ∧ n % 16 = x0 ∧ n / 16 % 4 = x1 ∧ n / 64 % 2 = x2 ∧ n / 128 % 16 = x3 ∧ n / 2048 % 32 = x4 ∧ n / 65536 % 32 = x5 ∧ n / 2097152 % 32 = x6 ∧ n / 67108864 = x7 :=
  ⟨by omega, by omega, by omega, by omega, by omega, by omega, by omega, by omega, by omega⟩

theorem RoundTrip.amoadd (d : BitVec 5) (a : BitVec 5) (b : BitVec 5) (z : BitVec 1) (o : BitVec 2) : RoundTrip.Statement (.amoadd d a b z o) := by
  obtain ⟨wd, hn⟩ : ∃ wd, wd = 939524096 + d.toNat * 2097152 + a.toNat * 65536 + b.toNat * 2048 + z.toNat * 64 + o.toNat * 16 := ⟨_, rfl⟩
  obtain ⟨hlt, q0, q1, q2, q3, q4, q5, q6, q7⟩ := layout6 (show 0 < 16 by decide) o.isLt z.isLt (show 0 < 16 by decide) b.isLt a.isLt d.isLt (show 14 < 64 by decide) (hn.trans (by omega))
  refine RoundTrip.ofWord (n := wd) (by exact (by decide : 46 < 232)) (hn ▸ rfl) hlt (fun hw => ?_)
  clear hn
  rw [major14 q7]
  rw [show decode0E wd = readAmoadd wd by simp only [decode0E, q3, q0, reduceIte, ne_eq, not_true_eq_false, and_self, or_self, true_and, Nat.reduceEqDiff]]
  unfold readAmoadd
  rw [RoundTrip.field d q6, RoundTrip.field a q5, RoundTrip.field b q4, RoundTrip.field z q2, RoundTrip.field o q1]

theorem RoundTrip.amoand (d : BitVec 5) (a : BitVec 5) (b : BitVec 5) (z : BitVec 1) (o : BitVec 2) : RoundTrip.Statement (.amoand d a b z o) := by
  obtain ⟨wd, hn⟩ : ∃ wd, wd = 939524097 + d.toNat * 2097152 + a.toNat * 65536 + b.toNat * 2048 + z.toNat * 64 + o.toNat * 16 := ⟨_, rfl⟩
  obtain ⟨hlt, q0, q1, q2, q3, q4, q5, q6, q7⟩ := layout6 (show 1 < 16 by decide) o.isLt z.isLt (show 0 < 16 by decide) b.isLt a.isLt d.isLt (show 14 < 64 by decide) (hn.trans (by omega))
  refine RoundTrip.ofWord (n := wd) (by exact (by decide : 47 < 232)) (hn ▸ rfl) hlt (fun hw => ?_)
  clear hn
  rw [major14 q7]
  rw [show decode0E wd = readAmoand wd by simp only [decode0E, q3, q0, reduceIte, ne_eq, not_true_eq_false, and_self, or_self, true_and, Nat.reduceEqDiff]]
  unfold readAmoand
  rw [RoundTrip.field d q6, RoundTrip.field a q5, RoundTrip.field b q4, RoundTrip.field z q2, RoundTrip.field o q1]

theorem RoundTrip.amoor (d : BitVec 5) (a : BitVec 5) (b : BitVec 5) (z : BitVec 1) (o : BitVec 2) : RoundTrip.Statement (.amoor d a b z o) := by
  obtain ⟨wd, hn⟩ : ∃ wd, wd = 939524098 + d.toNat * 2097152 + a.toNat * 65536 + b.toNat * 2048 + z.toNat * 64 + o.toNat * 16 := ⟨_, rfl⟩
  obtain ⟨hlt, q0, q1, q2, q3, q4, q5, q6, q7⟩ := layout6 (show 2 < 16 by decide) o.isLt z.isLt (show 0 < 16 by decide) b.isLt a.isLt d.isLt (show 14 < 64 by decide) (hn.trans (by omega))
  refine RoundTrip.ofWord (n := wd) (by exact (by decide : 48 < 232)) (hn ▸ rfl) hlt (fun hw => ?_)
  clear hn
  rw [major14 q7]
  rw [show decode0E wd = readAmoor wd by simp only [decode0E, q3, q0, reduceIte, ne_eq, not_true_eq_false, and_self, or_self, true_and, Nat.reduceEqDiff]]
  unfold readAmoor
  rw [RoundTrip.field d q6, RoundTrip.field a q5, RoundTrip.field b q4, RoundTrip.field z q2, RoundTrip.field o q1]

theorem RoundTrip.amoxor (d : BitVec 5) (a : BitVec 5) (b : BitVec 5) (z : BitVec 1) (o : BitVec 2) : RoundTrip.Statement (.amoxor d a b z o) := by
  obtain ⟨wd, hn⟩ : ∃ wd, wd = 939524099 + d.toNat * 2097152 + a.toNat * 65536 + b.toNat * 2048 + z.toNat * 64 + o.toNat * 16 := ⟨_, rfl⟩
  obtain ⟨hlt, q0, q1, q2, q3, q4, q5, q6, q7⟩ := layout6 (show 3 < 16 by decide) o.isLt z.isLt (show 0 < 16 by decide) b.isLt a.isLt d.isLt (show 14 < 64 by decide) (hn.trans (by omega))
  refine RoundTrip.ofWord (n := wd) (by exact (by decide : 49 < 232)) (hn ▸ rfl) hlt (fun hw => ?_)
  clear hn
  rw [major14 q7]
  rw [show decode0E wd = readAmoxor wd by simp only [decode0E, q3, q0, reduceIte, ne_eq, not_true_eq_false, and_self, or_self, true_and, Nat.reduceEqDiff]]
  unfold readAmoxor
  rw [RoundTrip.field d q6, RoundTrip.field a q5, RoundTrip.field b q4, RoundTrip.field z q2, RoundTrip.field o q1]

theorem RoundTrip.amomin (d : BitVec 5) (a : BitVec 5) (b : BitVec 5) (z : BitVec 1) (o : BitVec 2) : RoundTrip.Statement (.amomin d a b z o) := by
  obtain ⟨wd, hn⟩ : ∃ wd, wd = 939524100 + d.toNat * 2097152 + a.toNat * 65536 + b.toNat * 2048 + z.toNat * 64 + o.toNat * 16 := ⟨_, rfl⟩
  obtain ⟨hlt, q0, q1, q2, q3, q4, q5, q6, q7⟩ := layout6 (show 4 < 16 by decide) o.isLt z.isLt (show 0 < 16 by decide) b.isLt a.isLt d.isLt (show 14 < 64 by decide) (hn.trans (by omega))
  refine RoundTrip.ofWord (n := wd) (by exact (by decide : 50 < 232)) (hn ▸ rfl) hlt (fun hw => ?_)
  clear hn
  rw [major14 q7]
  rw [show decode0E wd = readAmomin wd by simp only [decode0E, q3, q0, reduceIte, ne_eq, not_true_eq_false, and_self, or_self, true_and, Nat.reduceEqDiff]]
  unfold readAmomin
  rw [RoundTrip.field d q6, RoundTrip.field a q5, RoundTrip.field b q4, RoundTrip.field z q2, RoundTrip.field o q1]

theorem RoundTrip.amomax (d : BitVec 5) (a : BitVec 5) (b : BitVec 5) (z : BitVec 1) (o : BitVec 2) : RoundTrip.Statement (.amomax d a b z o) := by
  obtain ⟨wd, hn⟩ : ∃ wd, wd = 939524101 + d.toNat * 2097152 + a.toNat * 65536 + b.toNat * 2048 + z.toNat * 64 + o.toNat * 16 := ⟨_, rfl⟩
  obtain ⟨hlt, q0, q1, q2, q3, q4, q5, q6, q7⟩ := layout6 (show 5 < 16 by decide) o.isLt z.isLt (show 0 < 16 by decide) b.isLt a.isLt d.isLt (show 14 < 64 by decide) (hn.trans (by omega))
  refine RoundTrip.ofWord (n := wd) (by exact (by decide : 51 < 232)) (hn ▸ rfl) hlt (fun hw => ?_)
  clear hn
  rw [major14 q7]
  rw [show decode0E wd = readAmomax wd by simp only [decode0E, q3, q0, reduceIte, ne_eq, not_true_eq_false, and_self, or_self, true_and, Nat.reduceEqDiff]]
  unfold readAmomax
  rw [RoundTrip.field d q6, RoundTrip.field a q5, RoundTrip.field b q4, RoundTrip.field z q2, RoundTrip.field o q1]

theorem RoundTrip.amominn (d : BitVec 5) (a : BitVec 5) (b : BitVec 5) (z : BitVec 1) (o : BitVec 2) : RoundTrip.Statement (.amominn d a b z o) := by
  obtain ⟨wd, hn⟩ : ∃ wd, wd = 939524102 + d.toNat * 2097152 + a.toNat * 65536 + b.toNat * 2048 + z.toNat * 64 + o.toNat * 16 := ⟨_, rfl⟩
  obtain ⟨hlt, q0, q1, q2, q3, q4, q5, q6, q7⟩ := layout6 (show 6 < 16 by decide) o.isLt z.isLt (show 0 < 16 by decide) b.isLt a.isLt d.isLt (show 14 < 64 by decide) (hn.trans (by omega))
  refine RoundTrip.ofWord (n := wd) (by exact (by decide : 52 < 232)) (hn ▸ rfl) hlt (fun hw => ?_)
  clear hn
  rw [major14 q7]
  rw [show decode0E wd = readAmominn wd by simp only [decode0E, q3, q0, reduceIte, ne_eq, not_true_eq_false, and_self, or_self, true_and, Nat.reduceEqDiff]]
  unfold readAmominn
  rw [RoundTrip.field d q6, RoundTrip.field a q5, RoundTrip.field b q4, RoundTrip.field z q2, RoundTrip.field o q1]

theorem RoundTrip.amomaxn (d : BitVec 5) (a : BitVec 5) (b : BitVec 5) (z : BitVec 1) (o : BitVec 2) : RoundTrip.Statement (.amomaxn d a b z o) := by
  obtain ⟨wd, hn⟩ : ∃ wd, wd = 939524103 + d.toNat * 2097152 + a.toNat * 65536 + b.toNat * 2048 + z.toNat * 64 + o.toNat * 16 := ⟨_, rfl⟩
  obtain ⟨hlt, q0, q1, q2, q3, q4, q5, q6, q7⟩ := layout6 (show 7 < 16 by decide) o.isLt z.isLt (show 0 < 16 by decide) b.isLt a.isLt d.isLt (show 14 < 64 by decide) (hn.trans (by omega))
  refine RoundTrip.ofWord (n := wd) (by exact (by decide : 53 < 232)) (hn ▸ rfl) hlt (fun hw => ?_)
  clear hn
  rw [major14 q7]
  rw [show decode0E wd = readAmomaxn wd by simp only [decode0E, q3, q0, reduceIte, ne_eq, not_true_eq_false, and_self, or_self, true_and, Nat.reduceEqDiff]]
  unfold readAmomaxn
  rw [RoundTrip.field d q6, RoundTrip.field a q5, RoundTrip.field b q4, RoundTrip.field z q2, RoundTrip.field o q1]

theorem RoundTrip.amoswap (d : BitVec 5) (a : BitVec 5) (b : BitVec 5) (z : BitVec 1) (o : BitVec 2) : RoundTrip.Statement (.amoswap d a b z o) := by
  obtain ⟨wd, hn⟩ : ∃ wd, wd = 939524104 + d.toNat * 2097152 + a.toNat * 65536 + b.toNat * 2048 + z.toNat * 64 + o.toNat * 16 := ⟨_, rfl⟩
  obtain ⟨hlt, q0, q1, q2, q3, q4, q5, q6, q7⟩ := layout6 (show 8 < 16 by decide) o.isLt z.isLt (show 0 < 16 by decide) b.isLt a.isLt d.isLt (show 14 < 64 by decide) (hn.trans (by omega))
  refine RoundTrip.ofWord (n := wd) (by exact (by decide : 54 < 232)) (hn ▸ rfl) hlt (fun hw => ?_)
  clear hn
  rw [major14 q7]
  rw [show decode0E wd = readAmoswap wd by simp only [decode0E, q3, q0, reduceIte, ne_eq, not_true_eq_false, and_self, or_self, true_and, Nat.reduceEqDiff]]
  unfold readAmoswap
  rw [RoundTrip.field d q6, RoundTrip.field a q5, RoundTrip.field b q4, RoundTrip.field z q2, RoundTrip.field o q1]

theorem RoundTrip.cas (d : BitVec 5) (a : BitVec 5) (b : BitVec 5) (z : BitVec 1) (o : BitVec 2) : RoundTrip.Statement (.cas d a b z o) := by
  obtain ⟨wd, hn⟩ : ∃ wd, wd = 939524105 + d.toNat * 2097152 + a.toNat * 65536 + b.toNat * 2048 + z.toNat * 64 + o.toNat * 16 := ⟨_, rfl⟩
  obtain ⟨hlt, q0, q1, q2, q3, q4, q5, q6, q7⟩ := layout6 (show 9 < 16 by decide) o.isLt z.isLt (show 0 < 16 by decide) b.isLt a.isLt d.isLt (show 14 < 64 by decide) (hn.trans (by omega))
  refine RoundTrip.ofWord (n := wd) (by exact (by decide : 55 < 232)) (hn ▸ rfl) hlt (fun hw => ?_)
  clear hn
  rw [major14 q7]
  rw [show decode0E wd = readCas wd by simp only [decode0E, q3, q0, reduceIte, ne_eq, not_true_eq_false, and_self, or_self, true_and, Nat.reduceEqDiff]]
  unfold readCas
  rw [RoundTrip.field d q6, RoundTrip.field a q5, RoundTrip.field b q4, RoundTrip.field z q2, RoundTrip.field o q1]

theorem layout7 {n x0 x1 x2 x3 x4 : Nat} (h0 : x0 < 4) (h1 : x1 < 8) (h2 : x2 < 64) (h3 : x3 < 32768) (h4 : x4 < 64)
    (e : n = x0 + x1 * 4 + x2 * 32 + x3 * 2048 + x4 * 67108864) : n < 4294967296 ∧ n % 4 = x0 ∧ n / 4 % 8 = x1 ∧ n / 32 % 64 = x2 ∧ n / 2048 % 32768 = x3 ∧ n / 67108864 = x4 :=
  ⟨by omega, by omega, by omega, by omega, by omega, by omega⟩

theorem RoundTrip.fence (k : BitVec 6) (s : BitVec 3) : RoundTrip.Statement (.fence k s) := by
  obtain ⟨wd, hn⟩ : ∃ wd, wd = 1006632960 + k.toNat * 32 + s.toNat * 4 := ⟨_, rfl⟩
  obtain ⟨hlt, q0, q1, q2, q3, q4⟩ := layout7 (show 0 < 4 by decide) s.isLt k.isLt (show 0 < 32768 by decide) (show 15 < 64 by decide) (hn.trans (by omega))
  refine RoundTrip.ofWord (n := wd) (by exact (by decide : 56 < 232)) (hn ▸ rfl) hlt (fun hw => ?_)
  clear hn
  replace hw : s.toNat ≤ 4 ∧ k.toNat ≠ 0 := of_decide_eq_true hw
  rw [major15 q4]
  rw [decode0F, q0]
  change readFence wd = _
  unfold readFence
  rw [RoundTrip.field k q2, RoundTrip.field s q1]
  have hk := k.isLt
  have hs := s.isLt
  rw [q1, q2, q3]
  rw [if_pos (by omega)]
  rw [if_pos (by omega)]

theorem layout8 {n x0 x1 x2 x3 x4 x5 x6 x7 x8 : Nat} (h0 : x0 < 8) (h1 : x1 < 2) (h2 : x2 < 2) (h3 : x3 < 32) (h4 : x4 < 2) (h5 : x5 < 32) (h6 : x6 < 32) (h7 : x7 < 32) (h8 : x8 < 64)
    (e : n = x0 + x1 * 8 + x2 * 16 + x3 * 32 + x4 * 1024 + x5 * 2048 + x6 * 65536 + x7 * 2097152 + x8 * 67108864) : n < 4294967296 ∧ n % 8 = x0 ∧ n / 8 % 2 = x1 ∧ n / 16 % 2 = x2 ∧ n / 32 % 32 = x3 ∧ n / 1024 % 2 = x4 ∧ n / 2048 % 32 = x5 ∧ n / 65536 % 32 = x6 ∧ n / 2097152 % 32 = x7 ∧ n / 67108864 = x8 :=
  ⟨by omega, by omega, by omega, by omega, by omega, by omega, by omega, by omega, by omega, by omega⟩

theorem RoundTrip.waiteq (d : BitVec 5) (a : BitVec 5) (b : BitVec 5) (k : BitVec 5) (o : BitVec 1) (z : BitVec 1) : RoundTrip.Statement (.waiteq d a b k o z) := by
  obtain ⟨wd, hn⟩ : ∃ wd, wd = 1006632961 + d.toNat * 2097152 + a.toNat * 65536 + b.toNat * 2048 + k.toNat * 32 + o.toNat * 16 + z.toNat * 8 := ⟨_, rfl⟩
  obtain ⟨hlt, q0, q1, q2, q3, q4, q5, q6, q7, q8⟩ := layout8 (show 1 < 8 by decide) z.isLt o.isLt k.isLt (show 0 < 2 by decide) b.isLt a.isLt d.isLt (show 15 < 64 by decide) (hn.trans (by omega))
  refine RoundTrip.ofWord (n := wd) (by exact (by decide : 57 < 232)) (hn ▸ rfl) hlt (fun hw => ?_)
  clear hn
  have e1 : wd % 4 = 1 := RoundTrip.low0 q0 4 2 rfl
  have e3 : wd / 4 % 2 = 0 := RoundTrip.inner0 q0 4 2 1 rfl
  rw [major15 q8]
  rw [show decode0F wd = readWaiteq wd by simp only [decode0F, e1, q4, e3, reduceIte, ne_eq, not_true_eq_false, and_self, or_self, true_and, Nat.reduceEqDiff]]
  unfold readWaiteq
  rw [RoundTrip.field d q7, RoundTrip.field a q6, RoundTrip.field b q5, RoundTrip.field k q3, RoundTrip.field o q2, RoundTrip.field z q1]

theorem RoundTrip.waitne (d : BitVec 5) (a : BitVec 5) (b : BitVec 5) (k : BitVec 5) (o : BitVec 1) (z : BitVec 1) : RoundTrip.Statement (.waitne d a b k o z) := by
  obtain ⟨wd, hn⟩ : ∃ wd, wd = 1006632965 + d.toNat * 2097152 + a.toNat * 65536 + b.toNat * 2048 + k.toNat * 32 + o.toNat * 16 + z.toNat * 8 := ⟨_, rfl⟩
  obtain ⟨hlt, q0, q1, q2, q3, q4, q5, q6, q7, q8⟩ := layout8 (show 5 < 8 by decide) z.isLt o.isLt k.isLt (show 0 < 2 by decide) b.isLt a.isLt d.isLt (show 15 < 64 by decide) (hn.trans (by omega))
  refine RoundTrip.ofWord (n := wd) (by exact (by decide : 58 < 232)) (hn ▸ rfl) hlt (fun hw => ?_)
  clear hn
  have e1 : wd % 4 = 1 := RoundTrip.low0 q0 4 2 rfl
  have e3 : wd / 4 % 2 = 1 := RoundTrip.inner0 q0 4 2 1 rfl
  rw [major15 q8]
  rw [show decode0F wd = readWaitne wd by simp only [decode0F, e1, q4, e3, reduceIte, ne_eq, not_true_eq_false, and_self, or_self, true_and, Nat.reduceEqDiff]]
  unfold readWaitne
  rw [RoundTrip.field d q7, RoundTrip.field a q6, RoundTrip.field b q5, RoundTrip.field k q3, RoundTrip.field o q2, RoundTrip.field z q1]

theorem layout9 {n x0 x1 : Nat} (h0 : x0 < 67108864) (h1 : x1 < 64)
    (e : n = x0 + x1 * 67108864) : n < 4294967296 ∧ n % 67108864 = x0 ∧ n / 67108864 = x1 :=
  ⟨by omega, by omega, by omega⟩

theorem RoundTrip.gbar : RoundTrip.Statement (.gbar) := by
  obtain ⟨wd, hn⟩ : ∃ wd, wd = 1006632962 := ⟨_, rfl⟩
  obtain ⟨hlt, q0, q1⟩ := layout9 (show 2 < 67108864 by decide) (show 15 < 64 by decide) (hn.trans (by omega))
  refine RoundTrip.ofWord (n := wd) (by exact (by decide : 59 < 232)) (hn ▸ rfl) hlt (fun hw => ?_)
  clear hn
  have e1 : wd % 4 = 2 := RoundTrip.low0 q0 4 16777216 rfl
  have e2 : wd / 1024 % 2 = 0 := RoundTrip.inner0 q0 1024 2 32768 rfl
  have e3 : wd / 4 % 2 = 0 := RoundTrip.inner0 q0 4 2 8388608 rfl
  have e4 : wd / 4 % 512 = 0 := RoundTrip.inner0 q0 4 512 32768 rfl
  have e5 : wd / 2048 % 32768 = 0 := RoundTrip.inner0 q0 2048 32768 1 rfl
  rw [major15 q1]
  rw [show decode0F wd = readGbar wd by simp only [decode0F, e1, e2, e3, e4, reduceIte, ne_eq, not_true_eq_false, and_self, or_self, true_and, Nat.reduceEqDiff]]
  unfold readGbar
  rw [if_pos e5]

theorem layout10 {n x0 x1 x2 : Nat} (h0 : x0 < 2097152) (h1 : x1 < 32) (h2 : x2 < 64)
    (e : n = x0 + x1 * 2097152 + x2 * 67108864) : n < 4294967296 ∧ n % 2097152 = x0 ∧ n / 2097152 % 32 = x1 ∧ n / 67108864 = x2 :=
  ⟨by omega, by omega, by omega, by omega⟩

theorem RoundTrip.gbarA (d : BitVec 5) : RoundTrip.Statement (.gbarA d) := by
  obtain ⟨wd, hn⟩ : ∃ wd, wd = 1006632966 + d.toNat * 2097152 := ⟨_, rfl⟩
  obtain ⟨hlt, q0, q1, q2⟩ := layout10 (show 6 < 2097152 by decide) d.isLt (show 15 < 64 by decide) (hn.trans (by omega))
  refine RoundTrip.ofWord (n := wd) (by exact (by decide : 60 < 232)) (hn ▸ rfl) hlt (fun hw => ?_)
  clear hn
  have e1 : wd % 4 = 2 := RoundTrip.low0 q0 4 524288 rfl
  have e2 : wd / 1024 % 2 = 0 := RoundTrip.inner0 q0 1024 2 1024 rfl
  have e3 : wd / 4 % 2 = 1 := RoundTrip.inner0 q0 4 2 262144 rfl
  have e4 : wd / 4 % 512 = 1 := RoundTrip.inner0 q0 4 512 1024 rfl
  have e5 : wd / 2048 % 1024 = 0 := RoundTrip.inner0 q0 2048 1024 1 rfl
  rw [major15 q2]
  rw [show decode0F wd = readGbarA wd by simp only [decode0F, e1, e2, e3, e4, reduceIte, ne_eq, not_true_eq_false, and_self, or_self, true_and, Nat.reduceEqDiff]]
  unfold readGbarA
  rw [RoundTrip.field d q1]
  rw [if_pos e5]

theorem RoundTrip.gbarW (d : BitVec 5) (a : BitVec 5) : RoundTrip.Statement (.gbarW d a) := by
  obtain ⟨wd, hn⟩ : ∃ wd, wd = 1006632970 + d.toNat * 2097152 + a.toNat * 65536 := ⟨_, rfl⟩
  obtain ⟨hlt, q0, q1, q2, q3⟩ := layout2 (show 10 < 65536 by decide) a.isLt d.isLt (show 15 < 64 by decide) (hn.trans (by omega))
  refine RoundTrip.ofWord (n := wd) (by exact (by decide : 61 < 232)) (hn ▸ rfl) hlt (fun hw => ?_)
  clear hn
  have e1 : wd % 4 = 2 := RoundTrip.low0 q0 4 16384 rfl
  have e2 : wd / 1024 % 2 = 0 := RoundTrip.inner0 q0 1024 2 32 rfl
  have e3 : wd / 4 % 2 = 0 := RoundTrip.inner0 q0 4 2 8192 rfl
  have e4 : wd / 4 % 512 = 2 := RoundTrip.inner0 q0 4 512 32 rfl
  have e5 : wd / 2048 % 32 = 0 := RoundTrip.inner0 q0 2048 32 1 rfl
  rw [major15 q3]
  rw [show decode0F wd = readGbarW wd by simp only [decode0F, e1, e2, e3, e4, reduceIte, ne_eq, not_true_eq_false, and_self, or_self, true_and, Nat.reduceEqDiff]]
  unfold readGbarW
  rw [RoundTrip.field d q2, RoundTrip.field a q1]
  rw [if_pos e5]

theorem RoundTrip.beq (a : BitVec 5) (b : BitVec 5) (o : BitVec 16) : RoundTrip.Statement (.beq a b o) := by
  obtain ⟨wd, hn⟩ : ∃ wd, wd = 1073741824 + a.toNat * 2097152 + b.toNat * 65536 + o.toNat := ⟨_, rfl⟩
  obtain ⟨hlt, q0, q1, q2, q3⟩ := layout2 o.isLt b.isLt a.isLt (show 16 < 64 by decide) (hn.trans (by omega))
  refine RoundTrip.ofWord (n := wd) (by exact (by decide : 62 < 232)) (hn ▸ rfl) hlt (fun hw => ?_)
  clear hn
  rw [major16 q3]
  unfold readBeq
  rw [RoundTrip.field a q2, RoundTrip.field b q1, RoundTrip.field o q0]

theorem RoundTrip.bne (a : BitVec 5) (b : BitVec 5) (o : BitVec 16) : RoundTrip.Statement (.bne a b o) := by
  obtain ⟨wd, hn⟩ : ∃ wd, wd = 1140850688 + a.toNat * 2097152 + b.toNat * 65536 + o.toNat := ⟨_, rfl⟩
  obtain ⟨hlt, q0, q1, q2, q3⟩ := layout2 o.isLt b.isLt a.isLt (show 17 < 64 by decide) (hn.trans (by omega))
  refine RoundTrip.ofWord (n := wd) (by exact (by decide : 63 < 232)) (hn ▸ rfl) hlt (fun hw => ?_)
  clear hn
  rw [major17 q3]
  unfold readBne
  rw [RoundTrip.field a q2, RoundTrip.field b q1, RoundTrip.field o q0]

theorem RoundTrip.blt (a : BitVec 5) (b : BitVec 5) (o : BitVec 16) : RoundTrip.Statement (.blt a b o) := by
  obtain ⟨wd, hn⟩ : ∃ wd, wd = 1207959552 + a.toNat * 2097152 + b.toNat * 65536 + o.toNat := ⟨_, rfl⟩
  obtain ⟨hlt, q0, q1, q2, q3⟩ := layout2 o.isLt b.isLt a.isLt (show 18 < 64 by decide) (hn.trans (by omega))
  refine RoundTrip.ofWord (n := wd) (by exact (by decide : 64 < 232)) (hn ▸ rfl) hlt (fun hw => ?_)
  clear hn
  rw [major18 q3]
  unfold readBlt
  rw [RoundTrip.field a q2, RoundTrip.field b q1, RoundTrip.field o q0]

theorem RoundTrip.bge (a : BitVec 5) (b : BitVec 5) (o : BitVec 16) : RoundTrip.Statement (.bge a b o) := by
  obtain ⟨wd, hn⟩ : ∃ wd, wd = 1275068416 + a.toNat * 2097152 + b.toNat * 65536 + o.toNat := ⟨_, rfl⟩
  obtain ⟨hlt, q0, q1, q2, q3⟩ := layout2 o.isLt b.isLt a.isLt (show 19 < 64 by decide) (hn.trans (by omega))
  refine RoundTrip.ofWord (n := wd) (by exact (by decide : 65 < 232)) (hn ▸ rfl) hlt (fun hw => ?_)
  clear hn
  rw [major19 q3]
  unfold readBge
  rw [RoundTrip.field a q2, RoundTrip.field b q1, RoundTrip.field o q0]

theorem RoundTrip.bltn (a : BitVec 5) (b : BitVec 5) (o : BitVec 16) : RoundTrip.Statement (.bltn a b o) := by
  obtain ⟨wd, hn⟩ : ∃ wd, wd = 1342177280 + a.toNat * 2097152 + b.toNat * 65536 + o.toNat := ⟨_, rfl⟩
  obtain ⟨hlt, q0, q1, q2, q3⟩ := layout2 o.isLt b.isLt a.isLt (show 20 < 64 by decide) (hn.trans (by omega))
  refine RoundTrip.ofWord (n := wd) (by exact (by decide : 66 < 232)) (hn ▸ rfl) hlt (fun hw => ?_)
  clear hn
  rw [major20 q3]
  unfold readBltn
  rw [RoundTrip.field a q2, RoundTrip.field b q1, RoundTrip.field o q0]

theorem RoundTrip.bgen (a : BitVec 5) (b : BitVec 5) (o : BitVec 16) : RoundTrip.Statement (.bgen a b o) := by
  obtain ⟨wd, hn⟩ : ∃ wd, wd = 1409286144 + a.toNat * 2097152 + b.toNat * 65536 + o.toNat := ⟨_, rfl⟩
  obtain ⟨hlt, q0, q1, q2, q3⟩ := layout2 o.isLt b.isLt a.isLt (show 21 < 64 by decide) (hn.trans (by omega))
  refine RoundTrip.ofWord (n := wd) (by exact (by decide : 67 < 232)) (hn ▸ rfl) hlt (fun hw => ?_)
  clear hn
  rw [major21 q3]
  unfold readBgen
  rw [RoundTrip.field a q2, RoundTrip.field b q1, RoundTrip.field o q0]

theorem RoundTrip.call (o : BitVec 26) : RoundTrip.Statement (.call o) := by
  obtain ⟨wd, hn⟩ : ∃ wd, wd = 1476395008 + o.toNat := ⟨_, rfl⟩
  obtain ⟨hlt, q0, q1⟩ := layout9 o.isLt (show 22 < 64 by decide) (hn.trans (by omega))
  refine RoundTrip.ofWord (n := wd) (by exact (by decide : 68 < 232)) (hn ▸ rfl) hlt (fun hw => ?_)
  clear hn
  rw [major22 q1]
  unfold readCall
  rw [RoundTrip.field o q0]

theorem RoundTrip.jump (o : BitVec 26) : RoundTrip.Statement (.jump o) := by
  obtain ⟨wd, hn⟩ : ∃ wd, wd = 1543503872 + o.toNat := ⟨_, rfl⟩
  obtain ⟨hlt, q0, q1⟩ := layout9 o.isLt (show 23 < 64 by decide) (hn.trans (by omega))
  refine RoundTrip.ofWord (n := wd) (by exact (by decide : 69 < 232)) (hn ▸ rfl) hlt (fun hw => ?_)
  clear hn
  rw [major23 q1]
  unfold readJump
  rw [RoundTrip.field o q0]

theorem RoundTrip.jr (d : BitVec 5) (a : BitVec 5) (i : BitVec 16) : RoundTrip.Statement (.jr d a i) := by
  obtain ⟨wd, hn⟩ : ∃ wd, wd = 1610612736 + d.toNat * 2097152 + a.toNat * 65536 + i.toNat := ⟨_, rfl⟩
  obtain ⟨hlt, q0, q1, q2, q3⟩ := layout2 i.isLt a.isLt d.isLt (show 24 < 64 by decide) (hn.trans (by omega))
  refine RoundTrip.ofWord (n := wd) (by exact (by decide : 70 < 232)) (hn ▸ rfl) hlt (fun hw => ?_)
  clear hn
  rw [major24 q3]
  unfold readJr
  rw [RoundTrip.field d q2, RoundTrip.field a q1, RoundTrip.field i q0]

theorem layout11 {n x0 x1 x2 x3 : Nat} (h0 : x0 < 16) (h1 : x1 < 4096) (h2 : x2 < 1024) (h3 : x3 < 64)
    (e : n = x0 + x1 * 16 + x2 * 65536 + x3 * 67108864) : n < 4294967296 ∧ n % 16 = x0 ∧ n / 16 % 4096 = x1 ∧ n / 65536 % 1024 = x2 ∧ n / 67108864 = x3 :=
  ⟨by omega, by omega, by omega, by omega, by omega⟩

theorem RoundTrip.sysc (i : BitVec 12) : RoundTrip.Statement (.sysc i) := by
  obtain ⟨wd, hn⟩ : ∃ wd, wd = 1677721600 + i.toNat * 16 := ⟨_, rfl⟩
  obtain ⟨hlt, q0, q1, q2, q3⟩ := layout11 (show 0 < 16 by decide) i.isLt (show 0 < 1024 by decide) (show 25 < 64 by decide) (hn.trans (by omega))
  refine RoundTrip.ofWord (n := wd) (by exact (by decide : 71 < 232)) (hn ▸ rfl) hlt (fun hw => ?_)
  clear hn
  rw [major25 q3]
  rw [decode19, q0]
  change readSysc wd = _
  unfold readSysc
  rw [RoundTrip.field i q1]
  rw [if_pos q2]

theorem RoundTrip.brk (i : BitVec 12) : RoundTrip.Statement (.brk i) := by
  obtain ⟨wd, hn⟩ : ∃ wd, wd = 1677721601 + i.toNat * 16 := ⟨_, rfl⟩
  obtain ⟨hlt, q0, q1, q2, q3⟩ := layout11 (show 1 < 16 by decide) i.isLt (show 0 < 1024 by decide) (show 25 < 64 by decide) (hn.trans (by omega))
  refine RoundTrip.ofWord (n := wd) (by exact (by decide : 72 < 232)) (hn ▸ rfl) hlt (fun hw => ?_)
  clear hn
  rw [major25 q3]
  rw [decode19, q0]
  change readBrk wd = _
  unfold readBrk
  rw [RoundTrip.field i q1]
  rw [if_pos q2]

theorem RoundTrip.eret : RoundTrip.Statement (.eret) := by
  obtain ⟨wd, hn⟩ : ∃ wd, wd = 1677721602 := ⟨_, rfl⟩
  obtain ⟨hlt, q0, q1⟩ := layout9 (show 2 < 67108864 by decide) (show 25 < 64 by decide) (hn.trans (by omega))
  refine RoundTrip.ofWord (n := wd) (by exact (by decide : 73 < 232)) (hn ▸ rfl) hlt (fun hw => ?_)
  clear hn
  have e1 : wd % 16 = 2 := RoundTrip.low0 q0 16 4194304 rfl
  have e2 : wd / 16 % 4096 = 0 := RoundTrip.inner0 q0 16 4096 1024 rfl
  have e3 : wd / 16 % 4194304 = 0 := RoundTrip.inner0 q0 16 4194304 1 rfl
  rw [major25 q1]
  rw [decode19, e1]
  change readEret wd = _
  unfold readEret
  rw [if_pos e3]

theorem RoundTrip.idle (a : BitVec 5) : RoundTrip.Statement (.idle a) := by
  obtain ⟨wd, hn⟩ : ∃ wd, wd = 1677721603 + a.toNat * 65536 := ⟨_, rfl⟩
  obtain ⟨hlt, q0, q1, q2, q3⟩ := layout2 (show 3 < 65536 by decide) a.isLt (show 0 < 32 by decide) (show 25 < 64 by decide) (hn.trans (by omega))
  refine RoundTrip.ofWord (n := wd) (by exact (by decide : 74 < 232)) (hn ▸ rfl) hlt (fun hw => ?_)
  clear hn
  have e1 : wd % 16 = 3 := RoundTrip.low0 q0 16 4096 rfl
  have e2 : wd / 16 % 4096 = 0 := RoundTrip.inner0 q0 16 4096 1 rfl
  rw [major25 q3]
  rw [decode19, e1]
  change readIdle wd = _
  unfold readIdle
  rw [RoundTrip.field a q1]
  rw [if_pos ⟨e2, q2⟩]

theorem RoundTrip.yield : RoundTrip.Statement (.yield) := by
  obtain ⟨wd, hn⟩ : ∃ wd, wd = 1677721604 := ⟨_, rfl⟩
  obtain ⟨hlt, q0, q1⟩ := layout9 (show 4 < 67108864 by decide) (show 25 < 64 by decide) (hn.trans (by omega))
  refine RoundTrip.ofWord (n := wd) (by exact (by decide : 75 < 232)) (hn ▸ rfl) hlt (fun hw => ?_)
  clear hn
  have e1 : wd % 16 = 4 := RoundTrip.low0 q0 16 4194304 rfl
  have e2 : wd / 16 % 4096 = 0 := RoundTrip.inner0 q0 16 4096 1024 rfl
  have e3 : wd / 16 % 4194304 = 0 := RoundTrip.inner0 q0 16 4194304 1 rfl
  rw [major25 q1]
  rw [decode19, e1]
  change readYield wd = _
  unfold readYield
  rw [if_pos e3]

theorem RoundTrip.stop : RoundTrip.Statement (.stop) := by
  obtain ⟨wd, hn⟩ : ∃ wd, wd = 1677721605 := ⟨_, rfl⟩
  obtain ⟨hlt, q0, q1⟩ := layout9 (show 5 < 67108864 by decide) (show 25 < 64 by decide) (hn.trans (by omega))
  refine RoundTrip.ofWord (n := wd) (by exact (by decide : 76 < 232)) (hn ▸ rfl) hlt (fun hw => ?_)
  clear hn
  have e1 : wd % 16 = 5 := RoundTrip.low0 q0 16 4194304 rfl
  have e2 : wd / 16 % 4096 = 0 := RoundTrip.inner0 q0 16 4096 1024 rfl
  have e3 : wd / 16 % 4194304 = 0 := RoundTrip.inner0 q0 16 4194304 1 rfl
  rw [major25 q1]
  rw [decode19, e1]
  change readStop wd = _
  unfold readStop
  rw [if_pos e3]

theorem layout12 {n x0 x1 x2 x3 x4 x5 : Nat} (h0 : x0 < 16) (h1 : x1 < 64) (h2 : x2 < 64) (h3 : x3 < 32) (h4 : x4 < 32) (h5 : x5 < 64)
    (e : n = x0 + x1 * 16 + x2 * 1024 + x3 * 65536 + x4 * 2097152 + x5 * 67108864) : n < 4294967296 ∧ n % 16 = x0 ∧ n / 16 % 64 = x1 ∧ n / 1024 % 64 = x2 ∧ n / 65536 % 32 = x3 ∧ n / 2097152 % 32 = x4 ∧ n / 67108864 = x5 :=
  ⟨by omega, by omega, by omega, by omega, by omega, by omega, by omega⟩

theorem RoundTrip.spawn (d : BitVec 5) (a : BitVec 5) (q : BitVec 6) : RoundTrip.Statement (.spawn d a q) := by
  obtain ⟨wd, hn⟩ : ∃ wd, wd = 1677721606 + d.toNat * 2097152 + a.toNat * 65536 + q.toNat * 16 := ⟨_, rfl⟩
  obtain ⟨hlt, q0, q1, q2, q3, q4, q5⟩ := layout12 (show 6 < 16 by decide) q.isLt (show 0 < 64 by decide) a.isLt d.isLt (show 25 < 64 by decide) (hn.trans (by omega))
  refine RoundTrip.ofWord (n := wd) (by exact (by decide : 77 < 232)) (hn ▸ rfl) hlt (fun hw => ?_)
  clear hn
  rw [major25 q5]
  rw [decode19, q0]
  change readSpawn wd = _
  unfold readSpawn
  rw [RoundTrip.field d q4, RoundTrip.field a q3, RoundTrip.field q q1]
  rw [if_pos q2]

theorem RoundTrip.iflush : RoundTrip.Statement (.iflush) := by
  obtain ⟨wd, hn⟩ : ∃ wd, wd = 1677721607 := ⟨_, rfl⟩
  obtain ⟨hlt, q0, q1⟩ := layout9 (show 7 < 67108864 by decide) (show 25 < 64 by decide) (hn.trans (by omega))
  refine RoundTrip.ofWord (n := wd) (by exact (by decide : 78 < 232)) (hn ▸ rfl) hlt (fun hw => ?_)
  clear hn
  have e1 : wd % 16 = 7 := RoundTrip.low0 q0 16 4194304 rfl
  have e2 : wd / 16 % 4096 = 0 := RoundTrip.inner0 q0 16 4096 1024 rfl
  have e3 : wd / 16 % 4194304 = 0 := RoundTrip.inner0 q0 16 4194304 1 rfl
  rw [major25 q1]
  rw [decode19, e1]
  change readIflush wd = _
  unfold readIflush
  rw [if_pos e3]

theorem RoundTrip.tinvAll : RoundTrip.Statement (.tinvAll) := by
  obtain ⟨wd, hn⟩ : ∃ wd, wd = 1677721608 := ⟨_, rfl⟩
  obtain ⟨hlt, q0, q1⟩ := layout9 (show 8 < 67108864 by decide) (show 25 < 64 by decide) (hn.trans (by omega))
  refine RoundTrip.ofWord (n := wd) (by exact (by decide : 79 < 232)) (hn ▸ rfl) hlt (fun hw => ?_)
  clear hn
  have e1 : wd % 16 = 8 := RoundTrip.low0 q0 16 4194304 rfl
  have e2 : wd / 16 % 4096 = 0 := RoundTrip.inner0 q0 16 4096 1024 rfl
  have e3 : wd / 65536 % 1024 = 0 := RoundTrip.inner0 q0 65536 1024 1 rfl
  rw [major25 q1]
  rw [show decode19 wd = readTinvAll wd by simp only [decode19, e1, e2, reduceIte, ne_eq, not_true_eq_false, and_self, or_self, true_and, Nat.reduceEqDiff]]
  unfold readTinvAll
  rw [if_pos e3]

theorem RoundTrip.tinvAs (d : BitVec 5) : RoundTrip.Statement (.tinvAs d) := by
  obtain ⟨wd, hn⟩ : ∃ wd, wd = 1677721624 + d.toNat * 2097152 := ⟨_, rfl⟩
  obtain ⟨hlt, q0, q1, q2⟩ := layout10 (show 24 < 2097152 by decide) d.isLt (show 25 < 64 by decide) (hn.trans (by omega))
  refine RoundTrip.ofWord (n := wd) (by exact (by decide : 80 < 232)) (hn ▸ rfl) hlt (fun hw => ?_)
  clear hn
  have e1 : wd % 16 = 8 := RoundTrip.low0 q0 16 131072 rfl
  have e2 : wd / 16 % 4096 = 1 := RoundTrip.inner0 q0 16 4096 32 rfl
  have e3 : wd / 65536 % 32 = 0 := RoundTrip.inner0 q0 65536 32 1 rfl
  rw [major25 q2]
  rw [show decode19 wd = readTinvAs wd by simp only [decode19, e1, e2, reduceIte, ne_eq, not_true_eq_false, and_self, or_self, true_and, Nat.reduceEqDiff]]
  unfold readTinvAs
  rw [RoundTrip.field d q1]
  rw [if_pos e3]

theorem RoundTrip.tinvVa (d : BitVec 5) (a : BitVec 5) : RoundTrip.Statement (.tinvVa d a) := by
  obtain ⟨wd, hn⟩ : ∃ wd, wd = 1677721640 + d.toNat * 2097152 + a.toNat * 65536 := ⟨_, rfl⟩
  obtain ⟨hlt, q0, q1, q2, q3⟩ := layout2 (show 40 < 65536 by decide) a.isLt d.isLt (show 25 < 64 by decide) (hn.trans (by omega))
  refine RoundTrip.ofWord (n := wd) (by exact (by decide : 81 < 232)) (hn ▸ rfl) hlt (fun hw => ?_)
  clear hn
  have e1 : wd % 16 = 8 := RoundTrip.low0 q0 16 4096 rfl
  have e2 : wd / 16 % 4096 = 2 := RoundTrip.inner0 q0 16 4096 1 rfl
  rw [major25 q3]
  rw [show decode19 wd = readTinvVa wd by simp only [decode19, e1, e2, reduceIte, ne_eq, not_true_eq_false, and_self, or_self, true_and, Nat.reduceEqDiff]]
  unfold readTinvVa
  rw [RoundTrip.field d q2, RoundTrip.field a q1]

theorem layout13 {n x0 x1 x2 x3 x4 : Nat} (h0 : x0 < 16) (h1 : x1 < 4096) (h2 : x2 < 32) (h3 : x3 < 32) (h4 : x4 < 64)
    (e : n = x0 + x1 * 16 + x2 * 65536 + x3 * 2097152 + x4 * 67108864) : n < 4294967296 ∧ n % 16 = x0 ∧ n / 16 % 4096 = x1 ∧ n / 65536 % 32 = x2 ∧ n / 2097152 % 32 = x3 ∧ n / 67108864 = x4 :=
  ⟨by omega, by omega, by omega, by omega, by omega, by omega⟩

theorem RoundTrip.crd (d : BitVec 5) (c : BitVec 12) : RoundTrip.Statement (.crd d c) := by
  obtain ⟨wd, hn⟩ : ∃ wd, wd = 1744830464 + d.toNat * 2097152 + c.toNat * 16 := ⟨_, rfl⟩
  obtain ⟨hlt, q0, q1, q2, q3, q4⟩ := layout13 (show 0 < 16 by decide) c.isLt (show 0 < 32 by decide) d.isLt (show 26 < 64 by decide) (hn.trans (by omega))
  refine RoundTrip.ofWord (n := wd) (by exact (by decide : 82 < 232)) (hn ▸ rfl) hlt (fun hw => ?_)
  clear hn
  rw [major26 q4]
  rw [decode1A, q0]
  change readCrd wd = _
  unfold readCrd
  rw [RoundTrip.field d q3, RoundTrip.field c q1]
  rw [if_pos q2]

theorem RoundTrip.cwr (d : BitVec 5) (a : BitVec 5) (c : BitVec 12) : RoundTrip.Statement (.cwr d a c) := by
  obtain ⟨wd, hn⟩ : ∃ wd, wd = 1744830465 + d.toNat * 2097152 + a.toNat * 65536 + c.toNat * 16 := ⟨_, rfl⟩
  obtain ⟨hlt, q0, q1, q2, q3, q4⟩ := layout13 (show 1 < 16 by decide) c.isLt a.isLt d.isLt (show 26 < 64 by decide) (hn.trans (by omega))
  refine RoundTrip.ofWord (n := wd) (by exact (by decide : 83 < 232)) (hn ▸ rfl) hlt (fun hw => ?_)
  clear hn
  rw [major26 q4]
  rw [decode1A, q0]
  change readCwr wd = _
  unfold readCwr
  rw [RoundTrip.field d q3, RoundTrip.field a q2, RoundTrip.field c q1]

theorem RoundTrip.cset (d : BitVec 5) (a : BitVec 5) (c : BitVec 12) : RoundTrip.Statement (.cset d a c) := by
  obtain ⟨wd, hn⟩ : ∃ wd, wd = 1744830466 + d.toNat * 2097152 + a.toNat * 65536 + c.toNat * 16 := ⟨_, rfl⟩
  obtain ⟨hlt, q0, q1, q2, q3, q4⟩ := layout13 (show 2 < 16 by decide) c.isLt a.isLt d.isLt (show 26 < 64 by decide) (hn.trans (by omega))
  refine RoundTrip.ofWord (n := wd) (by exact (by decide : 84 < 232)) (hn ▸ rfl) hlt (fun hw => ?_)
  clear hn
  rw [major26 q4]
  rw [decode1A, q0]
  change readCset wd = _
  unfold readCset
  rw [RoundTrip.field d q3, RoundTrip.field a q2, RoundTrip.field c q1]

theorem RoundTrip.cclr (d : BitVec 5) (a : BitVec 5) (c : BitVec 12) : RoundTrip.Statement (.cclr d a c) := by
  obtain ⟨wd, hn⟩ : ∃ wd, wd = 1744830467 + d.toNat * 2097152 + a.toNat * 65536 + c.toNat * 16 := ⟨_, rfl⟩
  obtain ⟨hlt, q0, q1, q2, q3, q4⟩ := layout13 (show 3 < 16 by decide) c.isLt a.isLt d.isLt (show 26 < 64 by decide) (hn.trans (by omega))
  refine RoundTrip.ofWord (n := wd) (by exact (by decide : 85 < 232)) (hn ▸ rfl) hlt (fun hw => ?_)
  clear hn
  rw [major26 q4]
  rw [decode1A, q0]
  change readCclr wd = _
  unfold readCclr
  rw [RoundTrip.field d q3, RoundTrip.field a q2, RoundTrip.field c q1]

theorem RoundTrip.hint (p : BitVec 26) : RoundTrip.Statement (.hint p) := by
  obtain ⟨wd, hn⟩ : ∃ wd, wd = 4227858432 + p.toNat := ⟨_, rfl⟩
  obtain ⟨hlt, q0, q1⟩ := layout9 p.isLt (show 63 < 64 by decide) (hn.trans (by omega))
  refine RoundTrip.ofWord (n := wd) (by exact (by decide : 86 < 232)) (hn ▸ rfl) hlt (fun hw => ?_)
  clear hn
  rw [major63 q1]
  unfold readHint
  rw [RoundTrip.field p q0]

theorem layout14 {n x0 x1 x2 x3 x4 x5 : Nat} (h0 : x0 < 16) (h1 : x1 < 16) (h2 : x2 < 256) (h3 : x3 < 32) (h4 : x4 < 32) (h5 : x5 < 64)
    (e : n = x0 + x1 * 16 + x2 * 256 + x3 * 65536 + x4 * 2097152 + x5 * 67108864) : n < 4294967296 ∧ n % 16 = x0 ∧ n / 16 % 16 = x1 ∧ n / 256 % 256 = x2 ∧ n / 65536 % 32 = x3 ∧ n / 2097152 % 32 = x4 ∧ n / 67108864 = x5 :=
  ⟨by omega, by omega, by omega, by omega, by omega, by omega, by omega⟩

theorem RoundTrip.setvl (d : BitVec 5) (a : BitVec 5) (t : BitVec 4) : RoundTrip.Statement (.setvl d a t) := by
  obtain ⟨wd, hn⟩ : ∃ wd, wd = 2147483648 + d.toNat * 2097152 + a.toNat * 65536 + t.toNat * 16 := ⟨_, rfl⟩
  obtain ⟨hlt, q0, q1, q2, q3, q4, q5⟩ := layout14 (show 0 < 16 by decide) t.isLt (show 0 < 256 by decide) a.isLt d.isLt (show 32 < 64 by decide) (hn.trans (by omega))
  refine RoundTrip.ofWord (n := wd) (by exact (by decide : 87 < 232)) (hn ▸ rfl) hlt (fun hw => ?_)
  clear hn
  replace hw : (t.toNat ≤ 12 ∨ t.toNat = 14) := of_decide_eq_true hw
  rw [major32 q5]
  rw [decode20, q0]
  change readSetvl wd = _
  unfold readSetvl
  rw [RoundTrip.field d q4, RoundTrip.field a q3, RoundTrip.field t q1]
  have hd := d.isLt
  have ha := a.isLt
  have ht := t.isLt
  rw [q2, q1]
  rw [if_pos (by omega)]
  rw [if_pos (by omega)]

theorem RoundTrip.settl (d : BitVec 5) (a : BitVec 5) : RoundTrip.Statement (.settl d a) := by
  obtain ⟨wd, hn⟩ : ∃ wd, wd = 2147483649 + d.toNat * 2097152 + a.toNat * 65536 := ⟨_, rfl⟩
  obtain ⟨hlt, q0, q1, q2, q3⟩ := layout2 (show 1 < 65536 by decide) a.isLt d.isLt (show 32 < 64 by decide) (hn.trans (by omega))
  refine RoundTrip.ofWord (n := wd) (by exact (by decide : 88 < 232)) (hn ▸ rfl) hlt (fun hw => ?_)
  clear hn
  have e1 : wd % 16 = 1 := RoundTrip.low0 q0 16 4096 rfl
  have e2 : wd / 256 % 256 = 0 := RoundTrip.inner0 q0 256 256 1 rfl
  have e3 : wd / 16 % 16 = 0 := RoundTrip.inner0 q0 16 16 256 rfl
  rw [major32 q3]
  rw [decode20, e1]
  change readSettl wd = _
  unfold readSettl
  rw [RoundTrip.field d q2, RoundTrip.field a q1]
  have hd := d.isLt
  have ha := a.isLt
  rw [e2, e3]
  rw [if_pos (by omega)]
  rw [if_pos (by omega)]

theorem RoundTrip.setmf (d : BitVec 5) (a : BitVec 5) : RoundTrip.Statement (.setmf d a) := by
  obtain ⟨wd, hn⟩ : ∃ wd, wd = 2147483650 + d.toNat * 2097152 + a.toNat * 65536 := ⟨_, rfl⟩
  obtain ⟨hlt, q0, q1, q2, q3⟩ := layout2 (show 2 < 65536 by decide) a.isLt d.isLt (show 32 < 64 by decide) (hn.trans (by omega))
  refine RoundTrip.ofWord (n := wd) (by exact (by decide : 89 < 232)) (hn ▸ rfl) hlt (fun hw => ?_)
  clear hn
  have e1 : wd % 16 = 2 := RoundTrip.low0 q0 16 4096 rfl
  have e2 : wd / 256 % 256 = 0 := RoundTrip.inner0 q0 256 256 1 rfl
  have e3 : wd / 16 % 16 = 0 := RoundTrip.inner0 q0 16 16 256 rfl
  rw [major32 q3]
  rw [decode20, e1]
  change readSetmf wd = _
  unfold readSetmf
  rw [RoundTrip.field d q2, RoundTrip.field a q1]
  have hd := d.isLt
  have ha := a.isLt
  rw [e2, e3]
  rw [if_pos (by omega)]
  rw [if_pos (by omega)]

theorem RoundTrip.setrm (d : BitVec 5) (a : BitVec 5) : RoundTrip.Statement (.setrm d a) := by
  obtain ⟨wd, hn⟩ : ∃ wd, wd = 2147483651 + d.toNat * 2097152 + a.toNat * 65536 := ⟨_, rfl⟩
  obtain ⟨hlt, q0, q1, q2, q3⟩ := layout2 (show 3 < 65536 by decide) a.isLt d.isLt (show 32 < 64 by decide) (hn.trans (by omega))
  refine RoundTrip.ofWord (n := wd) (by exact (by decide : 90 < 232)) (hn ▸ rfl) hlt (fun hw => ?_)
  clear hn
  have e1 : wd % 16 = 3 := RoundTrip.low0 q0 16 4096 rfl
  have e2 : wd / 256 % 256 = 0 := RoundTrip.inner0 q0 256 256 1 rfl
  have e3 : wd / 16 % 16 = 0 := RoundTrip.inner0 q0 16 16 256 rfl
  rw [major32 q3]
  rw [decode20, e1]
  change readSetrm wd = _
  unfold readSetrm
  rw [RoundTrip.field d q2, RoundTrip.field a q1]
  have hd := d.isLt
  have ha := a.isLt
  rw [e2, e3]
  rw [if_pos (by omega)]
  rw [if_pos (by omega)]

theorem RoundTrip.vgrant (d : BitVec 5) (a : BitVec 5) : RoundTrip.Statement (.vgrant d a) := by
  obtain ⟨wd, hn⟩ : ∃ wd, wd = 2147483652 + d.toNat * 2097152 + a.toNat * 65536 := ⟨_, rfl⟩
  obtain ⟨hlt, q0, q1, q2, q3⟩ := layout2 (show 4 < 65536 by decide) a.isLt d.isLt (show 32 < 64 by decide) (hn.trans (by omega))
  refine RoundTrip.ofWord (n := wd) (by exact (by decide : 91 < 232)) (hn ▸ rfl) hlt (fun hw => ?_)
  clear hn
  have e1 : wd % 16 = 4 := RoundTrip.low0 q0 16 4096 rfl
  have e2 : wd / 256 % 256 = 0 := RoundTrip.inner0 q0 256 256 1 rfl
  have e3 : wd / 16 % 16 = 0 := RoundTrip.inner0 q0 16 16 256 rfl
  rw [major32 q3]
  rw [decode20, e1]
  change readVgrant wd = _
  unfold readVgrant
  rw [RoundTrip.field d q2, RoundTrip.field a q1]
  have hd := d.isLt
  have ha := a.isLt
  rw [e2, e3]
  rw [if_pos (by omega)]
  rw [if_pos (by omega)]

theorem RoundTrip.vrel : RoundTrip.Statement (.vrel) := by
  obtain ⟨wd, hn⟩ : ∃ wd, wd = 2147483653 := ⟨_, rfl⟩
  obtain ⟨hlt, q0, q1⟩ := layout9 (show 5 < 67108864 by decide) (show 32 < 64 by decide) (hn.trans (by omega))
  refine RoundTrip.ofWord (n := wd) (by exact (by decide : 92 < 232)) (hn ▸ rfl) hlt (fun hw => ?_)
  clear hn
  have e1 : wd % 16 = 5 := RoundTrip.low0 q0 16 4194304 rfl
  have e2 : wd / 256 % 262144 = 0 := RoundTrip.inner0 q0 256 262144 1 rfl
  have e3 : wd / 16 % 16 = 0 := RoundTrip.inner0 q0 16 16 262144 rfl
  rw [major32 q1]
  rw [decode20, e1]
  change readVrel wd = _
  unfold readVrel
  rw [e2, e3]
  rw [if_pos (by omega)]
  rw [if_pos (by omega)]

theorem RoundTrip.vsave (a : BitVec 5) (b : BitVec 5) : RoundTrip.Statement (.vsave a b) := by
  obtain ⟨wd, hn⟩ : ∃ wd, wd = 2147483654 + a.toNat * 65536 + b.toNat * 2048 := ⟨_, rfl⟩
  obtain ⟨hlt, q0, q1, q2, q3, q4⟩ := layout1 (show 6 < 2048 by decide) b.isLt a.isLt (show 0 < 32 by decide) (show 32 < 64 by decide) (hn.trans (by omega))
  refine RoundTrip.ofWord (n := wd) (by exact (by decide : 93 < 232)) (hn ▸ rfl) hlt (fun hw => ?_)
  clear hn
  have e1 : wd % 16 = 6 := RoundTrip.low0 q0 16 128 rfl
  have e2 : wd / 256 % 8 = 0 := RoundTrip.inner0 q0 256 8 1 rfl
  have e4 : wd / 16 % 16 = 0 := RoundTrip.inner0 q0 16 16 8 rfl
  rw [major32 q4]
  rw [decode20, e1]
  change readVsave wd = _
  unfold readVsave
  rw [RoundTrip.field a q2, RoundTrip.field b q1]
  have ha := a.isLt
  have hb := b.isLt
  rw [e2, q3, e4]
  rw [if_pos (by omega)]
  rw [if_pos (by omega)]

theorem RoundTrip.vrst (a : BitVec 5) : RoundTrip.Statement (.vrst a) := by
  obtain ⟨wd, hn⟩ : ∃ wd, wd = 2147483655 + a.toNat * 65536 := ⟨_, rfl⟩
  obtain ⟨hlt, q0, q1, q2, q3⟩ := layout2 (show 7 < 65536 by decide) a.isLt (show 0 < 32 by decide) (show 32 < 64 by decide) (hn.trans (by omega))
  refine RoundTrip.ofWord (n := wd) (by exact (by decide : 94 < 232)) (hn ▸ rfl) hlt (fun hw => ?_)
  clear hn
  have e1 : wd % 16 = 7 := RoundTrip.low0 q0 16 4096 rfl
  have e2 : wd / 256 % 256 = 0 := RoundTrip.inner0 q0 256 256 1 rfl
  have e4 : wd / 16 % 16 = 0 := RoundTrip.inner0 q0 16 16 256 rfl
  rw [major32 q3]
  rw [decode20, e1]
  change readVrst wd = _
  unfold readVrst
  rw [RoundTrip.field a q1]
  have ha := a.isLt
  rw [e2, q2, e4]
  rw [if_pos (by omega)]
  rw [if_pos (by omega)]

theorem layout15 {n x0 x1 x2 x3 x4 x5 x6 : Nat} (h0 : x0 < 16) (h1 : x1 < 16) (h2 : x2 < 8) (h3 : x3 < 32) (h4 : x4 < 32) (h5 : x5 < 32) (h6 : x6 < 64)
    (e : n = x0 + x1 * 16 + x2 * 256 + x3 * 2048 + x4 * 65536 + x5 * 2097152 + x6 * 67108864) : n < 4294967296 ∧ n % 16 = x0 ∧ n / 16 % 16 = x1 ∧ n / 256 % 8 = x2 ∧ n / 2048 % 32 = x3 ∧ n / 65536 % 32 = x4 ∧ n / 2097152 % 32 = x5 ∧ n / 67108864 = x6 :=
  ⟨by omega, by omega, by omega, by omega, by omega, by omega, by omega, by omega⟩

theorem RoundTrip.vaddInt (d : BitVec 5) (a : BitVec 5) (b : BitVec 5) (m : BitVec 3) (t : BitVec 4) : RoundTrip.Statement (.vaddInt d a b m t) := by
  obtain ⟨wd, hn⟩ : ∃ wd, wd = 2214592512 + d.toNat * 2097152 + a.toNat * 65536 + b.toNat * 2048 + m.toNat * 256 + t.toNat * 16 := ⟨_, rfl⟩
  obtain ⟨hlt, q0, q1, q2, q3, q4, q5, q6⟩ := layout15 (show 0 < 16 by decide) t.isLt m.isLt b.isLt a.isLt d.isLt (show 33 < 64 by decide) (hn.trans (by omega))
  refine RoundTrip.ofWord (n := wd) (by exact (by decide : 95 < 232)) (hn ▸ rfl) hlt (fun hw => ?_)
  clear hn
  replace hw : (t.toNat ≤ 7) := of_decide_eq_true hw
  rw [major33 q6]
  rw [decode21, q0]
  change readVaddInt wd = _
  unfold readVaddInt
  rw [RoundTrip.field d q5, RoundTrip.field a q4, RoundTrip.field b q3, RoundTrip.field m q2, RoundTrip.field t q1]
  have hd := d.isLt
  have ha := a.isLt
  have hb := b.isLt
  have hm := m.isLt
  have ht := t.isLt
  rw [q1]
  rw [if_pos (by omega)]

theorem RoundTrip.vsubInt (d : BitVec 5) (a : BitVec 5) (b : BitVec 5) (m : BitVec 3) (t : BitVec 4) : RoundTrip.Statement (.vsubInt d a b m t) := by
  obtain ⟨wd, hn⟩ : ∃ wd, wd = 2214592513 + d.toNat * 2097152 + a.toNat * 65536 + b.toNat * 2048 + m.toNat * 256 + t.toNat * 16 := ⟨_, rfl⟩
  obtain ⟨hlt, q0, q1, q2, q3, q4, q5, q6⟩ := layout15 (show 1 < 16 by decide) t.isLt m.isLt b.isLt a.isLt d.isLt (show 33 < 64 by decide) (hn.trans (by omega))
  refine RoundTrip.ofWord (n := wd) (by exact (by decide : 96 < 232)) (hn ▸ rfl) hlt (fun hw => ?_)
  clear hn
  replace hw : (t.toNat ≤ 7) := of_decide_eq_true hw
  rw [major33 q6]
  rw [decode21, q0]
  change readVsubInt wd = _
  unfold readVsubInt
  rw [RoundTrip.field d q5, RoundTrip.field a q4, RoundTrip.field b q3, RoundTrip.field m q2, RoundTrip.field t q1]
  have hd := d.isLt
  have ha := a.isLt
  have hb := b.isLt
  have hm := m.isLt
  have ht := t.isLt
  rw [q1]
  rw [if_pos (by omega)]

theorem RoundTrip.vmulInt (d : BitVec 5) (a : BitVec 5) (b : BitVec 5) (m : BitVec 3) (t : BitVec 4) : RoundTrip.Statement (.vmulInt d a b m t) := by
  obtain ⟨wd, hn⟩ : ∃ wd, wd = 2214592514 + d.toNat * 2097152 + a.toNat * 65536 + b.toNat * 2048 + m.toNat * 256 + t.toNat * 16 := ⟨_, rfl⟩
  obtain ⟨hlt, q0, q1, q2, q3, q4, q5, q6⟩ := layout15 (show 2 < 16 by decide) t.isLt m.isLt b.isLt a.isLt d.isLt (show 33 < 64 by decide) (hn.trans (by omega))
  refine RoundTrip.ofWord (n := wd) (by exact (by decide : 97 < 232)) (hn ▸ rfl) hlt (fun hw => ?_)
  clear hn
  replace hw : (t.toNat ≤ 7) := of_decide_eq_true hw
  rw [major33 q6]
  rw [decode21, q0]
  change readVmulInt wd = _
  unfold readVmulInt
  rw [RoundTrip.field d q5, RoundTrip.field a q4, RoundTrip.field b q3, RoundTrip.field m q2, RoundTrip.field t q1]
  have hd := d.isLt
  have ha := a.isLt
  have hb := b.isLt
  have hm := m.isLt
  have ht := t.isLt
  rw [q1]
  rw [if_pos (by omega)]

theorem RoundTrip.vmulh (d : BitVec 5) (a : BitVec 5) (b : BitVec 5) (m : BitVec 3) (t : BitVec 4) : RoundTrip.Statement (.vmulh d a b m t) := by
  obtain ⟨wd, hn⟩ : ∃ wd, wd = 2214592515 + d.toNat * 2097152 + a.toNat * 65536 + b.toNat * 2048 + m.toNat * 256 + t.toNat * 16 := ⟨_, rfl⟩
  obtain ⟨hlt, q0, q1, q2, q3, q4, q5, q6⟩ := layout15 (show 3 < 16 by decide) t.isLt m.isLt b.isLt a.isLt d.isLt (show 33 < 64 by decide) (hn.trans (by omega))
  refine RoundTrip.ofWord (n := wd) (by exact (by decide : 98 < 232)) (hn ▸ rfl) hlt (fun hw => ?_)
  clear hn
  replace hw : (t.toNat ≤ 7) := of_decide_eq_true hw
  rw [major33 q6]
  rw [decode21, q0]
  change readVmulh wd = _
  unfold readVmulh
  rw [RoundTrip.field d q5, RoundTrip.field a q4, RoundTrip.field b q3, RoundTrip.field m q2, RoundTrip.field t q1]
  have hd := d.isLt
  have ha := a.isLt
  have hb := b.isLt
  have hm := m.isLt
  have ht := t.isLt
  rw [q1]
  rw [if_pos (by omega)]

theorem RoundTrip.vminInt (d : BitVec 5) (a : BitVec 5) (b : BitVec 5) (m : BitVec 3) (t : BitVec 4) : RoundTrip.Statement (.vminInt d a b m t) := by
  obtain ⟨wd, hn⟩ : ∃ wd, wd = 2214592516 + d.toNat * 2097152 + a.toNat * 65536 + b.toNat * 2048 + m.toNat * 256 + t.toNat * 16 := ⟨_, rfl⟩
  obtain ⟨hlt, q0, q1, q2, q3, q4, q5, q6⟩ := layout15 (show 4 < 16 by decide) t.isLt m.isLt b.isLt a.isLt d.isLt (show 33 < 64 by decide) (hn.trans (by omega))
  refine RoundTrip.ofWord (n := wd) (by exact (by decide : 99 < 232)) (hn ▸ rfl) hlt (fun hw => ?_)
  clear hn
  replace hw : (t.toNat ≤ 7) := of_decide_eq_true hw
  rw [major33 q6]
  rw [decode21, q0]
  change readVminInt wd = _
  unfold readVminInt
  rw [RoundTrip.field d q5, RoundTrip.field a q4, RoundTrip.field b q3, RoundTrip.field m q2, RoundTrip.field t q1]
  have hd := d.isLt
  have ha := a.isLt
  have hb := b.isLt
  have hm := m.isLt
  have ht := t.isLt
  rw [q1]
  rw [if_pos (by omega)]

theorem RoundTrip.vmaxInt (d : BitVec 5) (a : BitVec 5) (b : BitVec 5) (m : BitVec 3) (t : BitVec 4) : RoundTrip.Statement (.vmaxInt d a b m t) := by
  obtain ⟨wd, hn⟩ : ∃ wd, wd = 2214592517 + d.toNat * 2097152 + a.toNat * 65536 + b.toNat * 2048 + m.toNat * 256 + t.toNat * 16 := ⟨_, rfl⟩
  obtain ⟨hlt, q0, q1, q2, q3, q4, q5, q6⟩ := layout15 (show 5 < 16 by decide) t.isLt m.isLt b.isLt a.isLt d.isLt (show 33 < 64 by decide) (hn.trans (by omega))
  refine RoundTrip.ofWord (n := wd) (by exact (by decide : 100 < 232)) (hn ▸ rfl) hlt (fun hw => ?_)
  clear hn
  replace hw : (t.toNat ≤ 7) := of_decide_eq_true hw
  rw [major33 q6]
  rw [decode21, q0]
  change readVmaxInt wd = _
  unfold readVmaxInt
  rw [RoundTrip.field d q5, RoundTrip.field a q4, RoundTrip.field b q3, RoundTrip.field m q2, RoundTrip.field t q1]
  have hd := d.isLt
  have ha := a.isLt
  have hb := b.isLt
  have hm := m.isLt
  have ht := t.isLt
  rw [q1]
  rw [if_pos (by omega)]

theorem RoundTrip.vsatadd (d : BitVec 5) (a : BitVec 5) (b : BitVec 5) (m : BitVec 3) (t : BitVec 4) : RoundTrip.Statement (.vsatadd d a b m t) := by
  obtain ⟨wd, hn⟩ : ∃ wd, wd = 2214592518 + d.toNat * 2097152 + a.toNat * 65536 + b.toNat * 2048 + m.toNat * 256 + t.toNat * 16 := ⟨_, rfl⟩
  obtain ⟨hlt, q0, q1, q2, q3, q4, q5, q6⟩ := layout15 (show 6 < 16 by decide) t.isLt m.isLt b.isLt a.isLt d.isLt (show 33 < 64 by decide) (hn.trans (by omega))
  refine RoundTrip.ofWord (n := wd) (by exact (by decide : 101 < 232)) (hn ▸ rfl) hlt (fun hw => ?_)
  clear hn
  replace hw : (t.toNat ≤ 7) := of_decide_eq_true hw
  rw [major33 q6]
  rw [decode21, q0]
  change readVsatadd wd = _
  unfold readVsatadd
  rw [RoundTrip.field d q5, RoundTrip.field a q4, RoundTrip.field b q3, RoundTrip.field m q2, RoundTrip.field t q1]
  have hd := d.isLt
  have ha := a.isLt
  have hb := b.isLt
  have hm := m.isLt
  have ht := t.isLt
  rw [q1]
  rw [if_pos (by omega)]

theorem RoundTrip.vsatsub (d : BitVec 5) (a : BitVec 5) (b : BitVec 5) (m : BitVec 3) (t : BitVec 4) : RoundTrip.Statement (.vsatsub d a b m t) := by
  obtain ⟨wd, hn⟩ : ∃ wd, wd = 2214592519 + d.toNat * 2097152 + a.toNat * 65536 + b.toNat * 2048 + m.toNat * 256 + t.toNat * 16 := ⟨_, rfl⟩
  obtain ⟨hlt, q0, q1, q2, q3, q4, q5, q6⟩ := layout15 (show 7 < 16 by decide) t.isLt m.isLt b.isLt a.isLt d.isLt (show 33 < 64 by decide) (hn.trans (by omega))
  refine RoundTrip.ofWord (n := wd) (by exact (by decide : 102 < 232)) (hn ▸ rfl) hlt (fun hw => ?_)
  clear hn
  replace hw : (t.toNat ≤ 7) := of_decide_eq_true hw
  rw [major33 q6]
  rw [decode21, q0]
  change readVsatsub wd = _
  unfold readVsatsub
  rw [RoundTrip.field d q5, RoundTrip.field a q4, RoundTrip.field b q3, RoundTrip.field m q2, RoundTrip.field t q1]
  have hd := d.isLt
  have ha := a.isLt
  have hb := b.isLt
  have hm := m.isLt
  have ht := t.isLt
  rw [q1]
  rw [if_pos (by omega)]

theorem RoundTrip.vshl (d : BitVec 5) (a : BitVec 5) (b : BitVec 5) (m : BitVec 3) (t : BitVec 4) : RoundTrip.Statement (.vshl d a b m t) := by
  obtain ⟨wd, hn⟩ : ∃ wd, wd = 2214592520 + d.toNat * 2097152 + a.toNat * 65536 + b.toNat * 2048 + m.toNat * 256 + t.toNat * 16 := ⟨_, rfl⟩
  obtain ⟨hlt, q0, q1, q2, q3, q4, q5, q6⟩ := layout15 (show 8 < 16 by decide) t.isLt m.isLt b.isLt a.isLt d.isLt (show 33 < 64 by decide) (hn.trans (by omega))
  refine RoundTrip.ofWord (n := wd) (by exact (by decide : 103 < 232)) (hn ▸ rfl) hlt (fun hw => ?_)
  clear hn
  replace hw : (t.toNat ≤ 7) := of_decide_eq_true hw
  rw [major33 q6]
  rw [decode21, q0]
  change readVshl wd = _
  unfold readVshl
  rw [RoundTrip.field d q5, RoundTrip.field a q4, RoundTrip.field b q3, RoundTrip.field m q2, RoundTrip.field t q1]
  have hd := d.isLt
  have ha := a.isLt
  have hb := b.isLt
  have hm := m.isLt
  have ht := t.isLt
  rw [q1]
  rw [if_pos (by omega)]

theorem RoundTrip.vshr (d : BitVec 5) (a : BitVec 5) (b : BitVec 5) (m : BitVec 3) (t : BitVec 4) : RoundTrip.Statement (.vshr d a b m t) := by
  obtain ⟨wd, hn⟩ : ∃ wd, wd = 2214592521 + d.toNat * 2097152 + a.toNat * 65536 + b.toNat * 2048 + m.toNat * 256 + t.toNat * 16 := ⟨_, rfl⟩
  obtain ⟨hlt, q0, q1, q2, q3, q4, q5, q6⟩ := layout15 (show 9 < 16 by decide) t.isLt m.isLt b.isLt a.isLt d.isLt (show 33 < 64 by decide) (hn.trans (by omega))
  refine RoundTrip.ofWord (n := wd) (by exact (by decide : 104 < 232)) (hn ▸ rfl) hlt (fun hw => ?_)
  clear hn
  replace hw : (t.toNat ≤ 7) := of_decide_eq_true hw
  rw [major33 q6]
  rw [decode21, q0]
  change readVshr wd = _
  unfold readVshr
  rw [RoundTrip.field d q5, RoundTrip.field a q4, RoundTrip.field b q3, RoundTrip.field m q2, RoundTrip.field t q1]
  have hd := d.isLt
  have ha := a.isLt
  have hb := b.isLt
  have hm := m.isLt
  have ht := t.isLt
  rw [q1]
  rw [if_pos (by omega)]

theorem RoundTrip.vsra (d : BitVec 5) (a : BitVec 5) (b : BitVec 5) (m : BitVec 3) (t : BitVec 4) : RoundTrip.Statement (.vsra d a b m t) := by
  obtain ⟨wd, hn⟩ : ∃ wd, wd = 2214592522 + d.toNat * 2097152 + a.toNat * 65536 + b.toNat * 2048 + m.toNat * 256 + t.toNat * 16 := ⟨_, rfl⟩
  obtain ⟨hlt, q0, q1, q2, q3, q4, q5, q6⟩ := layout15 (show 10 < 16 by decide) t.isLt m.isLt b.isLt a.isLt d.isLt (show 33 < 64 by decide) (hn.trans (by omega))
  refine RoundTrip.ofWord (n := wd) (by exact (by decide : 105 < 232)) (hn ▸ rfl) hlt (fun hw => ?_)
  clear hn
  replace hw : (t.toNat ≤ 7) := of_decide_eq_true hw
  rw [major33 q6]
  rw [decode21, q0]
  change readVsra wd = _
  unfold readVsra
  rw [RoundTrip.field d q5, RoundTrip.field a q4, RoundTrip.field b q3, RoundTrip.field m q2, RoundTrip.field t q1]
  have hd := d.isLt
  have ha := a.isLt
  have hb := b.isLt
  have hm := m.isLt
  have ht := t.isLt
  rw [q1]
  rw [if_pos (by omega)]

theorem RoundTrip.vand (d : BitVec 5) (a : BitVec 5) (b : BitVec 5) (m : BitVec 3) (t : BitVec 4) : RoundTrip.Statement (.vand d a b m t) := by
  obtain ⟨wd, hn⟩ : ∃ wd, wd = 2214592523 + d.toNat * 2097152 + a.toNat * 65536 + b.toNat * 2048 + m.toNat * 256 + t.toNat * 16 := ⟨_, rfl⟩
  obtain ⟨hlt, q0, q1, q2, q3, q4, q5, q6⟩ := layout15 (show 11 < 16 by decide) t.isLt m.isLt b.isLt a.isLt d.isLt (show 33 < 64 by decide) (hn.trans (by omega))
  refine RoundTrip.ofWord (n := wd) (by exact (by decide : 106 < 232)) (hn ▸ rfl) hlt (fun hw => ?_)
  clear hn
  replace hw : (t.toNat ≤ 7) := of_decide_eq_true hw
  rw [major33 q6]
  rw [decode21, q0]
  change readVand wd = _
  unfold readVand
  rw [RoundTrip.field d q5, RoundTrip.field a q4, RoundTrip.field b q3, RoundTrip.field m q2, RoundTrip.field t q1]
  have hd := d.isLt
  have ha := a.isLt
  have hb := b.isLt
  have hm := m.isLt
  have ht := t.isLt
  rw [q1]
  rw [if_pos (by omega)]

theorem RoundTrip.vor (d : BitVec 5) (a : BitVec 5) (b : BitVec 5) (m : BitVec 3) (t : BitVec 4) : RoundTrip.Statement (.vor d a b m t) := by
  obtain ⟨wd, hn⟩ : ∃ wd, wd = 2214592524 + d.toNat * 2097152 + a.toNat * 65536 + b.toNat * 2048 + m.toNat * 256 + t.toNat * 16 := ⟨_, rfl⟩
  obtain ⟨hlt, q0, q1, q2, q3, q4, q5, q6⟩ := layout15 (show 12 < 16 by decide) t.isLt m.isLt b.isLt a.isLt d.isLt (show 33 < 64 by decide) (hn.trans (by omega))
  refine RoundTrip.ofWord (n := wd) (by exact (by decide : 107 < 232)) (hn ▸ rfl) hlt (fun hw => ?_)
  clear hn
  replace hw : (t.toNat ≤ 7) := of_decide_eq_true hw
  rw [major33 q6]
  rw [decode21, q0]
  change readVor wd = _
  unfold readVor
  rw [RoundTrip.field d q5, RoundTrip.field a q4, RoundTrip.field b q3, RoundTrip.field m q2, RoundTrip.field t q1]
  have hd := d.isLt
  have ha := a.isLt
  have hb := b.isLt
  have hm := m.isLt
  have ht := t.isLt
  rw [q1]
  rw [if_pos (by omega)]

theorem RoundTrip.vxor (d : BitVec 5) (a : BitVec 5) (b : BitVec 5) (m : BitVec 3) (t : BitVec 4) : RoundTrip.Statement (.vxor d a b m t) := by
  obtain ⟨wd, hn⟩ : ∃ wd, wd = 2214592525 + d.toNat * 2097152 + a.toNat * 65536 + b.toNat * 2048 + m.toNat * 256 + t.toNat * 16 := ⟨_, rfl⟩
  obtain ⟨hlt, q0, q1, q2, q3, q4, q5, q6⟩ := layout15 (show 13 < 16 by decide) t.isLt m.isLt b.isLt a.isLt d.isLt (show 33 < 64 by decide) (hn.trans (by omega))
  refine RoundTrip.ofWord (n := wd) (by exact (by decide : 108 < 232)) (hn ▸ rfl) hlt (fun hw => ?_)
  clear hn
  replace hw : (t.toNat ≤ 7) := of_decide_eq_true hw
  rw [major33 q6]
  rw [decode21, q0]
  change readVxor wd = _
  unfold readVxor
  rw [RoundTrip.field d q5, RoundTrip.field a q4, RoundTrip.field b q3, RoundTrip.field m q2, RoundTrip.field t q1]
  have hd := d.isLt
  have ha := a.isLt
  have hb := b.isLt
  have hm := m.isLt
  have ht := t.isLt
  rw [q1]
  rw [if_pos (by omega)]

theorem RoundTrip.vabsInt (d : BitVec 5) (a : BitVec 5) (m : BitVec 3) (t : BitVec 4) : RoundTrip.Statement (.vabsInt d a m t) := by
  obtain ⟨wd, hn⟩ : ∃ wd, wd = 2214592526 + d.toNat * 2097152 + a.toNat * 65536 + m.toNat * 256 + t.toNat * 16 := ⟨_, rfl⟩
  obtain ⟨hlt, q0, q1, q2, q3, q4, q5, q6⟩ := layout15 (show 14 < 16 by decide) t.isLt m.isLt (show 0 < 32 by decide) a.isLt d.isLt (show 33 < 64 by decide) (hn.trans (by omega))
  refine RoundTrip.ofWord (n := wd) (by exact (by decide : 109 < 232)) (hn ▸ rfl) hlt (fun hw => ?_)
  clear hn
  replace hw : (t.toNat ≤ 7) := of_decide_eq_true hw
  rw [major33 q6]
  rw [decode21, q0]
  change readVabsInt wd = _
  unfold readVabsInt
  rw [RoundTrip.field d q5, RoundTrip.field a q4, RoundTrip.field m q2, RoundTrip.field t q1]
  have hd := d.isLt
  have ha := a.isLt
  have hm := m.isLt
  have ht := t.isLt
  rw [q3, q1]
  rw [if_pos (by omega)]
  rw [if_pos (by omega)]

theorem RoundTrip.vnegInt (d : BitVec 5) (a : BitVec 5) (m : BitVec 3) (t : BitVec 4) : RoundTrip.Statement (.vnegInt d a m t) := by
  obtain ⟨wd, hn⟩ : ∃ wd, wd = 2214592527 + d.toNat * 2097152 + a.toNat * 65536 + m.toNat * 256 + t.toNat * 16 := ⟨_, rfl⟩
  obtain ⟨hlt, q0, q1, q2, q3, q4, q5, q6⟩ := layout15 (show 15 < 16 by decide) t.isLt m.isLt (show 0 < 32 by decide) a.isLt d.isLt (show 33 < 64 by decide) (hn.trans (by omega))
  refine RoundTrip.ofWord (n := wd) (by exact (by decide : 110 < 232)) (hn ▸ rfl) hlt (fun hw => ?_)
  clear hn
  replace hw : (t.toNat ≤ 7) := of_decide_eq_true hw
  rw [major33 q6]
  rw [decode21, q0]
  change readVnegInt wd = _
  unfold readVnegInt
  rw [RoundTrip.field d q5, RoundTrip.field a q4, RoundTrip.field m q2, RoundTrip.field t q1]
  have hd := d.isLt
  have ha := a.isLt
  have hm := m.isLt
  have ht := t.isLt
  rw [q3, q1]
  rw [if_pos (by omega)]
  rw [if_pos (by omega)]

theorem RoundTrip.vaddFp (d : BitVec 5) (a : BitVec 5) (b : BitVec 5) (m : BitVec 3) (t : BitVec 4) : RoundTrip.Statement (.vaddFp d a b m t) := by
  obtain ⟨wd, hn⟩ : ∃ wd, wd = 2281701376 + d.toNat * 2097152 + a.toNat * 65536 + b.toNat * 2048 + m.toNat * 256 + t.toNat * 16 := ⟨_, rfl⟩
  obtain ⟨hlt, q0, q1, q2, q3, q4, q5, q6⟩ := layout15 (show 0 < 16 by decide) t.isLt m.isLt b.isLt a.isLt d.isLt (show 34 < 64 by decide) (hn.trans (by omega))
  refine RoundTrip.ofWord (n := wd) (by exact (by decide : 111 < 232)) (hn ▸ rfl) hlt (fun hw => ?_)
  clear hn
  replace hw : ((8 ≤ t.toNat ∧ t.toNat ≤ 10)) := of_decide_eq_true hw
  rw [major34 q6]
  rw [decode22, q0]
  change readVaddFp wd = _
  unfold readVaddFp
  rw [RoundTrip.field d q5, RoundTrip.field a q4, RoundTrip.field b q3, RoundTrip.field m q2, RoundTrip.field t q1]
  have hd := d.isLt
  have ha := a.isLt
  have hb := b.isLt
  have hm := m.isLt
  have ht := t.isLt
  rw [q1]
  rw [if_pos (by omega)]

theorem RoundTrip.vsubFp (d : BitVec 5) (a : BitVec 5) (b : BitVec 5) (m : BitVec 3) (t : BitVec 4) : RoundTrip.Statement (.vsubFp d a b m t) := by
  obtain ⟨wd, hn⟩ : ∃ wd, wd = 2281701377 + d.toNat * 2097152 + a.toNat * 65536 + b.toNat * 2048 + m.toNat * 256 + t.toNat * 16 := ⟨_, rfl⟩
  obtain ⟨hlt, q0, q1, q2, q3, q4, q5, q6⟩ := layout15 (show 1 < 16 by decide) t.isLt m.isLt b.isLt a.isLt d.isLt (show 34 < 64 by decide) (hn.trans (by omega))
  refine RoundTrip.ofWord (n := wd) (by exact (by decide : 112 < 232)) (hn ▸ rfl) hlt (fun hw => ?_)
  clear hn
  replace hw : ((8 ≤ t.toNat ∧ t.toNat ≤ 10)) := of_decide_eq_true hw
  rw [major34 q6]
  rw [decode22, q0]
  change readVsubFp wd = _
  unfold readVsubFp
  rw [RoundTrip.field d q5, RoundTrip.field a q4, RoundTrip.field b q3, RoundTrip.field m q2, RoundTrip.field t q1]
  have hd := d.isLt
  have ha := a.isLt
  have hb := b.isLt
  have hm := m.isLt
  have ht := t.isLt
  rw [q1]
  rw [if_pos (by omega)]

theorem RoundTrip.vmulFp (d : BitVec 5) (a : BitVec 5) (b : BitVec 5) (m : BitVec 3) (t : BitVec 4) : RoundTrip.Statement (.vmulFp d a b m t) := by
  obtain ⟨wd, hn⟩ : ∃ wd, wd = 2281701378 + d.toNat * 2097152 + a.toNat * 65536 + b.toNat * 2048 + m.toNat * 256 + t.toNat * 16 := ⟨_, rfl⟩
  obtain ⟨hlt, q0, q1, q2, q3, q4, q5, q6⟩ := layout15 (show 2 < 16 by decide) t.isLt m.isLt b.isLt a.isLt d.isLt (show 34 < 64 by decide) (hn.trans (by omega))
  refine RoundTrip.ofWord (n := wd) (by exact (by decide : 113 < 232)) (hn ▸ rfl) hlt (fun hw => ?_)
  clear hn
  replace hw : ((8 ≤ t.toNat ∧ t.toNat ≤ 10)) := of_decide_eq_true hw
  rw [major34 q6]
  rw [decode22, q0]
  change readVmulFp wd = _
  unfold readVmulFp
  rw [RoundTrip.field d q5, RoundTrip.field a q4, RoundTrip.field b q3, RoundTrip.field m q2, RoundTrip.field t q1]
  have hd := d.isLt
  have ha := a.isLt
  have hb := b.isLt
  have hm := m.isLt
  have ht := t.isLt
  rw [q1]
  rw [if_pos (by omega)]

theorem RoundTrip.vfma (d : BitVec 5) (a : BitVec 5) (b : BitVec 5) (m : BitVec 3) (t : BitVec 4) : RoundTrip.Statement (.vfma d a b m t) := by
  obtain ⟨wd, hn⟩ : ∃ wd, wd = 2281701379 + d.toNat * 2097152 + a.toNat * 65536 + b.toNat * 2048 + m.toNat * 256 + t.toNat * 16 := ⟨_, rfl⟩
  obtain ⟨hlt, q0, q1, q2, q3, q4, q5, q6⟩ := layout15 (show 3 < 16 by decide) t.isLt m.isLt b.isLt a.isLt d.isLt (show 34 < 64 by decide) (hn.trans (by omega))
  refine RoundTrip.ofWord (n := wd) (by exact (by decide : 114 < 232)) (hn ▸ rfl) hlt (fun hw => ?_)
  clear hn
  replace hw : ((8 ≤ t.toNat ∧ t.toNat ≤ 10)) := of_decide_eq_true hw
  rw [major34 q6]
  rw [decode22, q0]
  change readVfma wd = _
  unfold readVfma
  rw [RoundTrip.field d q5, RoundTrip.field a q4, RoundTrip.field b q3, RoundTrip.field m q2, RoundTrip.field t q1]
  have hd := d.isLt
  have ha := a.isLt
  have hb := b.isLt
  have hm := m.isLt
  have ht := t.isLt
  rw [q1]
  rw [if_pos (by omega)]

theorem RoundTrip.vfms (d : BitVec 5) (a : BitVec 5) (b : BitVec 5) (m : BitVec 3) (t : BitVec 4) : RoundTrip.Statement (.vfms d a b m t) := by
  obtain ⟨wd, hn⟩ : ∃ wd, wd = 2281701380 + d.toNat * 2097152 + a.toNat * 65536 + b.toNat * 2048 + m.toNat * 256 + t.toNat * 16 := ⟨_, rfl⟩
  obtain ⟨hlt, q0, q1, q2, q3, q4, q5, q6⟩ := layout15 (show 4 < 16 by decide) t.isLt m.isLt b.isLt a.isLt d.isLt (show 34 < 64 by decide) (hn.trans (by omega))
  refine RoundTrip.ofWord (n := wd) (by exact (by decide : 115 < 232)) (hn ▸ rfl) hlt (fun hw => ?_)
  clear hn
  replace hw : ((8 ≤ t.toNat ∧ t.toNat ≤ 10)) := of_decide_eq_true hw
  rw [major34 q6]
  rw [decode22, q0]
  change readVfms wd = _
  unfold readVfms
  rw [RoundTrip.field d q5, RoundTrip.field a q4, RoundTrip.field b q3, RoundTrip.field m q2, RoundTrip.field t q1]
  have hd := d.isLt
  have ha := a.isLt
  have hb := b.isLt
  have hm := m.isLt
  have ht := t.isLt
  rw [q1]
  rw [if_pos (by omega)]

theorem RoundTrip.vfnma (d : BitVec 5) (a : BitVec 5) (b : BitVec 5) (m : BitVec 3) (t : BitVec 4) : RoundTrip.Statement (.vfnma d a b m t) := by
  obtain ⟨wd, hn⟩ : ∃ wd, wd = 2281701381 + d.toNat * 2097152 + a.toNat * 65536 + b.toNat * 2048 + m.toNat * 256 + t.toNat * 16 := ⟨_, rfl⟩
  obtain ⟨hlt, q0, q1, q2, q3, q4, q5, q6⟩ := layout15 (show 5 < 16 by decide) t.isLt m.isLt b.isLt a.isLt d.isLt (show 34 < 64 by decide) (hn.trans (by omega))
  refine RoundTrip.ofWord (n := wd) (by exact (by decide : 116 < 232)) (hn ▸ rfl) hlt (fun hw => ?_)
  clear hn
  replace hw : ((8 ≤ t.toNat ∧ t.toNat ≤ 10)) := of_decide_eq_true hw
  rw [major34 q6]
  rw [decode22, q0]
  change readVfnma wd = _
  unfold readVfnma
  rw [RoundTrip.field d q5, RoundTrip.field a q4, RoundTrip.field b q3, RoundTrip.field m q2, RoundTrip.field t q1]
  have hd := d.isLt
  have ha := a.isLt
  have hb := b.isLt
  have hm := m.isLt
  have ht := t.isLt
  rw [q1]
  rw [if_pos (by omega)]

theorem RoundTrip.vdiv (d : BitVec 5) (a : BitVec 5) (b : BitVec 5) (m : BitVec 3) (t : BitVec 4) : RoundTrip.Statement (.vdiv d a b m t) := by
  obtain ⟨wd, hn⟩ : ∃ wd, wd = 2281701382 + d.toNat * 2097152 + a.toNat * 65536 + b.toNat * 2048 + m.toNat * 256 + t.toNat * 16 := ⟨_, rfl⟩
  obtain ⟨hlt, q0, q1, q2, q3, q4, q5, q6⟩ := layout15 (show 6 < 16 by decide) t.isLt m.isLt b.isLt a.isLt d.isLt (show 34 < 64 by decide) (hn.trans (by omega))
  refine RoundTrip.ofWord (n := wd) (by exact (by decide : 117 < 232)) (hn ▸ rfl) hlt (fun hw => ?_)
  clear hn
  replace hw : ((8 ≤ t.toNat ∧ t.toNat ≤ 10)) := of_decide_eq_true hw
  rw [major34 q6]
  rw [decode22, q0]
  change readVdiv wd = _
  unfold readVdiv
  rw [RoundTrip.field d q5, RoundTrip.field a q4, RoundTrip.field b q3, RoundTrip.field m q2, RoundTrip.field t q1]
  have hd := d.isLt
  have ha := a.isLt
  have hb := b.isLt
  have hm := m.isLt
  have ht := t.isLt
  rw [q1]
  rw [if_pos (by omega)]

theorem RoundTrip.vsqrt (d : BitVec 5) (a : BitVec 5) (m : BitVec 3) (t : BitVec 4) : RoundTrip.Statement (.vsqrt d a m t) := by
  obtain ⟨wd, hn⟩ : ∃ wd, wd = 2281701383 + d.toNat * 2097152 + a.toNat * 65536 + m.toNat * 256 + t.toNat * 16 := ⟨_, rfl⟩
  obtain ⟨hlt, q0, q1, q2, q3, q4, q5, q6⟩ := layout15 (show 7 < 16 by decide) t.isLt m.isLt (show 0 < 32 by decide) a.isLt d.isLt (show 34 < 64 by decide) (hn.trans (by omega))
  refine RoundTrip.ofWord (n := wd) (by exact (by decide : 118 < 232)) (hn ▸ rfl) hlt (fun hw => ?_)
  clear hn
  replace hw : ((8 ≤ t.toNat ∧ t.toNat ≤ 10)) := of_decide_eq_true hw
  rw [major34 q6]
  rw [decode22, q0]
  change readVsqrt wd = _
  unfold readVsqrt
  rw [RoundTrip.field d q5, RoundTrip.field a q4, RoundTrip.field m q2, RoundTrip.field t q1]
  have hd := d.isLt
  have ha := a.isLt
  have hm := m.isLt
  have ht := t.isLt
  rw [q3, q1]
  rw [if_pos (by omega)]
  rw [if_pos (by omega)]

theorem RoundTrip.vrcp (d : BitVec 5) (a : BitVec 5) (m : BitVec 3) (t : BitVec 4) : RoundTrip.Statement (.vrcp d a m t) := by
  obtain ⟨wd, hn⟩ : ∃ wd, wd = 2281701384 + d.toNat * 2097152 + a.toNat * 65536 + m.toNat * 256 + t.toNat * 16 := ⟨_, rfl⟩
  obtain ⟨hlt, q0, q1, q2, q3, q4, q5, q6⟩ := layout15 (show 8 < 16 by decide) t.isLt m.isLt (show 0 < 32 by decide) a.isLt d.isLt (show 34 < 64 by decide) (hn.trans (by omega))
  refine RoundTrip.ofWord (n := wd) (by exact (by decide : 119 < 232)) (hn ▸ rfl) hlt (fun hw => ?_)
  clear hn
  replace hw : ((8 ≤ t.toNat ∧ t.toNat ≤ 10)) := of_decide_eq_true hw
  rw [major34 q6]
  rw [decode22, q0]
  change readVrcp wd = _
  unfold readVrcp
  rw [RoundTrip.field d q5, RoundTrip.field a q4, RoundTrip.field m q2, RoundTrip.field t q1]
  have hd := d.isLt
  have ha := a.isLt
  have hm := m.isLt
  have ht := t.isLt
  rw [q3, q1]
  rw [if_pos (by omega)]
  rw [if_pos (by omega)]

theorem RoundTrip.vrsq (d : BitVec 5) (a : BitVec 5) (m : BitVec 3) (t : BitVec 4) : RoundTrip.Statement (.vrsq d a m t) := by
  obtain ⟨wd, hn⟩ : ∃ wd, wd = 2281701385 + d.toNat * 2097152 + a.toNat * 65536 + m.toNat * 256 + t.toNat * 16 := ⟨_, rfl⟩
  obtain ⟨hlt, q0, q1, q2, q3, q4, q5, q6⟩ := layout15 (show 9 < 16 by decide) t.isLt m.isLt (show 0 < 32 by decide) a.isLt d.isLt (show 34 < 64 by decide) (hn.trans (by omega))
  refine RoundTrip.ofWord (n := wd) (by exact (by decide : 120 < 232)) (hn ▸ rfl) hlt (fun hw => ?_)
  clear hn
  replace hw : ((8 ≤ t.toNat ∧ t.toNat ≤ 10)) := of_decide_eq_true hw
  rw [major34 q6]
  rw [decode22, q0]
  change readVrsq wd = _
  unfold readVrsq
  rw [RoundTrip.field d q5, RoundTrip.field a q4, RoundTrip.field m q2, RoundTrip.field t q1]
  have hd := d.isLt
  have ha := a.isLt
  have hm := m.isLt
  have ht := t.isLt
  rw [q3, q1]
  rw [if_pos (by omega)]
  rw [if_pos (by omega)]

theorem RoundTrip.vminFp (d : BitVec 5) (a : BitVec 5) (b : BitVec 5) (m : BitVec 3) (t : BitVec 4) : RoundTrip.Statement (.vminFp d a b m t) := by
  obtain ⟨wd, hn⟩ : ∃ wd, wd = 2281701386 + d.toNat * 2097152 + a.toNat * 65536 + b.toNat * 2048 + m.toNat * 256 + t.toNat * 16 := ⟨_, rfl⟩
  obtain ⟨hlt, q0, q1, q2, q3, q4, q5, q6⟩ := layout15 (show 10 < 16 by decide) t.isLt m.isLt b.isLt a.isLt d.isLt (show 34 < 64 by decide) (hn.trans (by omega))
  refine RoundTrip.ofWord (n := wd) (by exact (by decide : 121 < 232)) (hn ▸ rfl) hlt (fun hw => ?_)
  clear hn
  replace hw : ((8 ≤ t.toNat ∧ t.toNat ≤ 10)) := of_decide_eq_true hw
  rw [major34 q6]
  rw [decode22, q0]
  change readVminFp wd = _
  unfold readVminFp
  rw [RoundTrip.field d q5, RoundTrip.field a q4, RoundTrip.field b q3, RoundTrip.field m q2, RoundTrip.field t q1]
  have hd := d.isLt
  have ha := a.isLt
  have hb := b.isLt
  have hm := m.isLt
  have ht := t.isLt
  rw [q1]
  rw [if_pos (by omega)]

theorem RoundTrip.vmaxFp (d : BitVec 5) (a : BitVec 5) (b : BitVec 5) (m : BitVec 3) (t : BitVec 4) : RoundTrip.Statement (.vmaxFp d a b m t) := by
  obtain ⟨wd, hn⟩ : ∃ wd, wd = 2281701387 + d.toNat * 2097152 + a.toNat * 65536 + b.toNat * 2048 + m.toNat * 256 + t.toNat * 16 := ⟨_, rfl⟩
  obtain ⟨hlt, q0, q1, q2, q3, q4, q5, q6⟩ := layout15 (show 11 < 16 by decide) t.isLt m.isLt b.isLt a.isLt d.isLt (show 34 < 64 by decide) (hn.trans (by omega))
  refine RoundTrip.ofWord (n := wd) (by exact (by decide : 122 < 232)) (hn ▸ rfl) hlt (fun hw => ?_)
  clear hn
  replace hw : ((8 ≤ t.toNat ∧ t.toNat ≤ 10)) := of_decide_eq_true hw
  rw [major34 q6]
  rw [decode22, q0]
  change readVmaxFp wd = _
  unfold readVmaxFp
  rw [RoundTrip.field d q5, RoundTrip.field a q4, RoundTrip.field b q3, RoundTrip.field m q2, RoundTrip.field t q1]
  have hd := d.isLt
  have ha := a.isLt
  have hb := b.isLt
  have hm := m.isLt
  have ht := t.isLt
  rw [q1]
  rw [if_pos (by omega)]

theorem RoundTrip.vabsFp (d : BitVec 5) (a : BitVec 5) (m : BitVec 3) (t : BitVec 4) : RoundTrip.Statement (.vabsFp d a m t) := by
  obtain ⟨wd, hn⟩ : ∃ wd, wd = 2281701388 + d.toNat * 2097152 + a.toNat * 65536 + m.toNat * 256 + t.toNat * 16 := ⟨_, rfl⟩
  obtain ⟨hlt, q0, q1, q2, q3, q4, q5, q6⟩ := layout15 (show 12 < 16 by decide) t.isLt m.isLt (show 0 < 32 by decide) a.isLt d.isLt (show 34 < 64 by decide) (hn.trans (by omega))
  refine RoundTrip.ofWord (n := wd) (by exact (by decide : 123 < 232)) (hn ▸ rfl) hlt (fun hw => ?_)
  clear hn
  replace hw : ((8 ≤ t.toNat ∧ t.toNat ≤ 10)) := of_decide_eq_true hw
  rw [major34 q6]
  rw [decode22, q0]
  change readVabsFp wd = _
  unfold readVabsFp
  rw [RoundTrip.field d q5, RoundTrip.field a q4, RoundTrip.field m q2, RoundTrip.field t q1]
  have hd := d.isLt
  have ha := a.isLt
  have hm := m.isLt
  have ht := t.isLt
  rw [q3, q1]
  rw [if_pos (by omega)]
  rw [if_pos (by omega)]

theorem RoundTrip.vnegFp (d : BitVec 5) (a : BitVec 5) (m : BitVec 3) (t : BitVec 4) : RoundTrip.Statement (.vnegFp d a m t) := by
  obtain ⟨wd, hn⟩ : ∃ wd, wd = 2281701389 + d.toNat * 2097152 + a.toNat * 65536 + m.toNat * 256 + t.toNat * 16 := ⟨_, rfl⟩
  obtain ⟨hlt, q0, q1, q2, q3, q4, q5, q6⟩ := layout15 (show 13 < 16 by decide) t.isLt m.isLt (show 0 < 32 by decide) a.isLt d.isLt (show 34 < 64 by decide) (hn.trans (by omega))
  refine RoundTrip.ofWord (n := wd) (by exact (by decide : 124 < 232)) (hn ▸ rfl) hlt (fun hw => ?_)
  clear hn
  replace hw : ((8 ≤ t.toNat ∧ t.toNat ≤ 10)) := of_decide_eq_true hw
  rw [major34 q6]
  rw [decode22, q0]
  change readVnegFp wd = _
  unfold readVnegFp
  rw [RoundTrip.field d q5, RoundTrip.field a q4, RoundTrip.field m q2, RoundTrip.field t q1]
  have hd := d.isLt
  have ha := a.isLt
  have hm := m.isLt
  have ht := t.isLt
  rw [q3, q1]
  rw [if_pos (by omega)]
  rw [if_pos (by omega)]

theorem RoundTrip.vscale (d : BitVec 5) (a : BitVec 5) (b : BitVec 5) (m : BitVec 3) (t : BitVec 4) : RoundTrip.Statement (.vscale d a b m t) := by
  obtain ⟨wd, hn⟩ : ∃ wd, wd = 2281701390 + d.toNat * 2097152 + a.toNat * 65536 + b.toNat * 2048 + m.toNat * 256 + t.toNat * 16 := ⟨_, rfl⟩
  obtain ⟨hlt, q0, q1, q2, q3, q4, q5, q6⟩ := layout15 (show 14 < 16 by decide) t.isLt m.isLt b.isLt a.isLt d.isLt (show 34 < 64 by decide) (hn.trans (by omega))
  refine RoundTrip.ofWord (n := wd) (by exact (by decide : 125 < 232)) (hn ▸ rfl) hlt (fun hw => ?_)
  clear hn
  replace hw : ((8 ≤ t.toNat ∧ t.toNat ≤ 10)) := of_decide_eq_true hw
  rw [major34 q6]
  rw [decode22, q0]
  change readVscale wd = _
  unfold readVscale
  rw [RoundTrip.field d q5, RoundTrip.field a q4, RoundTrip.field b q3, RoundTrip.field m q2, RoundTrip.field t q1]
  have hd := d.isLt
  have ha := a.isLt
  have hb := b.isLt
  have hm := m.isLt
  have ht := t.isLt
  rw [q1]
  rw [if_pos (by omega)]

theorem layout16 {n x0 x1 x2 x3 x4 x5 x6 x7 : Nat} (h0 : x0 < 16) (h1 : x1 < 16) (h2 : x2 < 8) (h3 : x3 < 8) (h4 : x4 < 4) (h5 : x5 < 32) (h6 : x6 < 32) (h7 : x7 < 64)
    (e : n = x0 + x1 * 16 + x2 * 256 + x3 * 2048 + x4 * 16384 + x5 * 65536 + x6 * 2097152 + x7 * 67108864) : n < 4294967296 ∧ n % 16 = x0 ∧ n / 16 % 16 = x1 ∧ n / 256 % 8 = x2 ∧ n / 2048 % 8 = x3 ∧ n / 16384 % 4 = x4 ∧ n / 65536 % 32 = x5 ∧ n / 2097152 % 32 = x6 ∧ n / 67108864 = x7 :=
  ⟨by omega, by omega, by omega, by omega, by omega, by omega, by omega, by omega, by omega⟩

theorem RoundTrip.vrnd (d : BitVec 5) (a : BitVec 5) (r : BitVec 3) (m : BitVec 3) (t : BitVec 4) : RoundTrip.Statement (.vrnd d a r m t) := by
  obtain ⟨wd, hn⟩ : ∃ wd, wd = 2281701391 + d.toNat * 2097152 + a.toNat * 65536 + r.toNat * 2048 + m.toNat * 256 + t.toNat * 16 := ⟨_, rfl⟩
  obtain ⟨hlt, q0, q1, q2, q3, q4, q5, q6, q7⟩ := layout16 (show 15 < 16 by decide) t.isLt m.isLt r.isLt (show 0 < 4 by decide) a.isLt d.isLt (show 34 < 64 by decide) (hn.trans (by omega))
  refine RoundTrip.ofWord (n := wd) (by exact (by decide : 126 < 232)) (hn ▸ rfl) hlt (fun hw => ?_)
  clear hn
  replace hw : r.toNat ≤ 5 ∧ ((8 ≤ t.toNat ∧ t.toNat ≤ 10)) := of_decide_eq_true hw
  rw [major34 q7]
  rw [decode22, q0]
  change readVrnd wd = _
  unfold readVrnd
  rw [RoundTrip.field d q6, RoundTrip.field a q5, RoundTrip.field r q3, RoundTrip.field m q2, RoundTrip.field t q1]
  have hd := d.isLt
  have ha := a.isLt
  have hr := r.isLt
  have hm := m.isLt
  have ht := t.isLt
  rw [q4, q3, q1]
  rw [if_pos (by omega)]
  rw [if_pos (by omega)]

theorem RoundTrip.vcmpEq (d : BitVec 5) (a : BitVec 5) (b : BitVec 5) (m : BitVec 3) (t : BitVec 4) : RoundTrip.Statement (.vcmpEq d a b m t) := by
  obtain ⟨wd, hn⟩ : ∃ wd, wd = 2348810240 + d.toNat * 2097152 + a.toNat * 65536 + b.toNat * 2048 + m.toNat * 256 + t.toNat * 16 := ⟨_, rfl⟩
  obtain ⟨hlt, q0, q1, q2, q3, q4, q5, q6⟩ := layout15 (show 0 < 16 by decide) t.isLt m.isLt b.isLt a.isLt d.isLt (show 35 < 64 by decide) (hn.trans (by omega))
  refine RoundTrip.ofWord (n := wd) (by exact (by decide : 127 < 232)) (hn ▸ rfl) hlt (fun hw => ?_)
  clear hn
  replace hw : d.toNat ≤ 7 ∧ (t.toNat ≤ 12 ∨ t.toNat = 14) := of_decide_eq_true hw
  rw [major35 q6]
  rw [decode23, q0]
  change readVcmpEq wd = _
  unfold readVcmpEq
  rw [RoundTrip.field d q5, RoundTrip.field a q4, RoundTrip.field b q3, RoundTrip.field m q2, RoundTrip.field t q1]
  have hd := d.isLt
  have ha := a.isLt
  have hb := b.isLt
  have hm := m.isLt
  have ht := t.isLt
  rw [q5, q1]
  rw [if_pos (by omega)]
  rw [if_pos (by omega)]

theorem RoundTrip.vcmpNe (d : BitVec 5) (a : BitVec 5) (b : BitVec 5) (m : BitVec 3) (t : BitVec 4) : RoundTrip.Statement (.vcmpNe d a b m t) := by
  obtain ⟨wd, hn⟩ : ∃ wd, wd = 2348810241 + d.toNat * 2097152 + a.toNat * 65536 + b.toNat * 2048 + m.toNat * 256 + t.toNat * 16 := ⟨_, rfl⟩
  obtain ⟨hlt, q0, q1, q2, q3, q4, q5, q6⟩ := layout15 (show 1 < 16 by decide) t.isLt m.isLt b.isLt a.isLt d.isLt (show 35 < 64 by decide) (hn.trans (by omega))
  refine RoundTrip.ofWord (n := wd) (by exact (by decide : 128 < 232)) (hn ▸ rfl) hlt (fun hw => ?_)
  clear hn
  replace hw : d.toNat ≤ 7 ∧ (t.toNat ≤ 12 ∨ t.toNat = 14) := of_decide_eq_true hw
  rw [major35 q6]
  rw [decode23, q0]
  change readVcmpNe wd = _
  unfold readVcmpNe
  rw [RoundTrip.field d q5, RoundTrip.field a q4, RoundTrip.field b q3, RoundTrip.field m q2, RoundTrip.field t q1]
  have hd := d.isLt
  have ha := a.isLt
  have hb := b.isLt
  have hm := m.isLt
  have ht := t.isLt
  rw [q5, q1]
  rw [if_pos (by omega)]
  rw [if_pos (by omega)]

theorem RoundTrip.vcmpLt (d : BitVec 5) (a : BitVec 5) (b : BitVec 5) (m : BitVec 3) (t : BitVec 4) : RoundTrip.Statement (.vcmpLt d a b m t) := by
  obtain ⟨wd, hn⟩ : ∃ wd, wd = 2348810242 + d.toNat * 2097152 + a.toNat * 65536 + b.toNat * 2048 + m.toNat * 256 + t.toNat * 16 := ⟨_, rfl⟩
  obtain ⟨hlt, q0, q1, q2, q3, q4, q5, q6⟩ := layout15 (show 2 < 16 by decide) t.isLt m.isLt b.isLt a.isLt d.isLt (show 35 < 64 by decide) (hn.trans (by omega))
  refine RoundTrip.ofWord (n := wd) (by exact (by decide : 129 < 232)) (hn ▸ rfl) hlt (fun hw => ?_)
  clear hn
  replace hw : d.toNat ≤ 7 ∧ (t.toNat ≤ 12 ∨ t.toNat = 14) := of_decide_eq_true hw
  rw [major35 q6]
  rw [decode23, q0]
  change readVcmpLt wd = _
  unfold readVcmpLt
  rw [RoundTrip.field d q5, RoundTrip.field a q4, RoundTrip.field b q3, RoundTrip.field m q2, RoundTrip.field t q1]
  have hd := d.isLt
  have ha := a.isLt
  have hb := b.isLt
  have hm := m.isLt
  have ht := t.isLt
  rw [q5, q1]
  rw [if_pos (by omega)]
  rw [if_pos (by omega)]

theorem RoundTrip.vcmpLe (d : BitVec 5) (a : BitVec 5) (b : BitVec 5) (m : BitVec 3) (t : BitVec 4) : RoundTrip.Statement (.vcmpLe d a b m t) := by
  obtain ⟨wd, hn⟩ : ∃ wd, wd = 2348810243 + d.toNat * 2097152 + a.toNat * 65536 + b.toNat * 2048 + m.toNat * 256 + t.toNat * 16 := ⟨_, rfl⟩
  obtain ⟨hlt, q0, q1, q2, q3, q4, q5, q6⟩ := layout15 (show 3 < 16 by decide) t.isLt m.isLt b.isLt a.isLt d.isLt (show 35 < 64 by decide) (hn.trans (by omega))
  refine RoundTrip.ofWord (n := wd) (by exact (by decide : 130 < 232)) (hn ▸ rfl) hlt (fun hw => ?_)
  clear hn
  replace hw : d.toNat ≤ 7 ∧ (t.toNat ≤ 12 ∨ t.toNat = 14) := of_decide_eq_true hw
  rw [major35 q6]
  rw [decode23, q0]
  change readVcmpLe wd = _
  unfold readVcmpLe
  rw [RoundTrip.field d q5, RoundTrip.field a q4, RoundTrip.field b q3, RoundTrip.field m q2, RoundTrip.field t q1]
  have hd := d.isLt
  have ha := a.isLt
  have hb := b.isLt
  have hm := m.isLt
  have ht := t.isLt
  rw [q5, q1]
  rw [if_pos (by omega)]
  rw [if_pos (by omega)]

theorem RoundTrip.vcmpUn (d : BitVec 5) (a : BitVec 5) (b : BitVec 5) (m : BitVec 3) (t : BitVec 4) : RoundTrip.Statement (.vcmpUn d a b m t) := by
  obtain ⟨wd, hn⟩ : ∃ wd, wd = 2348810244 + d.toNat * 2097152 + a.toNat * 65536 + b.toNat * 2048 + m.toNat * 256 + t.toNat * 16 := ⟨_, rfl⟩
  obtain ⟨hlt, q0, q1, q2, q3, q4, q5, q6⟩ := layout15 (show 4 < 16 by decide) t.isLt m.isLt b.isLt a.isLt d.isLt (show 35 < 64 by decide) (hn.trans (by omega))
  refine RoundTrip.ofWord (n := wd) (by exact (by decide : 131 < 232)) (hn ▸ rfl) hlt (fun hw => ?_)
  clear hn
  replace hw : d.toNat ≤ 7 ∧ ((8 ≤ t.toNat ∧ t.toNat ≤ 12) ∨ t.toNat = 14) := of_decide_eq_true hw
  rw [major35 q6]
  rw [decode23, q0]
  change readVcmpUn wd = _
  unfold readVcmpUn
  rw [RoundTrip.field d q5, RoundTrip.field a q4, RoundTrip.field b q3, RoundTrip.field m q2, RoundTrip.field t q1]
  have hd := d.isLt
  have ha := a.isLt
  have hb := b.isLt
  have hm := m.isLt
  have ht := t.isLt
  rw [q5, q1]
  rw [if_pos (by omega)]
  rw [if_pos (by omega)]

theorem RoundTrip.vsel (d : BitVec 5) (a : BitVec 5) (b : BitVec 5) (m : BitVec 3) (t : BitVec 4) : RoundTrip.Statement (.vsel d a b m t) := by
  obtain ⟨wd, hn⟩ : ∃ wd, wd = 2348810245 + d.toNat * 2097152 + a.toNat * 65536 + b.toNat * 2048 + m.toNat * 256 + t.toNat * 16 := ⟨_, rfl⟩
  obtain ⟨hlt, q0, q1, q2, q3, q4, q5, q6⟩ := layout15 (show 5 < 16 by decide) t.isLt m.isLt b.isLt a.isLt d.isLt (show 35 < 64 by decide) (hn.trans (by omega))
  refine RoundTrip.ofWord (n := wd) (by exact (by decide : 132 < 232)) (hn ▸ rfl) hlt (fun hw => ?_)
  clear hn
  replace hw : (t.toNat ≤ 12) := of_decide_eq_true hw
  rw [major35 q6]
  rw [decode23, q0]
  change readVsel wd = _
  unfold readVsel
  rw [RoundTrip.field d q5, RoundTrip.field a q4, RoundTrip.field b q3, RoundTrip.field m q2, RoundTrip.field t q1]
  have hd := d.isLt
  have ha := a.isLt
  have hb := b.isLt
  have hm := m.isLt
  have ht := t.isLt
  rw [q1]
  rw [if_pos (by omega)]

theorem layout17 {n x0 x1 x2 x3 x4 x5 : Nat} (h0 : x0 < 256) (h1 : x1 < 8) (h2 : x2 < 32) (h3 : x3 < 32) (h4 : x4 < 32) (h5 : x5 < 64)
    (e : n = x0 + x1 * 256 + x2 * 2048 + x3 * 65536 + x4 * 2097152 + x5 * 67108864) : n < 4294967296 ∧ n % 256 = x0 ∧ n / 256 % 8 = x1 ∧ n / 2048 % 32 = x2 ∧ n / 65536 % 32 = x3 ∧ n / 2097152 % 32 = x4 ∧ n / 67108864 = x5 :=
  ⟨by omega, by omega, by omega, by omega, by omega, by omega, by omega⟩

theorem RoundTrip.mand (d : BitVec 5) (a : BitVec 5) (b : BitVec 5) (m : BitVec 3) : RoundTrip.Statement (.mand d a b m) := by
  obtain ⟨wd, hn⟩ : ∃ wd, wd = 2348810246 + d.toNat * 2097152 + a.toNat * 65536 + b.toNat * 2048 + m.toNat * 256 := ⟨_, rfl⟩
  obtain ⟨hlt, q0, q1, q2, q3, q4, q5⟩ := layout17 (show 6 < 256 by decide) m.isLt b.isLt a.isLt d.isLt (show 35 < 64 by decide) (hn.trans (by omega))
  refine RoundTrip.ofWord (n := wd) (by exact (by decide : 133 < 232)) (hn ▸ rfl) hlt (fun hw => ?_)
  clear hn
  replace hw : d.toNat ≤ 7 ∧ a.toNat ≤ 7 ∧ b.toNat ≤ 7 := of_decide_eq_true hw
  have e1 : wd % 16 = 6 := RoundTrip.low0 q0 16 16 rfl
  have e5 : wd / 16 % 16 = 0 := RoundTrip.inner0 q0 16 16 1 rfl
  rw [major35 q5]
  rw [decode23, e1]
  change readMand wd = _
  unfold readMand
  rw [RoundTrip.field d q4, RoundTrip.field a q3, RoundTrip.field b q2, RoundTrip.field m q1]
  have hd := d.isLt
  have ha := a.isLt
  have hb := b.isLt
  have hm := m.isLt
  rw [q4, q3, q2, e5]
  rw [if_pos (by omega)]
  rw [if_pos (by omega)]

theorem RoundTrip.mor (d : BitVec 5) (a : BitVec 5) (b : BitVec 5) (m : BitVec 3) : RoundTrip.Statement (.mor d a b m) := by
  obtain ⟨wd, hn⟩ : ∃ wd, wd = 2348810247 + d.toNat * 2097152 + a.toNat * 65536 + b.toNat * 2048 + m.toNat * 256 := ⟨_, rfl⟩
  obtain ⟨hlt, q0, q1, q2, q3, q4, q5⟩ := layout17 (show 7 < 256 by decide) m.isLt b.isLt a.isLt d.isLt (show 35 < 64 by decide) (hn.trans (by omega))
  refine RoundTrip.ofWord (n := wd) (by exact (by decide : 134 < 232)) (hn ▸ rfl) hlt (fun hw => ?_)
  clear hn
  replace hw : d.toNat ≤ 7 ∧ a.toNat ≤ 7 ∧ b.toNat ≤ 7 := of_decide_eq_true hw
  have e1 : wd % 16 = 7 := RoundTrip.low0 q0 16 16 rfl
  have e5 : wd / 16 % 16 = 0 := RoundTrip.inner0 q0 16 16 1 rfl
  rw [major35 q5]
  rw [decode23, e1]
  change readMor wd = _
  unfold readMor
  rw [RoundTrip.field d q4, RoundTrip.field a q3, RoundTrip.field b q2, RoundTrip.field m q1]
  have hd := d.isLt
  have ha := a.isLt
  have hb := b.isLt
  have hm := m.isLt
  rw [q4, q3, q2, e5]
  rw [if_pos (by omega)]
  rw [if_pos (by omega)]

theorem RoundTrip.mxor (d : BitVec 5) (a : BitVec 5) (b : BitVec 5) (m : BitVec 3) : RoundTrip.Statement (.mxor d a b m) := by
  obtain ⟨wd, hn⟩ : ∃ wd, wd = 2348810248 + d.toNat * 2097152 + a.toNat * 65536 + b.toNat * 2048 + m.toNat * 256 := ⟨_, rfl⟩
  obtain ⟨hlt, q0, q1, q2, q3, q4, q5⟩ := layout17 (show 8 < 256 by decide) m.isLt b.isLt a.isLt d.isLt (show 35 < 64 by decide) (hn.trans (by omega))
  refine RoundTrip.ofWord (n := wd) (by exact (by decide : 135 < 232)) (hn ▸ rfl) hlt (fun hw => ?_)
  clear hn
  replace hw : d.toNat ≤ 7 ∧ a.toNat ≤ 7 ∧ b.toNat ≤ 7 := of_decide_eq_true hw
  have e1 : wd % 16 = 8 := RoundTrip.low0 q0 16 16 rfl
  have e5 : wd / 16 % 16 = 0 := RoundTrip.inner0 q0 16 16 1 rfl
  rw [major35 q5]
  rw [decode23, e1]
  change readMxor wd = _
  unfold readMxor
  rw [RoundTrip.field d q4, RoundTrip.field a q3, RoundTrip.field b q2, RoundTrip.field m q1]
  have hd := d.isLt
  have ha := a.isLt
  have hb := b.isLt
  have hm := m.isLt
  rw [q4, q3, q2, e5]
  rw [if_pos (by omega)]
  rw [if_pos (by omega)]

theorem RoundTrip.mnot (d : BitVec 5) (a : BitVec 5) (m : BitVec 3) : RoundTrip.Statement (.mnot d a m) := by
  obtain ⟨wd, hn⟩ : ∃ wd, wd = 2348810249 + d.toNat * 2097152 + a.toNat * 65536 + m.toNat * 256 := ⟨_, rfl⟩
  obtain ⟨hlt, q0, q1, q2, q3, q4, q5⟩ := layout17 (show 9 < 256 by decide) m.isLt (show 0 < 32 by decide) a.isLt d.isLt (show 35 < 64 by decide) (hn.trans (by omega))
  refine RoundTrip.ofWord (n := wd) (by exact (by decide : 136 < 232)) (hn ▸ rfl) hlt (fun hw => ?_)
  clear hn
  replace hw : d.toNat ≤ 7 ∧ a.toNat ≤ 7 := of_decide_eq_true hw
  have e1 : wd % 16 = 9 := RoundTrip.low0 q0 16 16 rfl
  have e5 : wd / 16 % 16 = 0 := RoundTrip.inner0 q0 16 16 1 rfl
  rw [major35 q5]
  rw [decode23, e1]
  change readMnot wd = _
  unfold readMnot
  rw [RoundTrip.field d q4, RoundTrip.field a q3, RoundTrip.field m q1]
  have hd := d.isLt
  have ha := a.isLt
  have hm := m.isLt
  rw [q2, q4, q3, e5]
  rw [if_pos (by omega)]
  rw [if_pos (by omega)]

theorem layout18 {n x0 x1 x2 x3 x4 : Nat} (h0 : x0 < 256) (h1 : x1 < 8) (h2 : x2 < 1024) (h3 : x3 < 32) (h4 : x4 < 64)
    (e : n = x0 + x1 * 256 + x2 * 2048 + x3 * 2097152 + x4 * 67108864) : n < 4294967296 ∧ n % 256 = x0 ∧ n / 256 % 8 = x1 ∧ n / 2048 % 1024 = x2 ∧ n / 2097152 % 32 = x3 ∧ n / 67108864 = x4 :=
  ⟨by omega, by omega, by omega, by omega, by omega, by omega⟩

theorem RoundTrip.mset (d : BitVec 5) (m : BitVec 3) : RoundTrip.Statement (.mset d m) := by
  obtain ⟨wd, hn⟩ : ∃ wd, wd = 2348810250 + d.toNat * 2097152 + m.toNat * 256 := ⟨_, rfl⟩
  obtain ⟨hlt, q0, q1, q2, q3, q4⟩ := layout18 (show 10 < 256 by decide) m.isLt (show 0 < 1024 by decide) d.isLt (show 35 < 64 by decide) (hn.trans (by omega))
  refine RoundTrip.ofWord (n := wd) (by exact (by decide : 137 < 232)) (hn ▸ rfl) hlt (fun hw => ?_)
  clear hn
  replace hw : d.toNat ≤ 7 := of_decide_eq_true hw
  have e1 : wd % 16 = 10 := RoundTrip.low0 q0 16 16 rfl
  have e4 : wd / 16 % 16 = 0 := RoundTrip.inner0 q0 16 16 1 rfl
  rw [major35 q4]
  rw [decode23, e1]
  change readMset wd = _
  unfold readMset
  rw [RoundTrip.field d q3, RoundTrip.field m q1]
  have hd := d.isLt
  have hm := m.isLt
  rw [q2, q3, e4]
  rw [if_pos (by omega)]
  rw [if_pos (by omega)]

theorem RoundTrip.mclr (d : BitVec 5) (m : BitVec 3) : RoundTrip.Statement (.mclr d m) := by
  obtain ⟨wd, hn⟩ : ∃ wd, wd = 2348810251 + d.toNat * 2097152 + m.toNat * 256 := ⟨_, rfl⟩
  obtain ⟨hlt, q0, q1, q2, q3, q4⟩ := layout18 (show 11 < 256 by decide) m.isLt (show 0 < 1024 by decide) d.isLt (show 35 < 64 by decide) (hn.trans (by omega))
  refine RoundTrip.ofWord (n := wd) (by exact (by decide : 138 < 232)) (hn ▸ rfl) hlt (fun hw => ?_)
  clear hn
  replace hw : d.toNat ≤ 7 := of_decide_eq_true hw
  have e1 : wd % 16 = 11 := RoundTrip.low0 q0 16 16 rfl
  have e4 : wd / 16 % 16 = 0 := RoundTrip.inner0 q0 16 16 1 rfl
  rw [major35 q4]
  rw [decode23, e1]
  change readMclr wd = _
  unfold readMclr
  rw [RoundTrip.field d q3, RoundTrip.field m q1]
  have hd := d.isLt
  have hm := m.isLt
  rw [q2, q3, e4]
  rw [if_pos (by omega)]
  rw [if_pos (by omega)]

theorem RoundTrip.vpopc (d : BitVec 5) (a : BitVec 5) (m : BitVec 3) : RoundTrip.Statement (.vpopc d a m) := by
  obtain ⟨wd, hn⟩ : ∃ wd, wd = 2348810252 + d.toNat * 2097152 + a.toNat * 65536 + m.toNat * 256 := ⟨_, rfl⟩
  obtain ⟨hlt, q0, q1, q2, q3, q4, q5⟩ := layout17 (show 12 < 256 by decide) m.isLt (show 0 < 32 by decide) a.isLt d.isLt (show 35 < 64 by decide) (hn.trans (by omega))
  refine RoundTrip.ofWord (n := wd) (by exact (by decide : 139 < 232)) (hn ▸ rfl) hlt (fun hw => ?_)
  clear hn
  replace hw : a.toNat ≤ 7 := of_decide_eq_true hw
  have e1 : wd % 16 = 12 := RoundTrip.low0 q0 16 16 rfl
  have e4 : wd / 16 % 16 = 0 := RoundTrip.inner0 q0 16 16 1 rfl
  rw [major35 q5]
  rw [decode23, e1]
  change readVpopc wd = _
  unfold readVpopc
  rw [RoundTrip.field d q4, RoundTrip.field a q3, RoundTrip.field m q1]
  have hd := d.isLt
  have ha := a.isLt
  have hm := m.isLt
  rw [q2, q3, e4]
  rw [if_pos (by omega)]
  rw [if_pos (by omega)]

theorem RoundTrip.vfirst (d : BitVec 5) (a : BitVec 5) (m : BitVec 3) : RoundTrip.Statement (.vfirst d a m) := by
  obtain ⟨wd, hn⟩ : ∃ wd, wd = 2348810253 + d.toNat * 2097152 + a.toNat * 65536 + m.toNat * 256 := ⟨_, rfl⟩
  obtain ⟨hlt, q0, q1, q2, q3, q4, q5⟩ := layout17 (show 13 < 256 by decide) m.isLt (show 0 < 32 by decide) a.isLt d.isLt (show 35 < 64 by decide) (hn.trans (by omega))
  refine RoundTrip.ofWord (n := wd) (by exact (by decide : 140 < 232)) (hn ▸ rfl) hlt (fun hw => ?_)
  clear hn
  replace hw : a.toNat ≤ 7 := of_decide_eq_true hw
  have e1 : wd % 16 = 13 := RoundTrip.low0 q0 16 16 rfl
  have e4 : wd / 16 % 16 = 0 := RoundTrip.inner0 q0 16 16 1 rfl
  rw [major35 q5]
  rw [decode23, e1]
  change readVfirst wd = _
  unfold readVfirst
  rw [RoundTrip.field d q4, RoundTrip.field a q3, RoundTrip.field m q1]
  have hd := d.isLt
  have ha := a.isLt
  have hm := m.isLt
  rw [q2, q3, e4]
  rw [if_pos (by omega)]
  rw [if_pos (by omega)]

theorem layout19 {n x0 x1 x2 x3 x4 x5 x6 x7 : Nat} (h0 : x0 < 16) (h1 : x1 < 16) (h2 : x2 < 8) (h3 : x3 < 16) (h4 : x4 < 2) (h5 : x5 < 32) (h6 : x6 < 32) (h7 : x7 < 64)
    (e : n = x0 + x1 * 16 + x2 * 256 + x3 * 2048 + x4 * 32768 + x5 * 65536 + x6 * 2097152 + x7 * 67108864) : n < 4294967296 ∧ n % 16 = x0 ∧ n / 16 % 16 = x1 ∧ n / 256 % 8 = x2 ∧ n / 2048 % 16 = x3 ∧ n / 32768 % 2 = x4 ∧ n / 65536 % 32 = x5 ∧ n / 2097152 % 32 = x6 ∧ n / 67108864 = x7 :=
  ⟨by omega, by omega, by omega, by omega, by omega, by omega, by omega, by omega, by omega⟩

theorem RoundTrip.vcvt (d : BitVec 5) (a : BitVec 5) (r : BitVec 1) (s : BitVec 4) (m : BitVec 3) (t : BitVec 4) : RoundTrip.Statement (.vcvt d a r s m t) := by
  obtain ⟨wd, hn⟩ : ∃ wd, wd = 2415919104 + d.toNat * 2097152 + a.toNat * 65536 + r.toNat * 32768 + s.toNat * 2048 + m.toNat * 256 + t.toNat * 16 := ⟨_, rfl⟩
  obtain ⟨hlt, q0, q1, q2, q3, q4, q5, q6, q7⟩ := layout19 (show 0 < 16 by decide) t.isLt m.isLt s.isLt r.isLt a.isLt d.isLt (show 36 < 64 by decide) (hn.trans (by omega))
  refine RoundTrip.ofWord (n := wd) (by exact (by decide : 141 < 232)) (hn ▸ rfl) hlt (fun hw => ?_)
  clear hn
  replace hw : (r.toNat = 0 ∨ (t.toNat ≤ 7 ∧ 8 ≤ s.toNat)) ∧ (typeLog2 t.toNat = typeLog2 s.toNat ∨ d.toNat ≠ a.toNat) ∧ (t.toNat ≤ 12 ∨ t.toNat = 14) ∧ (s.toNat ≤ 12 ∨ s.toNat = 14) := of_decide_eq_true hw
  rw [major36 q7]
  rw [decode24, q0]
  change readVcvt wd = _
  unfold readVcvt
  rw [RoundTrip.field d q6, RoundTrip.field a q5, RoundTrip.field r q4, RoundTrip.field s q3, RoundTrip.field m q2, RoundTrip.field t q1]
  have hd := d.isLt
  have ha := a.isLt
  have hr := r.isLt
  have hs := s.isLt
  have hm := m.isLt
  have ht := t.isLt
  rw [q4, q1, q3, q6, q5]
  rw [if_pos (by omega)]
  rw [if_pos (by omega)]

theorem RoundTrip.vfrac (d : BitVec 5) (a : BitVec 5) (m : BitVec 3) (t : BitVec 4) : RoundTrip.Statement (.vfrac d a m t) := by
  obtain ⟨wd, hn⟩ : ∃ wd, wd = 2415919105 + d.toNat * 2097152 + a.toNat * 65536 + m.toNat * 256 + t.toNat * 16 := ⟨_, rfl⟩
  obtain ⟨hlt, q0, q1, q2, q3, q4, q5, q6⟩ := layout15 (show 1 < 16 by decide) t.isLt m.isLt (show 0 < 32 by decide) a.isLt d.isLt (show 36 < 64 by decide) (hn.trans (by omega))
  refine RoundTrip.ofWord (n := wd) (by exact (by decide : 142 < 232)) (hn ▸ rfl) hlt (fun hw => ?_)
  clear hn
  replace hw : ((8 ≤ t.toNat ∧ t.toNat ≤ 10)) := of_decide_eq_true hw
  rw [major36 q6]
  rw [decode24, q0]
  change readVfrac wd = _
  unfold readVfrac
  rw [RoundTrip.field d q5, RoundTrip.field a q4, RoundTrip.field m q2, RoundTrip.field t q1]
  have hd := d.isLt
  have ha := a.isLt
  have hm := m.isLt
  have ht := t.isLt
  rw [q3, q1]
  rw [if_pos (by omega)]
  rw [if_pos (by omega)]

theorem RoundTrip.vclass (d : BitVec 5) (a : BitVec 5) (m : BitVec 3) (t : BitVec 4) : RoundTrip.Statement (.vclass d a m t) := by
  obtain ⟨wd, hn⟩ : ∃ wd, wd = 2415919106 + d.toNat * 2097152 + a.toNat * 65536 + m.toNat * 256 + t.toNat * 16 := ⟨_, rfl⟩
  obtain ⟨hlt, q0, q1, q2, q3, q4, q5, q6⟩ := layout15 (show 2 < 16 by decide) t.isLt m.isLt (show 0 < 32 by decide) a.isLt d.isLt (show 36 < 64 by decide) (hn.trans (by omega))
  refine RoundTrip.ofWord (n := wd) (by exact (by decide : 143 < 232)) (hn ▸ rfl) hlt (fun hw => ?_)
  clear hn
  replace hw : ((8 ≤ t.toNat ∧ t.toNat ≤ 10)) := of_decide_eq_true hw
  rw [major36 q6]
  rw [decode24, q0]
  change readVclass wd = _
  unfold readVclass
  rw [RoundTrip.field d q5, RoundTrip.field a q4, RoundTrip.field m q2, RoundTrip.field t q1]
  have hd := d.isLt
  have ha := a.isLt
  have hm := m.isLt
  have ht := t.isLt
  rw [q3, q1]
  rw [if_pos (by omega)]
  rw [if_pos (by omega)]

theorem RoundTrip.vmvV (d : BitVec 5) (a : BitVec 5) (m : BitVec 3) (t : BitVec 4) : RoundTrip.Statement (.vmvV d a m t) := by
  obtain ⟨wd, hn⟩ : ∃ wd, wd = 2415919107 + d.toNat * 2097152 + a.toNat * 65536 + m.toNat * 256 + t.toNat * 16 := ⟨_, rfl⟩
  obtain ⟨hlt, q0, q1, q2, q3, q4, q5, q6⟩ := layout15 (show 3 < 16 by decide) t.isLt m.isLt (show 0 < 32 by decide) a.isLt d.isLt (show 36 < 64 by decide) (hn.trans (by omega))
  refine RoundTrip.ofWord (n := wd) (by exact (by decide : 144 < 232)) (hn ▸ rfl) hlt (fun hw => ?_)
  clear hn
  replace hw : (t.toNat ≤ 12 ∨ t.toNat = 14) := of_decide_eq_true hw
  rw [major36 q6]
  rw [decode24, q0]
  change readVmvV wd = _
  unfold readVmvV
  rw [RoundTrip.field d q5, RoundTrip.field a q4, RoundTrip.field m q2, RoundTrip.field t q1]
  have hd := d.isLt
  have ha := a.isLt
  have hm := m.isLt
  have ht := t.isLt
  rw [q3, q1]
  rw [if_pos (by omega)]
  rw [if_pos (by omega)]

theorem RoundTrip.vmvX (d : BitVec 5) (b : BitVec 5) (m : BitVec 3) (t : BitVec 4) : RoundTrip.Statement (.vmvX d b m t) := by
  obtain ⟨wd, hn⟩ : ∃ wd, wd = 2415919108 + d.toNat * 2097152 + b.toNat * 2048 + m.toNat * 256 + t.toNat * 16 := ⟨_, rfl⟩
  obtain ⟨hlt, q0, q1, q2, q3, q4, q5, q6⟩ := layout15 (show 4 < 16 by decide) t.isLt m.isLt b.isLt (show 0 < 32 by decide) d.isLt (show 36 < 64 by decide) (hn.trans (by omega))
  refine RoundTrip.ofWord (n := wd) (by exact (by decide : 145 < 232)) (hn ▸ rfl) hlt (fun hw => ?_)
  clear hn
  replace hw : (t.toNat ≤ 12 ∨ t.toNat = 14) := of_decide_eq_true hw
  rw [major36 q6]
  rw [decode24, q0]
  change readVmvX wd = _
  unfold readVmvX
  rw [RoundTrip.field d q5, RoundTrip.field b q3, RoundTrip.field m q2, RoundTrip.field t q1]
  have hd := d.isLt
  have hb := b.isLt
  have hm := m.isLt
  have ht := t.isLt
  rw [q4, q1]
  rw [if_pos (by omega)]
  rw [if_pos (by omega)]

theorem layout20 {n x0 x1 x2 x3 x4 x5 : Nat} (h0 : x0 < 16) (h1 : x1 < 16) (h2 : x2 < 8) (h3 : x3 < 1024) (h4 : x4 < 32) (h5 : x5 < 64)
    (e : n = x0 + x1 * 16 + x2 * 256 + x3 * 2048 + x4 * 2097152 + x5 * 67108864) : n < 4294967296 ∧ n % 16 = x0 ∧ n / 16 % 16 = x1 ∧ n / 256 % 8 = x2 ∧ n / 2048 % 1024 = x3 ∧ n / 2097152 % 32 = x4 ∧ n / 67108864 = x5 :=
  ⟨by omega, by omega, by omega, by omega, by omega, by omega, by omega⟩

theorem RoundTrip.vid (d : BitVec 5) (m : BitVec 3) (t : BitVec 4) : RoundTrip.Statement (.vid d m t) := by
  obtain ⟨wd, hn⟩ : ∃ wd, wd = 2415919109 + d.toNat * 2097152 + m.toNat * 256 + t.toNat * 16 := ⟨_, rfl⟩
  obtain ⟨hlt, q0, q1, q2, q3, q4, q5⟩ := layout20 (show 5 < 16 by decide) t.isLt m.isLt (show 0 < 1024 by decide) d.isLt (show 36 < 64 by decide) (hn.trans (by omega))
  refine RoundTrip.ofWord (n := wd) (by exact (by decide : 146 < 232)) (hn ▸ rfl) hlt (fun hw => ?_)
  clear hn
  replace hw : (t.toNat ≤ 7) := of_decide_eq_true hw
  rw [major36 q5]
  rw [decode24, q0]
  change readVid wd = _
  unfold readVid
  rw [RoundTrip.field d q4, RoundTrip.field m q2, RoundTrip.field t q1]
  have hd := d.isLt
  have hm := m.isLt
  have ht := t.isLt
  rw [q3, q1]
  rw [if_pos (by omega)]
  rw [if_pos (by omega)]

theorem RoundTrip.viota (d : BitVec 5) (a : BitVec 5) (m : BitVec 3) (t : BitVec 4) : RoundTrip.Statement (.viota d a m t) := by
  obtain ⟨wd, hn⟩ : ∃ wd, wd = 2415919110 + d.toNat * 2097152 + a.toNat * 65536 + m.toNat * 256 + t.toNat * 16 := ⟨_, rfl⟩
  obtain ⟨hlt, q0, q1, q2, q3, q4, q5, q6⟩ := layout15 (show 6 < 16 by decide) t.isLt m.isLt (show 0 < 32 by decide) a.isLt d.isLt (show 36 < 64 by decide) (hn.trans (by omega))
  refine RoundTrip.ofWord (n := wd) (by exact (by decide : 147 < 232)) (hn ▸ rfl) hlt (fun hw => ?_)
  clear hn
  replace hw : a.toNat ≤ 7 ∧ (t.toNat ≤ 7) := of_decide_eq_true hw
  rw [major36 q6]
  rw [decode24, q0]
  change readViota wd = _
  unfold readViota
  rw [RoundTrip.field d q5, RoundTrip.field a q4, RoundTrip.field m q2, RoundTrip.field t q1]
  have hd := d.isLt
  have ha := a.isLt
  have hm := m.isLt
  have ht := t.isLt
  rw [q3, q4, q1]
  rw [if_pos (by omega)]
  rw [if_pos (by omega)]

theorem layout21 {n x0 x1 x2 x3 x4 x5 x6 x7 : Nat} (h0 : x0 < 16) (h1 : x1 < 16) (h2 : x2 < 8) (h3 : x3 < 4) (h4 : x4 < 8) (h5 : x5 < 32) (h6 : x6 < 32) (h7 : x7 < 64)
    (e : n = x0 + x1 * 16 + x2 * 256 + x3 * 2048 + x4 * 8192 + x5 * 65536 + x6 * 2097152 + x7 * 67108864) : n < 4294967296 ∧ n % 16 = x0 ∧ n / 16 % 16 = x1 ∧ n / 256 % 8 = x2 ∧ n / 2048 % 4 = x3 ∧ n / 8192 % 8 = x4 ∧ n / 65536 % 32 = x5 ∧ n / 2097152 % 32 = x6 ∧ n / 67108864 = x7 :=
  ⟨by omega, by omega, by omega, by omega, by omega, by omega, by omega, by omega, by omega⟩

theorem RoundTrip.vredo (a : BitVec 5) (h : BitVec 2) (m : BitVec 3) (t : BitVec 4) : RoundTrip.Statement (.vredo a h m t) := by
  obtain ⟨wd, hn⟩ : ∃ wd, wd = 2483027968 + a.toNat * 65536 + h.toNat * 2048 + m.toNat * 256 + t.toNat * 16 := ⟨_, rfl⟩
  obtain ⟨hlt, q0, q1, q2, q3, q4, q5, q6, q7⟩ := layout21 (show 0 < 16 by decide) t.isLt m.isLt h.isLt (show 0 < 8 by decide) a.isLt (show 0 < 32 by decide) (show 37 < 64 by decide) (hn.trans (by omega))
  refine RoundTrip.ofWord (n := wd) (by exact (by decide : 148 < 232)) (hn ▸ rfl) hlt (fun hw => ?_)
  clear hn
  replace hw : (t.toNat ≤ 10) := of_decide_eq_true hw
  rw [major37 q7]
  rw [decode25, q0]
  change readVredo wd = _
  unfold readVredo
  rw [RoundTrip.field a q5, RoundTrip.field h q3, RoundTrip.field m q2, RoundTrip.field t q1]
  have ha := a.isLt
  have hh := h.isLt
  have hm := m.isLt
  have ht := t.isLt
  rw [q4, q6, q1]
  rw [if_pos (by omega)]
  rw [if_pos (by omega)]

theorem RoundTrip.vredt (a : BitVec 5) (h : BitVec 2) (m : BitVec 3) (t : BitVec 4) : RoundTrip.Statement (.vredt a h m t) := by
  obtain ⟨wd, hn⟩ : ∃ wd, wd = 2483027969 + a.toNat * 65536 + h.toNat * 2048 + m.toNat * 256 + t.toNat * 16 := ⟨_, rfl⟩
  obtain ⟨hlt, q0, q1, q2, q3, q4, q5, q6, q7⟩ := layout21 (show 1 < 16 by decide) t.isLt m.isLt h.isLt (show 0 < 8 by decide) a.isLt (show 0 < 32 by decide) (show 37 < 64 by decide) (hn.trans (by omega))
  refine RoundTrip.ofWord (n := wd) (by exact (by decide : 149 < 232)) (hn ▸ rfl) hlt (fun hw => ?_)
  clear hn
  replace hw : (t.toNat ≤ 10) := of_decide_eq_true hw
  rw [major37 q7]
  rw [decode25, q0]
  change readVredt wd = _
  unfold readVredt
  rw [RoundTrip.field a q5, RoundTrip.field h q3, RoundTrip.field m q2, RoundTrip.field t q1]
  have ha := a.isLt
  have hh := h.isLt
  have hm := m.isLt
  have ht := t.isLt
  rw [q4, q6, q1]
  rw [if_pos (by omega)]
  rw [if_pos (by omega)]

theorem RoundTrip.vredmax (a : BitVec 5) (h : BitVec 2) (m : BitVec 3) (t : BitVec 4) : RoundTrip.Statement (.vredmax a h m t) := by
  obtain ⟨wd, hn⟩ : ∃ wd, wd = 2483027970 + a.toNat * 65536 + h.toNat * 2048 + m.toNat * 256 + t.toNat * 16 := ⟨_, rfl⟩
  obtain ⟨hlt, q0, q1, q2, q3, q4, q5, q6, q7⟩ := layout21 (show 2 < 16 by decide) t.isLt m.isLt h.isLt (show 0 < 8 by decide) a.isLt (show 0 < 32 by decide) (show 37 < 64 by decide) (hn.trans (by omega))
  refine RoundTrip.ofWord (n := wd) (by exact (by decide : 150 < 232)) (hn ▸ rfl) hlt (fun hw => ?_)
  clear hn
  replace hw : (t.toNat ≤ 10) := of_decide_eq_true hw
  rw [major37 q7]
  rw [decode25, q0]
  change readVredmax wd = _
  unfold readVredmax
  rw [RoundTrip.field a q5, RoundTrip.field h q3, RoundTrip.field m q2, RoundTrip.field t q1]
  have ha := a.isLt
  have hh := h.isLt
  have hm := m.isLt
  have ht := t.isLt
  rw [q4, q6, q1]
  rw [if_pos (by omega)]
  rw [if_pos (by omega)]

theorem RoundTrip.vredmin (a : BitVec 5) (h : BitVec 2) (m : BitVec 3) (t : BitVec 4) : RoundTrip.Statement (.vredmin a h m t) := by
  obtain ⟨wd, hn⟩ : ∃ wd, wd = 2483027971 + a.toNat * 65536 + h.toNat * 2048 + m.toNat * 256 + t.toNat * 16 := ⟨_, rfl⟩
  obtain ⟨hlt, q0, q1, q2, q3, q4, q5, q6, q7⟩ := layout21 (show 3 < 16 by decide) t.isLt m.isLt h.isLt (show 0 < 8 by decide) a.isLt (show 0 < 32 by decide) (show 37 < 64 by decide) (hn.trans (by omega))
  refine RoundTrip.ofWord (n := wd) (by exact (by decide : 151 < 232)) (hn ▸ rfl) hlt (fun hw => ?_)
  clear hn
  replace hw : (t.toNat ≤ 10) := of_decide_eq_true hw
  rw [major37 q7]
  rw [decode25, q0]
  change readVredmin wd = _
  unfold readVredmin
  rw [RoundTrip.field a q5, RoundTrip.field h q3, RoundTrip.field m q2, RoundTrip.field t q1]
  have ha := a.isLt
  have hh := h.isLt
  have hm := m.isLt
  have ht := t.isLt
  rw [q4, q6, q1]
  rw [if_pos (by omega)]
  rw [if_pos (by omega)]

theorem RoundTrip.vredand (a : BitVec 5) (h : BitVec 2) (m : BitVec 3) (t : BitVec 4) : RoundTrip.Statement (.vredand a h m t) := by
  obtain ⟨wd, hn⟩ : ∃ wd, wd = 2483027972 + a.toNat * 65536 + h.toNat * 2048 + m.toNat * 256 + t.toNat * 16 := ⟨_, rfl⟩
  obtain ⟨hlt, q0, q1, q2, q3, q4, q5, q6, q7⟩ := layout21 (show 4 < 16 by decide) t.isLt m.isLt h.isLt (show 0 < 8 by decide) a.isLt (show 0 < 32 by decide) (show 37 < 64 by decide) (hn.trans (by omega))
  refine RoundTrip.ofWord (n := wd) (by exact (by decide : 152 < 232)) (hn ▸ rfl) hlt (fun hw => ?_)
  clear hn
  replace hw : (t.toNat ≤ 7) := of_decide_eq_true hw
  rw [major37 q7]
  rw [decode25, q0]
  change readVredand wd = _
  unfold readVredand
  rw [RoundTrip.field a q5, RoundTrip.field h q3, RoundTrip.field m q2, RoundTrip.field t q1]
  have ha := a.isLt
  have hh := h.isLt
  have hm := m.isLt
  have ht := t.isLt
  rw [q4, q6, q1]
  rw [if_pos (by omega)]
  rw [if_pos (by omega)]

theorem RoundTrip.vredor (a : BitVec 5) (h : BitVec 2) (m : BitVec 3) (t : BitVec 4) : RoundTrip.Statement (.vredor a h m t) := by
  obtain ⟨wd, hn⟩ : ∃ wd, wd = 2483027973 + a.toNat * 65536 + h.toNat * 2048 + m.toNat * 256 + t.toNat * 16 := ⟨_, rfl⟩
  obtain ⟨hlt, q0, q1, q2, q3, q4, q5, q6, q7⟩ := layout21 (show 5 < 16 by decide) t.isLt m.isLt h.isLt (show 0 < 8 by decide) a.isLt (show 0 < 32 by decide) (show 37 < 64 by decide) (hn.trans (by omega))
  refine RoundTrip.ofWord (n := wd) (by exact (by decide : 153 < 232)) (hn ▸ rfl) hlt (fun hw => ?_)
  clear hn
  replace hw : (t.toNat ≤ 7) := of_decide_eq_true hw
  rw [major37 q7]
  rw [decode25, q0]
  change readVredor wd = _
  unfold readVredor
  rw [RoundTrip.field a q5, RoundTrip.field h q3, RoundTrip.field m q2, RoundTrip.field t q1]
  have ha := a.isLt
  have hh := h.isLt
  have hm := m.isLt
  have ht := t.isLt
  rw [q4, q6, q1]
  rw [if_pos (by omega)]
  rw [if_pos (by omega)]

theorem RoundTrip.vredxor (a : BitVec 5) (h : BitVec 2) (m : BitVec 3) (t : BitVec 4) : RoundTrip.Statement (.vredxor a h m t) := by
  obtain ⟨wd, hn⟩ : ∃ wd, wd = 2483027974 + a.toNat * 65536 + h.toNat * 2048 + m.toNat * 256 + t.toNat * 16 := ⟨_, rfl⟩
  obtain ⟨hlt, q0, q1, q2, q3, q4, q5, q6, q7⟩ := layout21 (show 6 < 16 by decide) t.isLt m.isLt h.isLt (show 0 < 8 by decide) a.isLt (show 0 < 32 by decide) (show 37 < 64 by decide) (hn.trans (by omega))
  refine RoundTrip.ofWord (n := wd) (by exact (by decide : 154 < 232)) (hn ▸ rfl) hlt (fun hw => ?_)
  clear hn
  replace hw : (t.toNat ≤ 7) := of_decide_eq_true hw
  rw [major37 q7]
  rw [decode25, q0]
  change readVredxor wd = _
  unfold readVredxor
  rw [RoundTrip.field a q5, RoundTrip.field h q3, RoundTrip.field m q2, RoundTrip.field t q1]
  have ha := a.isLt
  have hh := h.isLt
  have hm := m.isLt
  have ht := t.isLt
  rw [q4, q6, q1]
  rw [if_pos (by omega)]
  rw [if_pos (by omega)]

theorem RoundTrip.vscan (d : BitVec 5) (a : BitVec 5) (h : BitVec 2) (m : BitVec 3) (t : BitVec 4) : RoundTrip.Statement (.vscan d a h m t) := by
  obtain ⟨wd, hn⟩ : ∃ wd, wd = 2483027975 + d.toNat * 2097152 + a.toNat * 65536 + h.toNat * 2048 + m.toNat * 256 + t.toNat * 16 := ⟨_, rfl⟩
  obtain ⟨hlt, q0, q1, q2, q3, q4, q5, q6, q7⟩ := layout21 (show 7 < 16 by decide) t.isLt m.isLt h.isLt (show 0 < 8 by decide) a.isLt d.isLt (show 37 < 64 by decide) (hn.trans (by omega))
  refine RoundTrip.ofWord (n := wd) (by exact (by decide : 155 < 232)) (hn ▸ rfl) hlt (fun hw => ?_)
  clear hn
  replace hw : (t.toNat ≤ 10) := of_decide_eq_true hw
  rw [major37 q7]
  rw [decode25, q0]
  change readVscan wd = _
  unfold readVscan
  rw [RoundTrip.field d q6, RoundTrip.field a q5, RoundTrip.field h q3, RoundTrip.field m q2, RoundTrip.field t q1]
  have hd := d.isLt
  have ha := a.isLt
  have hh := h.isLt
  have hm := m.isLt
  have ht := t.isLt
  rw [q4, q1]
  rw [if_pos (by omega)]
  rw [if_pos (by omega)]

theorem RoundTrip.vscanx (d : BitVec 5) (a : BitVec 5) (h : BitVec 2) (m : BitVec 3) (t : BitVec 4) : RoundTrip.Statement (.vscanx d a h m t) := by
  obtain ⟨wd, hn⟩ : ∃ wd, wd = 2483027976 + d.toNat * 2097152 + a.toNat * 65536 + h.toNat * 2048 + m.toNat * 256 + t.toNat * 16 := ⟨_, rfl⟩
  obtain ⟨hlt, q0, q1, q2, q3, q4, q5, q6, q7⟩ := layout21 (show 8 < 16 by decide) t.isLt m.isLt h.isLt (show 0 < 8 by decide) a.isLt d.isLt (show 37 < 64 by decide) (hn.trans (by omega))
  refine RoundTrip.ofWord (n := wd) (by exact (by decide : 156 < 232)) (hn ▸ rfl) hlt (fun hw => ?_)
  clear hn
  replace hw : (t.toNat ≤ 10) := of_decide_eq_true hw
  rw [major37 q7]
  rw [decode25, q0]
  change readVscanx wd = _
  unfold readVscanx
  rw [RoundTrip.field d q6, RoundTrip.field a q5, RoundTrip.field h q3, RoundTrip.field m q2, RoundTrip.field t q1]
  have hd := d.isLt
  have ha := a.isLt
  have hh := h.isLt
  have hm := m.isLt
  have ht := t.isLt
  rw [q4, q1]
  rw [if_pos (by omega)]
  rw [if_pos (by omega)]

theorem layout22 {n x0 x1 x2 x3 x4 x5 x6 : Nat} (h0 : x0 < 16) (h1 : x1 < 16) (h2 : x2 < 8) (h3 : x3 < 4) (h4 : x4 < 256) (h5 : x5 < 32) (h6 : x6 < 64)
    (e : n = x0 + x1 * 16 + x2 * 256 + x3 * 2048 + x4 * 8192 + x5 * 2097152 + x6 * 67108864) : n < 4294967296 ∧ n % 16 = x0 ∧ n / 16 % 16 = x1 ∧ n / 256 % 8 = x2 ∧ n / 2048 % 4 = x3 ∧ n / 8192 % 256 = x4 ∧ n / 2097152 % 32 = x5 ∧ n / 67108864 = x6 :=
  ⟨by omega, by omega, by omega, by omega, by omega, by omega, by omega, by omega⟩

theorem RoundTrip.vhrd (d : BitVec 5) (h : BitVec 2) (t : BitVec 4) : RoundTrip.Statement (.vhrd d h t) := by
  obtain ⟨wd, hn⟩ : ∃ wd, wd = 2483027977 + d.toNat * 2097152 + h.toNat * 2048 + t.toNat * 16 := ⟨_, rfl⟩
  obtain ⟨hlt, q0, q1, q2, q3, q4, q5, q6⟩ := layout22 (show 9 < 16 by decide) t.isLt (show 0 < 8 by decide) h.isLt (show 0 < 256 by decide) d.isLt (show 37 < 64 by decide) (hn.trans (by omega))
  refine RoundTrip.ofWord (n := wd) (by exact (by decide : 157 < 232)) (hn ▸ rfl) hlt (fun hw => ?_)
  clear hn
  replace hw : (t.toNat ≤ 10) := of_decide_eq_true hw
  rw [major37 q6]
  rw [decode25, q0]
  change readVhrd wd = _
  unfold readVhrd
  rw [RoundTrip.field d q5, RoundTrip.field h q3, RoundTrip.field t q1]
  have hd := d.isLt
  have hh := h.isLt
  have ht := t.isLt
  rw [q2, q4, q1]
  rw [if_pos (by omega)]
  rw [if_pos (by omega)]

theorem layout23 {n x0 x1 x2 x3 : Nat} (h0 : x0 < 2048) (h1 : x1 < 4) (h2 : x2 < 8192) (h3 : x3 < 64)
    (e : n = x0 + x1 * 2048 + x2 * 8192 + x3 * 67108864) : n < 4294967296 ∧ n % 2048 = x0 ∧ n / 2048 % 4 = x1 ∧ n / 8192 % 8192 = x2 ∧ n / 67108864 = x3 :=
  ⟨by omega, by omega, by omega, by omega, by omega⟩

theorem RoundTrip.vhclr (h : BitVec 2) : RoundTrip.Statement (.vhclr h) := by
  obtain ⟨wd, hn⟩ : ∃ wd, wd = 2483027978 + h.toNat * 2048 := ⟨_, rfl⟩
  obtain ⟨hlt, q0, q1, q2, q3⟩ := layout23 (show 10 < 2048 by decide) h.isLt (show 0 < 8192 by decide) (show 37 < 64 by decide) (hn.trans (by omega))
  refine RoundTrip.ofWord (n := wd) (by exact (by decide : 158 < 232)) (hn ▸ rfl) hlt (fun hw => ?_)
  clear hn
  have e1 : wd % 16 = 10 := RoundTrip.low0 q0 16 128 rfl
  have e2 : wd / 256 % 8 = 0 := RoundTrip.inner0 q0 256 8 1 rfl
  have e4 : wd / 16 % 16 = 0 := RoundTrip.inner0 q0 16 16 8 rfl
  rw [major37 q3]
  rw [decode25, e1]
  change readVhclr wd = _
  unfold readVhclr
  rw [RoundTrip.field h q1]
  have hh := h.isLt
  rw [e2, q2, e4]
  rw [if_pos (by omega)]
  rw [if_pos (by omega)]

theorem RoundTrip.vcompress (d : BitVec 5) (a : BitVec 5) (m : BitVec 3) (t : BitVec 4) : RoundTrip.Statement (.vcompress d a m t) := by
  obtain ⟨wd, hn⟩ : ∃ wd, wd = 2550136832 + d.toNat * 2097152 + a.toNat * 65536 + m.toNat * 256 + t.toNat * 16 := ⟨_, rfl⟩
  obtain ⟨hlt, q0, q1, q2, q3, q4, q5, q6⟩ := layout15 (show 0 < 16 by decide) t.isLt m.isLt (show 0 < 32 by decide) a.isLt d.isLt (show 38 < 64 by decide) (hn.trans (by omega))
  refine RoundTrip.ofWord (n := wd) (by exact (by decide : 159 < 232)) (hn ▸ rfl) hlt (fun hw => ?_)
  clear hn
  replace hw : d.toNat ≠ a.toNat ∧ (t.toNat ≤ 12 ∨ t.toNat = 14) := of_decide_eq_true hw
  rw [major38 q6]
  rw [decode26, q0]
  change readVcompress wd = _
  unfold readVcompress
  rw [RoundTrip.field d q5, RoundTrip.field a q4, RoundTrip.field m q2, RoundTrip.field t q1]
  have hd := d.isLt
  have ha := a.isLt
  have hm := m.isLt
  have ht := t.isLt
  rw [q3, q5, q4, q1]
  rw [if_pos (by omega)]
  rw [if_pos (by omega)]

theorem RoundTrip.vexpand (d : BitVec 5) (a : BitVec 5) (m : BitVec 3) (t : BitVec 4) : RoundTrip.Statement (.vexpand d a m t) := by
  obtain ⟨wd, hn⟩ : ∃ wd, wd = 2550136833 + d.toNat * 2097152 + a.toNat * 65536 + m.toNat * 256 + t.toNat * 16 := ⟨_, rfl⟩
  obtain ⟨hlt, q0, q1, q2, q3, q4, q5, q6⟩ := layout15 (show 1 < 16 by decide) t.isLt m.isLt (show 0 < 32 by decide) a.isLt d.isLt (show 38 < 64 by decide) (hn.trans (by omega))
  refine RoundTrip.ofWord (n := wd) (by exact (by decide : 160 < 232)) (hn ▸ rfl) hlt (fun hw => ?_)
  clear hn
  replace hw : d.toNat ≠ a.toNat ∧ (t.toNat ≤ 12 ∨ t.toNat = 14) := of_decide_eq_true hw
  rw [major38 q6]
  rw [decode26, q0]
  change readVexpand wd = _
  unfold readVexpand
  rw [RoundTrip.field d q5, RoundTrip.field a q4, RoundTrip.field m q2, RoundTrip.field t q1]
  have hd := d.isLt
  have ha := a.isLt
  have hm := m.isLt
  have ht := t.isLt
  rw [q3, q5, q4, q1]
  rw [if_pos (by omega)]
  rw [if_pos (by omega)]

theorem RoundTrip.vslideup (d : BitVec 5) (a : BitVec 5) (b : BitVec 5) (m : BitVec 3) (t : BitVec 4) : RoundTrip.Statement (.vslideup d a b m t) := by
  obtain ⟨wd, hn⟩ : ∃ wd, wd = 2550136834 + d.toNat * 2097152 + a.toNat * 65536 + b.toNat * 2048 + m.toNat * 256 + t.toNat * 16 := ⟨_, rfl⟩
  obtain ⟨hlt, q0, q1, q2, q3, q4, q5, q6⟩ := layout15 (show 2 < 16 by decide) t.isLt m.isLt b.isLt a.isLt d.isLt (show 38 < 64 by decide) (hn.trans (by omega))
  refine RoundTrip.ofWord (n := wd) (by exact (by decide : 161 < 232)) (hn ▸ rfl) hlt (fun hw => ?_)
  clear hn
  replace hw : d.toNat ≠ a.toNat ∧ (t.toNat ≤ 12 ∨ t.toNat = 14) := of_decide_eq_true hw
  rw [major38 q6]
  rw [decode26, q0]
  change readVslideup wd = _
  unfold readVslideup
  rw [RoundTrip.field d q5, RoundTrip.field a q4, RoundTrip.field b q3, RoundTrip.field m q2, RoundTrip.field t q1]
  have hd := d.isLt
  have ha := a.isLt
  have hb := b.isLt
  have hm := m.isLt
  have ht := t.isLt
  rw [q5, q4, q1]
  rw [if_pos (by omega)]
  rw [if_pos (by omega)]

theorem RoundTrip.vslidedn (d : BitVec 5) (a : BitVec 5) (b : BitVec 5) (m : BitVec 3) (t : BitVec 4) : RoundTrip.Statement (.vslidedn d a b m t) := by
  obtain ⟨wd, hn⟩ : ∃ wd, wd = 2550136835 + d.toNat * 2097152 + a.toNat * 65536 + b.toNat * 2048 + m.toNat * 256 + t.toNat * 16 := ⟨_, rfl⟩
  obtain ⟨hlt, q0, q1, q2, q3, q4, q5, q6⟩ := layout15 (show 3 < 16 by decide) t.isLt m.isLt b.isLt a.isLt d.isLt (show 38 < 64 by decide) (hn.trans (by omega))
  refine RoundTrip.ofWord (n := wd) (by exact (by decide : 162 < 232)) (hn ▸ rfl) hlt (fun hw => ?_)
  clear hn
  replace hw : d.toNat ≠ a.toNat ∧ (t.toNat ≤ 12 ∨ t.toNat = 14) := of_decide_eq_true hw
  rw [major38 q6]
  rw [decode26, q0]
  change readVslidedn wd = _
  unfold readVslidedn
  rw [RoundTrip.field d q5, RoundTrip.field a q4, RoundTrip.field b q3, RoundTrip.field m q2, RoundTrip.field t q1]
  have hd := d.isLt
  have ha := a.isLt
  have hb := b.isLt
  have hm := m.isLt
  have ht := t.isLt
  rw [q5, q4, q1]
  rw [if_pos (by omega)]
  rw [if_pos (by omega)]

theorem RoundTrip.vperm (d : BitVec 5) (a : BitVec 5) (b : BitVec 5) (m : BitVec 3) (t : BitVec 4) : RoundTrip.Statement (.vperm d a b m t) := by
  obtain ⟨wd, hn⟩ : ∃ wd, wd = 2550136836 + d.toNat * 2097152 + a.toNat * 65536 + b.toNat * 2048 + m.toNat * 256 + t.toNat * 16 := ⟨_, rfl⟩
  obtain ⟨hlt, q0, q1, q2, q3, q4, q5, q6⟩ := layout15 (show 4 < 16 by decide) t.isLt m.isLt b.isLt a.isLt d.isLt (show 38 < 64 by decide) (hn.trans (by omega))
  refine RoundTrip.ofWord (n := wd) (by exact (by decide : 163 < 232)) (hn ▸ rfl) hlt (fun hw => ?_)
  clear hn
  replace hw : d.toNat ≠ a.toNat ∧ d.toNat ≠ b.toNat ∧ (t.toNat ≤ 12 ∨ t.toNat = 14) := of_decide_eq_true hw
  rw [major38 q6]
  rw [decode26, q0]
  change readVperm wd = _
  unfold readVperm
  rw [RoundTrip.field d q5, RoundTrip.field a q4, RoundTrip.field b q3, RoundTrip.field m q2, RoundTrip.field t q1]
  have hd := d.isLt
  have ha := a.isLt
  have hb := b.isLt
  have hm := m.isLt
  have ht := t.isLt
  rw [q5, q4, q3, q1]
  rw [if_pos (by omega)]
  rw [if_pos (by omega)]

theorem RoundTrip.vreshape (d : BitVec 5) (a : BitVec 5) (b : BitVec 5) (m : BitVec 3) (t : BitVec 4) : RoundTrip.Statement (.vreshape d a b m t) := by
  obtain ⟨wd, hn⟩ : ∃ wd, wd = 2550136837 + d.toNat * 2097152 + a.toNat * 65536 + b.toNat * 2048 + m.toNat * 256 + t.toNat * 16 := ⟨_, rfl⟩
  obtain ⟨hlt, q0, q1, q2, q3, q4, q5, q6⟩ := layout15 (show 5 < 16 by decide) t.isLt m.isLt b.isLt a.isLt d.isLt (show 38 < 64 by decide) (hn.trans (by omega))
  refine RoundTrip.ofWord (n := wd) (by exact (by decide : 164 < 232)) (hn ▸ rfl) hlt (fun hw => ?_)
  clear hn
  replace hw : d.toNat ≠ a.toNat ∧ (t.toNat ≤ 12 ∨ t.toNat = 14) := of_decide_eq_true hw
  rw [major38 q6]
  rw [decode26, q0]
  change readVreshape wd = _
  unfold readVreshape
  rw [RoundTrip.field d q5, RoundTrip.field a q4, RoundTrip.field b q3, RoundTrip.field m q2, RoundTrip.field t q1]
  have hd := d.isLt
  have ha := a.isLt
  have hb := b.isLt
  have hm := m.isLt
  have ht := t.isLt
  rw [q5, q4, q1]
  rw [if_pos (by omega)]
  rw [if_pos (by omega)]

theorem RoundTrip.vmovx (d : BitVec 5) (a : BitVec 5) (b : BitVec 5) (t : BitVec 4) : RoundTrip.Statement (.vmovx d a b t) := by
  obtain ⟨wd, hn⟩ : ∃ wd, wd = 2550136838 + d.toNat * 2097152 + a.toNat * 65536 + b.toNat * 2048 + t.toNat * 16 := ⟨_, rfl⟩
  obtain ⟨hlt, q0, q1, q2, q3, q4, q5, q6⟩ := layout15 (show 6 < 16 by decide) t.isLt (show 0 < 8 by decide) b.isLt a.isLt d.isLt (show 38 < 64 by decide) (hn.trans (by omega))
  refine RoundTrip.ofWord (n := wd) (by exact (by decide : 165 < 232)) (hn ▸ rfl) hlt (fun hw => ?_)
  clear hn
  replace hw : (t.toNat ≤ 12 ∨ t.toNat = 14) := of_decide_eq_true hw
  rw [major38 q6]
  rw [decode26, q0]
  change readVmovx wd = _
  unfold readVmovx
  rw [RoundTrip.field d q5, RoundTrip.field a q4, RoundTrip.field b q3, RoundTrip.field t q1]
  have hd := d.isLt
  have ha := a.isLt
  have hb := b.isLt
  have ht := t.isLt
  rw [q2, q1]
  rw [if_pos (by omega)]
  rw [if_pos (by omega)]

theorem RoundTrip.vins (d : BitVec 5) (a : BitVec 5) (b : BitVec 5) (m : BitVec 3) (t : BitVec 4) : RoundTrip.Statement (.vins d a b m t) := by
  obtain ⟨wd, hn⟩ : ∃ wd, wd = 2550136839 + d.toNat * 2097152 + a.toNat * 65536 + b.toNat * 2048 + m.toNat * 256 + t.toNat * 16 := ⟨_, rfl⟩
  obtain ⟨hlt, q0, q1, q2, q3, q4, q5, q6⟩ := layout15 (show 7 < 16 by decide) t.isLt m.isLt b.isLt a.isLt d.isLt (show 38 < 64 by decide) (hn.trans (by omega))
  refine RoundTrip.ofWord (n := wd) (by exact (by decide : 166 < 232)) (hn ▸ rfl) hlt (fun hw => ?_)
  clear hn
  replace hw : (t.toNat ≤ 12 ∨ t.toNat = 14) := of_decide_eq_true hw
  rw [major38 q6]
  rw [decode26, q0]
  change readVins wd = _
  unfold readVins
  rw [RoundTrip.field d q5, RoundTrip.field a q4, RoundTrip.field b q3, RoundTrip.field m q2, RoundTrip.field t q1]
  have hd := d.isLt
  have ha := a.isLt
  have hb := b.isLt
  have hm := m.isLt
  have ht := t.isLt
  rw [q1]
  rw [if_pos (by omega)]

theorem layout24 {n x0 x1 x2 x3 x4 x5 x6 x7 x8 x9 x10 : Nat} (h0 : x0 < 4) (h1 : x1 < 2) (h2 : x2 < 2) (h3 : x3 < 2) (h4 : x4 < 2) (h5 : x5 < 4) (h6 : x6 < 8) (h7 : x7 < 32) (h8 : x8 < 32) (h9 : x9 < 32) (h10 : x10 < 64)
    (e : n = x0 + x1 * 4 + x2 * 8 + x3 * 16 + x4 * 32 + x5 * 64 + x6 * 256 + x7 * 2048 + x8 * 65536 + x9 * 2097152 + x10 * 67108864) : n < 4294967296 ∧ n % 4 = x0 ∧ n / 4 % 2 = x1 ∧ n / 8 % 2 = x2 ∧ n / 16 % 2 = x3 ∧ n / 32 % 2 = x4 ∧ n / 64 % 4 = x5 ∧ n / 256 % 8 = x6 ∧ n / 2048 % 32 = x7 ∧ n / 65536 % 32 = x8 ∧ n / 2097152 % 32 = x9 ∧ n / 67108864 = x10 :=
  ⟨by omega, by omega, by omega, by omega, by omega, by omega, by omega, by omega, by omega, by omega, by omega, by omega⟩

theorem RoundTrip.vldUnit (d : BitVec 5) (a : BitVec 5) (m : BitVec 3) (u : BitVec 1) (f : BitVec 1) (b : BitVec 1) (s : BitVec 2) : RoundTrip.Statement (.vldUnit d a m u f b s) := by
  obtain ⟨wd, hn⟩ : ∃ wd, wd = 2617245696 + d.toNat * 2097152 + a.toNat * 65536 + m.toNat * 256 + u.toNat * 32 + f.toNat * 16 + b.toNat * 8 + s.toNat := ⟨_, rfl⟩
  obtain ⟨hlt, q0, q1, q2, q3, q4, q5, q6, q7, q8, q9, q10⟩ := layout24 s.isLt (show 0 < 2 by decide) b.isLt f.isLt u.isLt (show 0 < 4 by decide) m.isLt (show 0 < 32 by decide) a.isLt d.isLt (show 39 < 64 by decide) (hn.trans (by omega))
  refine RoundTrip.ofWord (n := wd) (by exact (by decide : 167 < 232)) (hn ▸ rfl) hlt (fun hw => ?_)
  clear hn
  have e3 : wd / 32768 % 2 = 0 := RoundTrip.inner q7 16 2 1 rfl
  rw [major39 q10]
  rw [show decode27 wd = readVldUnit wd by simp only [decode27, q1, q5, e3, reduceIte, ne_eq, not_true_eq_false, and_self, or_self, true_and, Nat.reduceEqDiff]]
  unfold readVldUnit
  rw [RoundTrip.field d q9, RoundTrip.field a q8, RoundTrip.field m q6, RoundTrip.field u q4, RoundTrip.field f q3, RoundTrip.field b q2, RoundTrip.field s q0]
  rw [if_pos q7]

theorem layout25 {n x0 x1 x2 x3 x4 x5 x6 x7 x8 x9 x10 x11 : Nat} (h0 : x0 < 4) (h1 : x1 < 2) (h2 : x2 < 2) (h3 : x3 < 2) (h4 : x4 < 2) (h5 : x5 < 4) (h6 : x6 < 8) (h7 : x7 < 16) (h8 : x8 < 2) (h9 : x9 < 32) (h10 : x10 < 32) (h11 : x11 < 64)
    (e : n = x0 + x1 * 4 + x2 * 8 + x3 * 16 + x4 * 32 + x5 * 64 + x6 * 256 + x7 * 2048 + x8 * 32768 + x9 * 65536 + x10 * 2097152 + x11 * 67108864) : n < 4294967296 ∧ n % 4 = x0 ∧ n / 4 % 2 = x1 ∧ n / 8 % 2 = x2 ∧ n / 16 % 2 = x3 ∧ n / 32 % 2 = x4 ∧ n / 64 % 4 = x5 ∧ n / 256 % 8 = x6 ∧ n / 2048 % 16 = x7 ∧ n / 32768 % 2 = x8 ∧ n / 65536 % 32 = x9 ∧ n / 2097152 % 32 = x10 ∧ n / 67108864 = x11 :=
  ⟨by omega, by omega, by omega, by omega, by omega, by omega, by omega, by omega, by omega, by omega, by omega, by omega, by omega⟩

theorem RoundTrip.vldConvert (d : BitVec 5) (a : BitVec 5) (t : BitVec 4) (m : BitVec 3) (u : BitVec 1) (f : BitVec 1) (b : BitVec 1) (s : BitVec 2) : RoundTrip.Statement (.vldConvert d a t m u f b s) := by
  obtain ⟨wd, hn⟩ : ∃ wd, wd = 2617278464 + d.toNat * 2097152 + a.toNat * 65536 + t.toNat * 2048 + m.toNat * 256 + u.toNat * 32 + f.toNat * 16 + b.toNat * 8 + s.toNat := ⟨_, rfl⟩
  obtain ⟨hlt, q0, q1, q2, q3, q4, q5, q6, q7, q8, q9, q10, q11⟩ := layout25 s.isLt (show 0 < 2 by decide) b.isLt f.isLt u.isLt (show 0 < 4 by decide) m.isLt t.isLt (show 1 < 2 by decide) a.isLt d.isLt (show 39 < 64 by decide) (hn.trans (by omega))
  refine RoundTrip.ofWord (n := wd) (by exact (by decide : 168 < 232)) (hn ▸ rfl) hlt (fun hw => ?_)
  clear hn
  replace hw : ((s.toNat = 1 ∧ (t.toNat = 8 ∨ t.toNat = 9)) ∨ (s.toNat = 2 ∧ t.toNat = 10)) := of_decide_eq_true hw
  rw [major39 q11]
  rw [show decode27 wd = readVldConvert wd by simp only [decode27, q1, q5, q8, reduceIte, ne_eq, not_true_eq_false, and_self, or_self, true_and, Nat.reduceEqDiff]]
  unfold readVldConvert
  rw [RoundTrip.field d q10, RoundTrip.field a q9, RoundTrip.field t q7, RoundTrip.field m q6, RoundTrip.field u q4, RoundTrip.field f q3, RoundTrip.field b q2, RoundTrip.field s q0]
  have hd := d.isLt
  have ha := a.isLt
  have ht := t.isLt
  have hm := m.isLt
  have hu := u.isLt
  have hf := f.isLt
  have hb := b.isLt
  have hs := s.isLt
  rw [q0, q7]
  rw [if_pos (by omega)]

theorem RoundTrip.vldStrided (d : BitVec 5) (a : BitVec 5) (c : BitVec 5) (m : BitVec 3) (u : BitVec 1) (f : BitVec 1) (b : BitVec 1) (s : BitVec 2) : RoundTrip.Statement (.vldStrided d a c m u f b s) := by
  obtain ⟨wd, hn⟩ : ∃ wd, wd = 2617245760 + d.toNat * 2097152 + a.toNat * 65536 + c.toNat * 2048 + m.toNat * 256 + u.toNat * 32 + f.toNat * 16 + b.toNat * 8 + s.toNat := ⟨_, rfl⟩
  obtain ⟨hlt, q0, q1, q2, q3, q4, q5, q6, q7, q8, q9, q10⟩ := layout24 s.isLt (show 0 < 2 by decide) b.isLt f.isLt u.isLt (show 1 < 4 by decide) m.isLt c.isLt a.isLt d.isLt (show 39 < 64 by decide) (hn.trans (by omega))
  refine RoundTrip.ofWord (n := wd) (by exact (by decide : 169 < 232)) (hn ▸ rfl) hlt (fun hw => ?_)
  clear hn
  rw [major39 q10]
  rw [show decode27 wd = readVldStrided wd by simp only [decode27, q1, q5, reduceIte, ne_eq, not_true_eq_false, and_self, or_self, true_and, Nat.reduceEqDiff]]
  unfold readVldStrided
  rw [RoundTrip.field d q9, RoundTrip.field a q8, RoundTrip.field c q7, RoundTrip.field m q6, RoundTrip.field u q4, RoundTrip.field f q3, RoundTrip.field b q2, RoundTrip.field s q0]

theorem RoundTrip.vldIndexed (d : BitVec 5) (a : BitVec 5) (c : BitVec 5) (m : BitVec 3) (u : BitVec 1) (f : BitVec 1) (b : BitVec 1) (s : BitVec 2) : RoundTrip.Statement (.vldIndexed d a c m u f b s) := by
  obtain ⟨wd, hn⟩ : ∃ wd, wd = 2617245824 + d.toNat * 2097152 + a.toNat * 65536 + c.toNat * 2048 + m.toNat * 256 + u.toNat * 32 + f.toNat * 16 + b.toNat * 8 + s.toNat := ⟨_, rfl⟩
  obtain ⟨hlt, q0, q1, q2, q3, q4, q5, q6, q7, q8, q9, q10⟩ := layout24 s.isLt (show 0 < 2 by decide) b.isLt f.isLt u.isLt (show 2 < 4 by decide) m.isLt c.isLt a.isLt d.isLt (show 39 < 64 by decide) (hn.trans (by omega))
  refine RoundTrip.ofWord (n := wd) (by exact (by decide : 170 < 232)) (hn ▸ rfl) hlt (fun hw => ?_)
  clear hn
  rw [major39 q10]
  rw [show decode27 wd = readVldIndexed wd by simp only [decode27, q1, q5, reduceIte, ne_eq, not_true_eq_false, and_self, or_self, true_and, Nat.reduceEqDiff]]
  unfold readVldIndexed
  rw [RoundTrip.field d q9, RoundTrip.field a q8, RoundTrip.field c q7, RoundTrip.field m q6, RoundTrip.field u q4, RoundTrip.field f q3, RoundTrip.field b q2, RoundTrip.field s q0]

theorem layout26 {n x0 x1 x2 x3 x4 x5 x6 x7 : Nat} (h0 : x0 < 4) (h1 : x1 < 2) (h2 : x2 < 2) (h3 : x3 < 2) (h4 : x4 < 2048) (h5 : x5 < 32) (h6 : x6 < 32) (h7 : x7 < 64)
    (e : n = x0 + x1 * 4 + x2 * 8 + x3 * 16 + x4 * 32 + x5 * 65536 + x6 * 2097152 + x7 * 67108864) : n < 4294967296 ∧ n % 4 = x0 ∧ n / 4 % 2 = x1 ∧ n / 8 % 2 = x2 ∧ n / 16 % 2 = x3 ∧ n / 32 % 2048 = x4 ∧ n / 65536 % 32 = x5 ∧ n / 2097152 % 32 = x6 ∧ n / 67108864 = x7 :=
  ⟨by omega, by omega, by omega, by omega, by omega, by omega, by omega, by omega, by omega⟩

theorem RoundTrip.vldz (d : BitVec 5) (a : BitVec 5) (f : BitVec 1) (b : BitVec 1) (s : BitVec 2) : RoundTrip.Statement (.vldz d a f b s) := by
  obtain ⟨wd, hn⟩ : ∃ wd, wd = 2617245888 + d.toNat * 2097152 + a.toNat * 65536 + f.toNat * 16 + b.toNat * 8 + s.toNat := ⟨_, rfl⟩
  obtain ⟨hlt, q0, q1, q2, q3, q4, q5, q6, q7⟩ := layout26 s.isLt (show 0 < 2 by decide) b.isLt f.isLt (show 6 < 2048 by decide) a.isLt d.isLt (show 39 < 64 by decide) (hn.trans (by omega))
  refine RoundTrip.ofWord (n := wd) (by exact (by decide : 171 < 232)) (hn ▸ rfl) hlt (fun hw => ?_)
  clear hn
  have e2 : wd / 64 % 4 = 3 := RoundTrip.inner q4 2 4 256 rfl
  have e3 : wd / 32768 % 2 = 0 := RoundTrip.inner q4 1024 2 1 rfl
  have e4 : wd / 32 % 2 = 0 := RoundTrip.inner q4 1 2 1024 rfl
  have e5 : wd / 256 % 256 = 0 := RoundTrip.inner q4 8 256 1 rfl
  rw [major39 q7]
  rw [show decode27 wd = readVldz wd by simp only [decode27, q1, e2, e3, reduceIte, ne_eq, not_true_eq_false, and_self, or_self, true_and, Nat.reduceEqDiff]]
  unfold readVldz
  rw [RoundTrip.field d q6, RoundTrip.field a q5, RoundTrip.field f q3, RoundTrip.field b q2, RoundTrip.field s q0]
  rw [if_pos ⟨e4, e5⟩]

theorem RoundTrip.vlds (d : BitVec 5) (k : BitVec 5) : RoundTrip.Statement (.vlds d k) := by
  obtain ⟨wd, hn⟩ : ∃ wd, wd = 2617245892 + d.toNat * 2097152 + k.toNat * 65536 := ⟨_, rfl⟩
  obtain ⟨hlt, q0, q1, q2, q3⟩ := layout2 (show 196 < 65536 by decide) k.isLt d.isLt (show 39 < 64 by decide) (hn.trans (by omega))
  refine RoundTrip.ofWord (n := wd) (by exact (by decide : 172 < 232)) (hn ▸ rfl) hlt (fun hw => ?_)
  clear hn
  replace hw : k.toNat ≤ 15 := of_decide_eq_true hw
  have e1 : wd / 4 % 2 = 1 := RoundTrip.inner0 q0 4 2 8192 rfl
  have e2 : wd / 64 % 4 = 3 := RoundTrip.inner0 q0 64 4 256 rfl
  have e3 : wd / 32768 % 2 = 0 := RoundTrip.inner0 q0 32768 2 1 rfl
  have e4 : wd % 8 = 4 := RoundTrip.low0 q0 8 8192 rfl
  have e5 : wd / 8 % 8 = 0 := RoundTrip.inner0 q0 8 8 1024 rfl
  have e6 : wd / 256 % 256 = 0 := RoundTrip.inner0 q0 256 256 1 rfl
  rw [major39 q3]
  rw [show decode27 wd = readVlds wd by simp only [decode27, e1, e2, e3, e4, reduceIte, ne_eq, not_true_eq_false, and_self, or_self, true_and, Nat.reduceEqDiff]]
  unfold readVlds
  rw [RoundTrip.field d q2, RoundTrip.field k q1]
  have hd := d.isLt
  have hk := k.isLt
  rw [e5, e6, q1]
  rw [if_pos (by omega)]

theorem RoundTrip.vstUnit (s : BitVec 5) (a : BitVec 5) (m : BitVec 3) (u : BitVec 1) (b : BitVec 1) (z : BitVec 2) : RoundTrip.Statement (.vstUnit s a m u b z) := by
  obtain ⟨wd, hn⟩ : ∃ wd, wd = 2684354560 + s.toNat * 2097152 + a.toNat * 65536 + m.toNat * 256 + u.toNat * 32 + b.toNat * 8 + z.toNat := ⟨_, rfl⟩
  obtain ⟨hlt, q0, q1, q2, q3, q4, q5, q6, q7, q8, q9, q10⟩ := layout24 z.isLt (show 0 < 2 by decide) b.isLt (show 0 < 2 by decide) u.isLt (show 0 < 4 by decide) m.isLt (show 0 < 32 by decide) a.isLt s.isLt (show 40 < 64 by decide) (hn.trans (by omega))
  refine RoundTrip.ofWord (n := wd) (by exact (by decide : 173 < 232)) (hn ▸ rfl) hlt (fun hw => ?_)
  clear hn
  have e2 : wd / 32768 % 2 = 0 := RoundTrip.inner q7 16 2 1 rfl
  rw [major40 q10]
  have hm : wd % 8 ≠ 4 ∧ wd % 8 ≠ 5 ∧ wd % 8 ≠ 6 ∧ wd % 8 ≠ 7 := by clear hw; omega
  rw [show decode28 wd = readVstUnit wd by unfold decode28; split <;> simp_all]
  unfold readVstUnit
  rw [RoundTrip.field s q9, RoundTrip.field a q8, RoundTrip.field m q6, RoundTrip.field u q4, RoundTrip.field b q2, RoundTrip.field z q0]
  rw [if_pos ⟨q3, q7⟩]

theorem RoundTrip.vstConvert (s : BitVec 5) (a : BitVec 5) (t : BitVec 4) (m : BitVec 3) (u : BitVec 1) (b : BitVec 1) (z : BitVec 2) : RoundTrip.Statement (.vstConvert s a t m u b z) := by
  obtain ⟨wd, hn⟩ : ∃ wd, wd = 2684387328 + s.toNat * 2097152 + a.toNat * 65536 + t.toNat * 2048 + m.toNat * 256 + u.toNat * 32 + b.toNat * 8 + z.toNat := ⟨_, rfl⟩
  obtain ⟨hlt, q0, q1, q2, q3, q4, q5, q6, q7, q8, q9, q10, q11⟩ := layout25 z.isLt (show 0 < 2 by decide) b.isLt (show 0 < 2 by decide) u.isLt (show 0 < 4 by decide) m.isLt t.isLt (show 1 < 2 by decide) a.isLt s.isLt (show 40 < 64 by decide) (hn.trans (by omega))
  refine RoundTrip.ofWord (n := wd) (by exact (by decide : 174 < 232)) (hn ▸ rfl) hlt (fun hw => ?_)
  clear hn
  replace hw : ((z.toNat = 1 ∧ (t.toNat = 8 ∨ t.toNat = 9)) ∨ (z.toNat = 2 ∧ t.toNat = 10)) := of_decide_eq_true hw
  rw [major40 q11]
  have hm : wd % 8 ≠ 4 ∧ wd % 8 ≠ 5 ∧ wd % 8 ≠ 6 ∧ wd % 8 ≠ 7 := by clear hw; omega
  rw [show decode28 wd = readVstConvert wd by unfold decode28; split <;> simp_all]
  unfold readVstConvert
  rw [RoundTrip.field s q10, RoundTrip.field a q9, RoundTrip.field t q7, RoundTrip.field m q6, RoundTrip.field u q4, RoundTrip.field b q2, RoundTrip.field z q0]
  have hs := s.isLt
  have ha := a.isLt
  have ht := t.isLt
  have hm := m.isLt
  have hu := u.isLt
  have hb := b.isLt
  have hz := z.isLt
  rw [q3, q0, q7]
  rw [if_pos (by omega)]

theorem RoundTrip.vstStrided (s : BitVec 5) (a : BitVec 5) (c : BitVec 5) (m : BitVec 3) (u : BitVec 1) (b : BitVec 1) (z : BitVec 2) : RoundTrip.Statement (.vstStrided s a c m u b z) := by
  obtain ⟨wd, hn⟩ : ∃ wd, wd = 2684354624 + s.toNat * 2097152 + a.toNat * 65536 + c.toNat * 2048 + m.toNat * 256 + u.toNat * 32 + b.toNat * 8 + z.toNat := ⟨_, rfl⟩
  obtain ⟨hlt, q0, q1, q2, q3, q4, q5, q6, q7, q8, q9, q10⟩ := layout24 z.isLt (show 0 < 2 by decide) b.isLt (show 0 < 2 by decide) u.isLt (show 1 < 4 by decide) m.isLt c.isLt a.isLt s.isLt (show 40 < 64 by decide) (hn.trans (by omega))
  refine RoundTrip.ofWord (n := wd) (by exact (by decide : 175 < 232)) (hn ▸ rfl) hlt (fun hw => ?_)
  clear hn
  rw [major40 q10]
  have hm : wd % 8 ≠ 4 ∧ wd % 8 ≠ 5 ∧ wd % 8 ≠ 6 ∧ wd % 8 ≠ 7 := by clear hw; omega
  rw [show decode28 wd = readVstStrided wd by unfold decode28; split <;> simp_all]
  unfold readVstStrided
  rw [RoundTrip.field s q9, RoundTrip.field a q8, RoundTrip.field c q7, RoundTrip.field m q6, RoundTrip.field u q4, RoundTrip.field b q2, RoundTrip.field z q0]
  rw [if_pos q3]

theorem RoundTrip.vstIndexed (s : BitVec 5) (a : BitVec 5) (c : BitVec 5) (m : BitVec 3) (u : BitVec 1) (b : BitVec 1) (z : BitVec 2) : RoundTrip.Statement (.vstIndexed s a c m u b z) := by
  obtain ⟨wd, hn⟩ : ∃ wd, wd = 2684354688 + s.toNat * 2097152 + a.toNat * 65536 + c.toNat * 2048 + m.toNat * 256 + u.toNat * 32 + b.toNat * 8 + z.toNat := ⟨_, rfl⟩
  obtain ⟨hlt, q0, q1, q2, q3, q4, q5, q6, q7, q8, q9, q10⟩ := layout24 z.isLt (show 0 < 2 by decide) b.isLt (show 0 < 2 by decide) u.isLt (show 2 < 4 by decide) m.isLt c.isLt a.isLt s.isLt (show 40 < 64 by decide) (hn.trans (by omega))
  refine RoundTrip.ofWord (n := wd) (by exact (by decide : 176 < 232)) (hn ▸ rfl) hlt (fun hw => ?_)
  clear hn
  rw [major40 q10]
  have hm : wd % 8 ≠ 4 ∧ wd % 8 ≠ 5 ∧ wd % 8 ≠ 6 ∧ wd % 8 ≠ 7 := by clear hw; omega
  rw [show decode28 wd = readVstIndexed wd by unfold decode28; split <;> simp_all]
  unfold readVstIndexed
  rw [RoundTrip.field s q9, RoundTrip.field a q8, RoundTrip.field c q7, RoundTrip.field m q6, RoundTrip.field u q4, RoundTrip.field b q2, RoundTrip.field z q0]
  rw [if_pos q3]

theorem layout27 {n x0 x1 x2 x3 x4 x5 x6 : Nat} (h0 : x0 < 4) (h1 : x1 < 2) (h2 : x2 < 2) (h3 : x3 < 4096) (h4 : x4 < 32) (h5 : x5 < 32) (h6 : x6 < 64)
    (e : n = x0 + x1 * 4 + x2 * 8 + x3 * 16 + x4 * 65536 + x5 * 2097152 + x6 * 67108864) : n < 4294967296 ∧ n % 4 = x0 ∧ n / 4 % 2 = x1 ∧ n / 8 % 2 = x2 ∧ n / 16 % 4096 = x3 ∧ n / 65536 % 32 = x4 ∧ n / 2097152 % 32 = x5 ∧ n / 67108864 = x6 :=
  ⟨by omega, by omega, by omega, by omega, by omega, by omega, by omega, by omega⟩

theorem RoundTrip.vstz (s : BitVec 5) (a : BitVec 5) (b : BitVec 1) (z : BitVec 2) : RoundTrip.Statement (.vstz s a b z) := by
  obtain ⟨wd, hn⟩ : ∃ wd, wd = 2684354752 + s.toNat * 2097152 + a.toNat * 65536 + b.toNat * 8 + z.toNat := ⟨_, rfl⟩
  obtain ⟨hlt, q0, q1, q2, q3, q4, q5, q6⟩ := layout27 z.isLt (show 0 < 2 by decide) b.isLt (show 12 < 4096 by decide) a.isLt s.isLt (show 40 < 64 by decide) (hn.trans (by omega))
  refine RoundTrip.ofWord (n := wd) (by exact (by decide : 177 < 232)) (hn ▸ rfl) hlt (fun hw => ?_)
  clear hn
  have e1 : wd / 64 % 4 = 3 := RoundTrip.inner q3 4 4 256 rfl
  have e2 : wd / 32768 % 2 = 0 := RoundTrip.inner q3 2048 2 1 rfl
  have e3 : wd / 16 % 4 = 0 := RoundTrip.inner q3 1 4 1024 rfl
  have e4 : wd / 256 % 256 = 0 := RoundTrip.inner q3 16 256 1 rfl
  rw [major40 q6]
  have hm : wd % 8 ≠ 4 ∧ wd % 8 ≠ 5 ∧ wd % 8 ≠ 6 ∧ wd % 8 ≠ 7 := by clear hw; omega
  rw [show decode28 wd = readVstz wd by unfold decode28; split <;> simp_all]
  unfold readVstz
  rw [RoundTrip.field s q5, RoundTrip.field a q4, RoundTrip.field b q2, RoundTrip.field z q0]
  rw [if_pos ⟨e3, e4⟩]

theorem layout28 {n x0 x1 x2 x3 x4 x5 x6 x7 x8 : Nat} (h0 : x0 < 8) (h1 : x1 < 2) (h2 : x2 < 16) (h3 : x3 < 8) (h4 : x4 < 4) (h5 : x5 < 8) (h6 : x6 < 32) (h7 : x7 < 32) (h8 : x8 < 64)
    (e : n = x0 + x1 * 8 + x2 * 16 + x3 * 256 + x4 * 2048 + x5 * 8192 + x6 * 65536 + x7 * 2097152 + x8 * 67108864) : n < 4294967296 ∧ n % 8 = x0 ∧ n / 8 % 2 = x1 ∧ n / 16 % 16 = x2 ∧ n / 256 % 8 = x3 ∧ n / 2048 % 4 = x4 ∧ n / 8192 % 8 = x5 ∧ n / 65536 % 32 = x6 ∧ n / 2097152 % 32 = x7 ∧ n / 67108864 = x8 :=
  ⟨by omega, by omega, by omega, by omega, by omega, by omega, by omega, by omega, by omega, by omega⟩

theorem RoundTrip.vcpst (s : BitVec 5) (a : BitVec 5) (w : BitVec 2) (m : BitVec 3) (b : BitVec 1) : RoundTrip.Statement (.vcpst s a w m b) := by
  obtain ⟨wd, hn⟩ : ∃ wd, wd = 2684354564 + s.toNat * 2097152 + a.toNat * 65536 + w.toNat * 2048 + m.toNat * 256 + b.toNat * 8 := ⟨_, rfl⟩
  obtain ⟨hlt, q0, q1, q2, q3, q4, q5, q6, q7, q8⟩ := layout28 (show 4 < 8 by decide) b.isLt (show 0 < 16 by decide) m.isLt w.isLt (show 0 < 8 by decide) a.isLt s.isLt (show 40 < 64 by decide) (hn.trans (by omega))
  refine RoundTrip.ofWord (n := wd) (by exact (by decide : 178 < 232)) (hn ▸ rfl) hlt (fun hw => ?_)
  clear hn
  have e2 : wd / 64 % 4 = 0 := RoundTrip.inner q2 4 4 1 rfl
  have e3 : wd / 32768 % 2 = 0 := RoundTrip.inner q5 4 2 1 rfl
  have e4 : wd / 16 % 4 = 0 := RoundTrip.inner q2 1 4 4 rfl
  rw [major40 q8]
  rw [show decode28 wd = readVcpst wd by simp only [decode28, q0, e2, e3, reduceIte, ne_eq, not_true_eq_false, and_self, or_self, true_and, Nat.reduceEqDiff]]
  unfold readVcpst
  rw [RoundTrip.field s q7, RoundTrip.field a q6, RoundTrip.field w q4, RoundTrip.field m q3, RoundTrip.field b q1]
  rw [if_pos ⟨e4, q5⟩]

theorem layout29 {n x0 x1 x2 x3 x4 x5 x6 x7 : Nat} (h0 : x0 < 32) (h1 : x1 < 2) (h2 : x2 < 4) (h3 : x3 < 8) (h4 : x4 < 32) (h5 : x5 < 32) (h6 : x6 < 32) (h7 : x7 < 64)
    (e : n = x0 + x1 * 32 + x2 * 64 + x3 * 256 + x4 * 2048 + x5 * 65536 + x6 * 2097152 + x7 * 67108864) : n < 4294967296 ∧ n % 32 = x0 ∧ n / 32 % 2 = x1 ∧ n / 64 % 4 = x2 ∧ n / 256 % 8 = x3 ∧ n / 2048 % 32 = x4 ∧ n / 65536 % 32 = x5 ∧ n / 2097152 % 32 = x6 ∧ n / 67108864 = x7 :=
  ⟨by omega, by omega, by omega, by omega, by omega, by omega, by omega, by omega, by omega⟩

theorem RoundTrip.vamoAdd (s : BitVec 5) (a : BitVec 5) (c : BitVec 5) (m : BitVec 3) (o : BitVec 2) (u : BitVec 1) : RoundTrip.Statement (.vamoAdd s a c m o u) := by
  obtain ⟨wd, hn⟩ : ∃ wd, wd = 2684354565 + s.toNat * 2097152 + a.toNat * 65536 + c.toNat * 2048 + m.toNat * 256 + o.toNat * 64 + u.toNat * 32 := ⟨_, rfl⟩
  obtain ⟨hlt, q0, q1, q2, q3, q4, q5, q6, q7⟩ := layout29 (show 5 < 32 by decide) u.isLt o.isLt m.isLt c.isLt a.isLt s.isLt (show 40 < 64 by decide) (hn.trans (by omega))
  refine RoundTrip.ofWord (n := wd) (by exact (by decide : 179 < 232)) (hn ▸ rfl) hlt (fun hw => ?_)
  clear hn
  replace hw : o.toNat ≤ 2 ∧ (o.toNat = 0 → c.toNat = 0) := of_decide_eq_true hw
  have e1 : wd % 8 = 5 := RoundTrip.low0 q0 8 4 rfl
  have e3 : wd / 8 % 4 = 0 := RoundTrip.inner0 q0 8 4 1 rfl
  rw [major40 q7]
  rw [decode28, e1]
  change readVamoAdd wd = _
  unfold readVamoAdd
  rw [RoundTrip.field s q6, RoundTrip.field a q5, RoundTrip.field c q4, RoundTrip.field m q3, RoundTrip.field o q2, RoundTrip.field u q1]
  have hs := s.isLt
  have ha := a.isLt
  have hc := c.isLt
  have hm := m.isLt
  have ho := o.isLt
  have hu := u.isLt
  rw [q2, e3, q4]
  rw [if_pos (by omega)]
  rw [if_pos (by omega)]

theorem RoundTrip.vamoMax (s : BitVec 5) (a : BitVec 5) (c : BitVec 5) (m : BitVec 3) (o : BitVec 2) (u : BitVec 1) : RoundTrip.Statement (.vamoMax s a c m o u) := by
  obtain ⟨wd, hn⟩ : ∃ wd, wd = 2684354566 + s.toNat * 2097152 + a.toNat * 65536 + c.toNat * 2048 + m.toNat * 256 + o.toNat * 64 + u.toNat * 32 := ⟨_, rfl⟩
  obtain ⟨hlt, q0, q1, q2, q3, q4, q5, q6, q7⟩ := layout29 (show 6 < 32 by decide) u.isLt o.isLt m.isLt c.isLt a.isLt s.isLt (show 40 < 64 by decide) (hn.trans (by omega))
  refine RoundTrip.ofWord (n := wd) (by exact (by decide : 180 < 232)) (hn ▸ rfl) hlt (fun hw => ?_)
  clear hn
  replace hw : o.toNat ≤ 2 ∧ (o.toNat = 0 → c.toNat = 0) := of_decide_eq_true hw
  have e1 : wd % 8 = 6 := RoundTrip.low0 q0 8 4 rfl
  have e3 : wd / 8 % 4 = 0 := RoundTrip.inner0 q0 8 4 1 rfl
  rw [major40 q7]
  rw [decode28, e1]
  change readVamoMax wd = _
  unfold readVamoMax
  rw [RoundTrip.field s q6, RoundTrip.field a q5, RoundTrip.field c q4, RoundTrip.field m q3, RoundTrip.field o q2, RoundTrip.field u q1]
  have hs := s.isLt
  have ha := a.isLt
  have hc := c.isLt
  have hm := m.isLt
  have ho := o.isLt
  have hu := u.isLt
  rw [q2, e3, q4]
  rw [if_pos (by omega)]
  rw [if_pos (by omega)]

theorem RoundTrip.vamoMin (s : BitVec 5) (a : BitVec 5) (c : BitVec 5) (m : BitVec 3) (o : BitVec 2) (u : BitVec 1) : RoundTrip.Statement (.vamoMin s a c m o u) := by
  obtain ⟨wd, hn⟩ : ∃ wd, wd = 2684354567 + s.toNat * 2097152 + a.toNat * 65536 + c.toNat * 2048 + m.toNat * 256 + o.toNat * 64 + u.toNat * 32 := ⟨_, rfl⟩
  obtain ⟨hlt, q0, q1, q2, q3, q4, q5, q6, q7⟩ := layout29 (show 7 < 32 by decide) u.isLt o.isLt m.isLt c.isLt a.isLt s.isLt (show 40 < 64 by decide) (hn.trans (by omega))
  refine RoundTrip.ofWord (n := wd) (by exact (by decide : 181 < 232)) (hn ▸ rfl) hlt (fun hw => ?_)
  clear hn
  replace hw : o.toNat ≤ 2 ∧ (o.toNat = 0 → c.toNat = 0) := of_decide_eq_true hw
  have e1 : wd % 8 = 7 := RoundTrip.low0 q0 8 4 rfl
  have e3 : wd / 8 % 4 = 0 := RoundTrip.inner0 q0 8 4 1 rfl
  rw [major40 q7]
  rw [decode28, e1]
  change readVamoMin wd = _
  unfold readVamoMin
  rw [RoundTrip.field s q6, RoundTrip.field a q5, RoundTrip.field c q4, RoundTrip.field m q3, RoundTrip.field o q2, RoundTrip.field u q1]
  have hs := s.isLt
  have ha := a.isLt
  have hc := c.isLt
  have hm := m.isLt
  have ho := o.isLt
  have hu := u.isLt
  rw [q2, e3, q4]
  rw [if_pos (by omega)]
  rw [if_pos (by omega)]

theorem RoundTrip.msetm (a : BitVec 5) (b : BitVec 5) : RoundTrip.Statement (.msetm a b) := by
  obtain ⟨wd, hn⟩ : ∃ wd, wd = 2952790016 + a.toNat * 65536 + b.toNat * 2048 := ⟨_, rfl⟩
  obtain ⟨hlt, q0, q1, q2, q3, q4⟩ := layout1 (show 0 < 2048 by decide) b.isLt a.isLt (show 0 < 32 by decide) (show 44 < 64 by decide) (hn.trans (by omega))
  refine RoundTrip.ofWord (n := wd) (by exact (by decide : 182 < 232)) (hn ▸ rfl) hlt (fun hw => ?_)
  clear hn
  have e1 : wd / 2097152 % 8 = 0 := RoundTrip.inner q3 1 8 4 rfl
  have e2 : wd % 16 = 0 := RoundTrip.low0 q0 16 128 rfl
  have e3 : wd / 2 % 8 = 0 := RoundTrip.inner0 q0 2 8 128 rfl
  have e4 : wd / 256 % 8 = 0 := RoundTrip.inner0 q0 256 8 1 rfl
  have e5 : wd / 16777216 % 4 = 0 := RoundTrip.inner q3 8 4 1 rfl
  have e6 : wd / 16 % 16 = 0 := RoundTrip.inner0 q0 16 16 8 rfl
  rw [major44 q4]
  rw [show decode2C wd = readMsetm wd by simp only [decode2C, e1, e2, e3, reduceIte, ne_eq, not_true_eq_false, and_self, or_self, true_and, Nat.reduceEqDiff]]
  unfold readMsetm
  rw [RoundTrip.field a q2, RoundTrip.field b q1]
  have ha := a.isLt
  have hb := b.isLt
  rw [e4, e5, e6]
  rw [if_pos (by omega)]
  rw [if_pos (by omega)]

theorem layout30 {n x0 x1 x2 : Nat} (h0 : x0 < 16777216) (h1 : x1 < 4) (h2 : x2 < 64)
    (e : n = x0 + x1 * 16777216 + x2 * 67108864) : n < 4294967296 ∧ n % 16777216 = x0 ∧ n / 16777216 % 4 = x1 ∧ n / 67108864 = x2 :=
  ⟨by omega, by omega, by omega, by omega⟩

theorem RoundTrip.mzero (k : BitVec 2) : RoundTrip.Statement (.mzero k) := by
  obtain ⟨wd, hn⟩ : ∃ wd, wd = 2954887168 + k.toNat * 16777216 := ⟨_, rfl⟩
  obtain ⟨hlt, q0, q1, q2⟩ := layout30 (show 2097152 < 16777216 by decide) k.isLt (show 44 < 64 by decide) (hn.trans (by omega))
  refine RoundTrip.ofWord (n := wd) (by exact (by decide : 183 < 232)) (hn ▸ rfl) hlt (fun hw => ?_)
  clear hn
  have e1 : wd / 2097152 % 8 = 1 := RoundTrip.inner0 q0 2097152 8 1 rfl
  have e2 : wd % 16 = 0 := RoundTrip.low0 q0 16 1048576 rfl
  have e3 : wd / 2 % 8 = 0 := RoundTrip.inner0 q0 2 8 1048576 rfl
  have e4 : wd / 256 % 8192 = 0 := RoundTrip.inner0 q0 256 8192 8 rfl
  have e5 : wd / 16 % 16 = 0 := RoundTrip.inner0 q0 16 16 65536 rfl
  rw [major44 q2]
  rw [show decode2C wd = readMzero wd by simp only [decode2C, e1, e2, e3, reduceIte, ne_eq, not_true_eq_false, and_self, or_self, true_and, Nat.reduceEqDiff]]
  unfold readMzero
  rw [RoundTrip.field k q1]
  have hk := k.isLt
  rw [e4, e5]
  rw [if_pos (by omega)]
  rw [if_pos (by omega)]

theorem layout31 {n x0 x1 x2 x3 x4 x5 x6 x7 : Nat} (h0 : x0 < 16) (h1 : x1 < 16) (h2 : x2 < 8) (h3 : x3 < 32) (h4 : x4 < 32) (h5 : x5 < 8) (h6 : x6 < 4) (h7 : x7 < 64)
    (e : n = x0 + x1 * 16 + x2 * 256 + x3 * 2048 + x4 * 65536 + x5 * 2097152 + x6 * 16777216 + x7 * 67108864) : n < 4294967296 ∧ n % 16 = x0 ∧ n / 16 % 16 = x1 ∧ n / 256 % 8 = x2 ∧ n / 2048 % 32 = x3 ∧ n / 65536 % 32 = x4 ∧ n / 2097152 % 8 = x5 ∧ n / 16777216 % 4 = x6 ∧ n / 67108864 = x7 :=
  ⟨by omega, by omega, by omega, by omega, by omega, by omega, by omega, by omega, by omega⟩

theorem RoundTrip.opacc (k : BitVec 2) (a : BitVec 5) (b : BitVec 5) (m : BitVec 3) (t : BitVec 4) : RoundTrip.Statement (.opacc k a b m t) := by
  obtain ⟨wd, hn⟩ : ∃ wd, wd = 2956984320 + k.toNat * 16777216 + a.toNat * 65536 + b.toNat * 2048 + m.toNat * 256 + t.toNat * 16 := ⟨_, rfl⟩
  obtain ⟨hlt, q0, q1, q2, q3, q4, q5, q6, q7⟩ := layout31 (show 0 < 16 by decide) t.isLt m.isLt b.isLt a.isLt (show 2 < 8 by decide) k.isLt (show 44 < 64 by decide) (hn.trans (by omega))
  refine RoundTrip.ofWord (n := wd) (by exact (by decide : 184 < 232)) (hn ▸ rfl) hlt (fun hw => ?_)
  clear hn
  replace hw : (t.toNat = 0 ∨ t.toNat = 4 ∨ (8 ≤ t.toNat ∧ t.toNat ≤ 9) ∨ (11 ≤ t.toNat ∧ t.toNat ≤ 12)) := of_decide_eq_true hw
  have e3 : wd / 2 % 8 = 0 := RoundTrip.inner0 q0 2 8 1 rfl
  rw [major44 q7]
  rw [show decode2C wd = readOpacc wd by simp only [decode2C, q5, q0, e3, reduceIte, ne_eq, not_true_eq_false, and_self, or_self, true_and, Nat.reduceEqDiff]]
  unfold readOpacc
  rw [RoundTrip.field k q6, RoundTrip.field a q4, RoundTrip.field b q3, RoundTrip.field m q2, RoundTrip.field t q1]
  have hk := k.isLt
  have ha := a.isLt
  have hb := b.isLt
  have hm := m.isLt
  have ht := t.isLt
  rw [q1]
  rw [if_pos (by omega)]

theorem RoundTrip.opsub (k : BitVec 2) (a : BitVec 5) (b : BitVec 5) (m : BitVec 3) (t : BitVec 4) : RoundTrip.Statement (.opsub k a b m t) := by
  obtain ⟨wd, hn⟩ : ∃ wd, wd = 2959081472 + k.toNat * 16777216 + a.toNat * 65536 + b.toNat * 2048 + m.toNat * 256 + t.toNat * 16 := ⟨_, rfl⟩
  obtain ⟨hlt, q0, q1, q2, q3, q4, q5, q6, q7⟩ := layout31 (show 0 < 16 by decide) t.isLt m.isLt b.isLt a.isLt (show 3 < 8 by decide) k.isLt (show 44 < 64 by decide) (hn.trans (by omega))
  refine RoundTrip.ofWord (n := wd) (by exact (by decide : 185 < 232)) (hn ▸ rfl) hlt (fun hw => ?_)
  clear hn
  replace hw : (t.toNat = 0 ∨ t.toNat = 4 ∨ (8 ≤ t.toNat ∧ t.toNat ≤ 9) ∨ (11 ≤ t.toNat ∧ t.toNat ≤ 12)) := of_decide_eq_true hw
  have e3 : wd / 2 % 8 = 0 := RoundTrip.inner0 q0 2 8 1 rfl
  rw [major44 q7]
  rw [show decode2C wd = readOpsub wd by simp only [decode2C, q5, q0, e3, reduceIte, ne_eq, not_true_eq_false, and_self, or_self, true_and, Nat.reduceEqDiff]]
  unfold readOpsub
  rw [RoundTrip.field k q6, RoundTrip.field a q4, RoundTrip.field b q3, RoundTrip.field m q2, RoundTrip.field t q1]
  have hk := k.isLt
  have ha := a.isLt
  have hb := b.isLt
  have hm := m.isLt
  have ht := t.isLt
  rw [q1]
  rw [if_pos (by omega)]

theorem layout32 {n x0 x1 x2 x3 x4 x5 x6 x7 x8 : Nat} (h0 : x0 < 2) (h1 : x1 < 8) (h2 : x2 < 16) (h3 : x3 < 8) (h4 : x4 < 32) (h5 : x5 < 32) (h6 : x6 < 8) (h7 : x7 < 4) (h8 : x8 < 64)
    (e : n = x0 + x1 * 2 + x2 * 16 + x3 * 256 + x4 * 2048 + x5 * 65536 + x6 * 2097152 + x7 * 16777216 + x8 * 67108864) : n < 4294967296 ∧ n % 2 = x0 ∧ n / 2 % 8 = x1 ∧ n / 16 % 16 = x2 ∧ n / 256 % 8 = x3 ∧ n / 2048 % 32 = x4 ∧ n / 65536 % 32 = x5 ∧ n / 2097152 % 8 = x6 ∧ n / 16777216 % 4 = x7 ∧ n / 67108864 = x8 :=
  ⟨by omega, by omega, by omega, by omega, by omega, by omega, by omega, by omega, by omega, by omega⟩

theorem RoundTrip.mextr (k : BitVec 2) (d : BitVec 5) (b : BitVec 5) (m : BitVec 3) (t : BitVec 4) (z : BitVec 1) : RoundTrip.Statement (.mextr k d b m t z) := by
  obtain ⟨wd, hn⟩ : ∃ wd, wd = 2961178624 + k.toNat * 16777216 + d.toNat * 65536 + b.toNat * 2048 + m.toNat * 256 + t.toNat * 16 + z.toNat := ⟨_, rfl⟩
  obtain ⟨hlt, q0, q1, q2, q3, q4, q5, q6, q7, q8⟩ := layout32 z.isLt (show 0 < 8 by decide) t.isLt m.isLt b.isLt d.isLt (show 4 < 8 by decide) k.isLt (show 44 < 64 by decide) (hn.trans (by omega))
  refine RoundTrip.ofWord (n := wd) (by exact (by decide : 186 < 232)) (hn ▸ rfl) hlt (fun hw => ?_)
  clear hn
  replace hw : (t.toNat ≤ 12) := of_decide_eq_true hw
  rw [major44 q8]
  rw [show decode2C wd = readMextr wd by simp only [decode2C, q6, q1, reduceIte, ne_eq, not_true_eq_false, and_self, or_self, true_and, Nat.reduceEqDiff]]
  unfold readMextr
  rw [RoundTrip.field k q7, RoundTrip.field d q5, RoundTrip.field b q4, RoundTrip.field m q3, RoundTrip.field t q2, RoundTrip.field z q0]
  have hk := k.isLt
  have hd := d.isLt
  have hb := b.isLt
  have hm := m.isLt
  have ht := t.isLt
  have hz := z.isLt
  rw [q2]
  rw [if_pos (by omega)]

theorem RoundTrip.mextc (k : BitVec 2) (d : BitVec 5) (b : BitVec 5) (m : BitVec 3) (t : BitVec 4) (z : BitVec 1) : RoundTrip.Statement (.mextc k d b m t z) := by
  obtain ⟨wd, hn⟩ : ∃ wd, wd = 2963275776 + k.toNat * 16777216 + d.toNat * 65536 + b.toNat * 2048 + m.toNat * 256 + t.toNat * 16 + z.toNat := ⟨_, rfl⟩
  obtain ⟨hlt, q0, q1, q2, q3, q4, q5, q6, q7, q8⟩ := layout32 z.isLt (show 0 < 8 by decide) t.isLt m.isLt b.isLt d.isLt (show 5 < 8 by decide) k.isLt (show 44 < 64 by decide) (hn.trans (by omega))
  refine RoundTrip.ofWord (n := wd) (by exact (by decide : 187 < 232)) (hn ▸ rfl) hlt (fun hw => ?_)
  clear hn
  replace hw : (t.toNat ≤ 12) := of_decide_eq_true hw
  rw [major44 q8]
  rw [show decode2C wd = readMextc wd by simp only [decode2C, q6, q1, reduceIte, ne_eq, not_true_eq_false, and_self, or_self, true_and, Nat.reduceEqDiff]]
  unfold readMextc
  rw [RoundTrip.field k q7, RoundTrip.field d q5, RoundTrip.field b q4, RoundTrip.field m q3, RoundTrip.field t q2, RoundTrip.field z q0]
  have hk := k.isLt
  have hd := d.isLt
  have hb := b.isLt
  have hm := m.isLt
  have ht := t.isLt
  have hz := z.isLt
  rw [q2]
  rw [if_pos (by omega)]

theorem RoundTrip.mputr (k : BitVec 2) (s : BitVec 5) (b : BitVec 5) (m : BitVec 3) (t : BitVec 4) : RoundTrip.Statement (.mputr k s b m t) := by
  obtain ⟨wd, hn⟩ : ∃ wd, wd = 2965372928 + k.toNat * 16777216 + s.toNat * 65536 + b.toNat * 2048 + m.toNat * 256 + t.toNat * 16 := ⟨_, rfl⟩
  obtain ⟨hlt, q0, q1, q2, q3, q4, q5, q6, q7⟩ := layout31 (show 0 < 16 by decide) t.isLt m.isLt b.isLt s.isLt (show 6 < 8 by decide) k.isLt (show 44 < 64 by decide) (hn.trans (by omega))
  refine RoundTrip.ofWord (n := wd) (by exact (by decide : 188 < 232)) (hn ▸ rfl) hlt (fun hw => ?_)
  clear hn
  replace hw : (t.toNat ≤ 12) := of_decide_eq_true hw
  have e3 : wd / 2 % 8 = 0 := RoundTrip.inner0 q0 2 8 1 rfl
  rw [major44 q7]
  rw [show decode2C wd = readMputr wd by simp only [decode2C, q5, q0, e3, reduceIte, ne_eq, not_true_eq_false, and_self, or_self, true_and, Nat.reduceEqDiff]]
  unfold readMputr
  rw [RoundTrip.field k q6, RoundTrip.field s q4, RoundTrip.field b q3, RoundTrip.field m q2, RoundTrip.field t q1]
  have hk := k.isLt
  have hs := s.isLt
  have hb := b.isLt
  have hm := m.isLt
  have ht := t.isLt
  rw [q1]
  rw [if_pos (by omega)]

theorem layout33 {n x0 x1 x2 x3 x4 : Nat} (h0 : x0 < 8192) (h1 : x1 < 32) (h2 : x2 < 32) (h3 : x3 < 8) (h4 : x4 < 64)
    (e : n = x0 + x1 * 8192 + x2 * 262144 + x3 * 8388608 + x4 * 67108864) : n < 4294967296 ∧ n % 8192 = x0 ∧ n / 8192 % 32 = x1 ∧ n / 262144 % 32 = x2 ∧ n / 8388608 % 8 = x3 ∧ n / 67108864 = x4 :=
  ⟨by omega, by omega, by omega, by omega, by omega, by omega⟩

theorem RoundTrip.breg (g : BitVec 3) (a : BitVec 5) (b : BitVec 5) : RoundTrip.Statement (.breg g a b) := by
  obtain ⟨wd, hn⟩ : ∃ wd, wd = 3221225472 + g.toNat * 8388608 + a.toNat * 262144 + b.toNat * 8192 := ⟨_, rfl⟩
  obtain ⟨hlt, q0, q1, q2, q3, q4⟩ := layout33 (show 0 < 8192 by decide) b.isLt a.isLt g.isLt (show 48 < 64 by decide) (hn.trans (by omega))
  refine RoundTrip.ofWord (n := wd) (by exact (by decide : 189 < 232)) (hn ▸ rfl) hlt (fun hw => ?_)
  clear hn
  have e1 : wd / 16 % 16 = 0 := RoundTrip.inner0 q0 16 16 32 rfl
  have e2 : wd % 16 = 0 := RoundTrip.low0 q0 16 512 rfl
  have e3 : wd / 256 % 32 = 0 := RoundTrip.inner0 q0 256 32 1 rfl
  rw [major48 q4]
  rw [decode30, e1]
  change readBreg wd = _
  unfold readBreg
  rw [RoundTrip.field g q3, RoundTrip.field a q2, RoundTrip.field b q1]
  rw [if_pos ⟨e2, e3⟩]

theorem layout34 {n x0 x1 x2 x3 x4 x5 : Nat} (h0 : x0 < 256) (h1 : x1 < 32) (h2 : x2 < 32) (h3 : x3 < 32) (h4 : x4 < 8) (h5 : x5 < 64)
    (e : n = x0 + x1 * 256 + x2 * 8192 + x3 * 262144 + x4 * 8388608 + x5 * 67108864) : n < 4294967296 ∧ n % 256 = x0 ∧ n / 256 % 32 = x1 ∧ n / 8192 % 32 = x2 ∧ n / 262144 % 32 = x3 ∧ n / 8388608 % 8 = x4 ∧ n / 67108864 = x5 :=
  ⟨by omega, by omega, by omega, by omega, by omega, by omega, by omega⟩

theorem RoundTrip.cbld (g : BitVec 3) (a : BitVec 5) (c : BitVec 5) : RoundTrip.Statement (.cbld g a c) := by
  obtain ⟨wd, hn⟩ : ∃ wd, wd = 3221225488 + g.toNat * 8388608 + a.toNat * 262144 + c.toNat * 256 := ⟨_, rfl⟩
  obtain ⟨hlt, q0, q1, q2, q3, q4, q5⟩ := layout34 (show 16 < 256 by decide) c.isLt (show 0 < 32 by decide) a.isLt g.isLt (show 48 < 64 by decide) (hn.trans (by omega))
  refine RoundTrip.ofWord (n := wd) (by exact (by decide : 190 < 232)) (hn ▸ rfl) hlt (fun hw => ?_)
  clear hn
  replace hw : c.toNat ≤ 15 := of_decide_eq_true hw
  have e1 : wd / 16 % 16 = 1 := RoundTrip.inner0 q0 16 16 1 rfl
  have e2 : wd % 16 = 0 := RoundTrip.low0 q0 16 16 rfl
  rw [major48 q5]
  rw [decode30, e1]
  change readCbld wd = _
  unfold readCbld
  rw [RoundTrip.field g q4, RoundTrip.field a q3, RoundTrip.field c q1]
  have hg := g.isLt
  have ha := a.isLt
  have hc := c.isLt
  rw [e2, q2, q1]
  rw [if_pos (by omega)]

theorem layout35 {n x0 x1 x2 x3 x4 x5 x6 : Nat} (h0 : x0 < 16) (h1 : x1 < 16) (h2 : x2 < 32) (h3 : x3 < 32) (h4 : x4 < 32) (h5 : x5 < 8) (h6 : x6 < 64)
    (e : n = x0 + x1 * 16 + x2 * 256 + x3 * 8192 + x4 * 262144 + x5 * 8388608 + x6 * 67108864) : n < 4294967296 ∧ n % 16 = x0 ∧ n / 16 % 16 = x1 ∧ n / 256 % 32 = x2 ∧ n / 8192 % 32 = x3 ∧ n / 262144 % 32 = x4 ∧ n / 8388608 % 8 = x5 ∧ n / 67108864 = x6 :=
  ⟨by omega, by omega, by omega, by omega, by omega, by omega, by omega, by omega⟩

theorem RoundTrip.tbld (g : BitVec 3) (a : BitVec 5) (b : BitVec 5) (c : BitVec 5) (t : BitVec 4) : RoundTrip.Statement (.tbld g a b c t) := by
  obtain ⟨wd, hn⟩ : ∃ wd, wd = 3221225504 + g.toNat * 8388608 + a.toNat * 262144 + b.toNat * 8192 + c.toNat * 256 + t.toNat := ⟨_, rfl⟩
  obtain ⟨hlt, q0, q1, q2, q3, q4, q5, q6⟩ := layout35 t.isLt (show 2 < 16 by decide) c.isLt b.isLt a.isLt g.isLt (show 48 < 64 by decide) (hn.trans (by omega))
  refine RoundTrip.ofWord (n := wd) (by exact (by decide : 191 < 232)) (hn ▸ rfl) hlt (fun hw => ?_)
  clear hn
  replace hw : c.toNat ≤ 15 ∧ (t.toNat ≤ 1 ∨ 8 ≤ t.toNat ∧ t.toNat ≤ 10) := of_decide_eq_true hw
  rw [major48 q6]
  rw [decode30, q1]
  change readTbld wd = _
  unfold readTbld
  rw [RoundTrip.field g q5, RoundTrip.field a q4, RoundTrip.field b q3, RoundTrip.field c q2, RoundTrip.field t q0]
  have hg := g.isLt
  have ha := a.isLt
  have hb := b.isLt
  have hc := c.isLt
  have ht := t.isLt
  rw [q2, q0]
  rw [if_pos (by omega)]

theorem layout36 {n x0 x1 x2 : Nat} (h0 : x0 < 8388608) (h1 : x1 < 8) (h2 : x2 < 64)
    (e : n = x0 + x1 * 8388608 + x2 * 67108864) : n < 4294967296 ∧ n % 8388608 = x0 ∧ n / 8388608 % 8 = x1 ∧ n / 67108864 = x2 :=
  ⟨by omega, by omega, by omega, by omega⟩

theorem RoundTrip.lkz (g : BitVec 3) : RoundTrip.Statement (.lkz g) := by
  obtain ⟨wd, hn⟩ : ∃ wd, wd = 3221225520 + g.toNat * 8388608 := ⟨_, rfl⟩
  obtain ⟨hlt, q0, q1, q2⟩ := layout36 (show 48 < 8388608 by decide) g.isLt (show 48 < 64 by decide) (hn.trans (by omega))
  refine RoundTrip.ofWord (n := wd) (by exact (by decide : 192 < 232)) (hn ▸ rfl) hlt (fun hw => ?_)
  clear hn
  have e1 : wd / 16 % 16 = 3 := RoundTrip.inner0 q0 16 16 32768 rfl
  have e2 : wd % 16 = 0 := RoundTrip.low0 q0 16 524288 rfl
  have e3 : wd / 256 % 32768 = 0 := RoundTrip.inner0 q0 256 32768 1 rfl
  rw [major48 q2]
  rw [decode30, e1]
  change readLkz wd = _
  unfold readLkz
  rw [RoundTrip.field g q1]
  rw [if_pos ⟨e2, e3⟩]

theorem RoundTrip.lka (g : BitVec 3) (b : BitVec 5) (j : BitVec 5) : RoundTrip.Statement (.lka g b j) := by
  obtain ⟨wd, hn⟩ : ∃ wd, wd = 3288334336 + g.toNat * 8388608 + b.toNat * 8192 + j.toNat * 256 := ⟨_, rfl⟩
  obtain ⟨hlt, q0, q1, q2, q3, q4, q5⟩ := layout34 (show 0 < 256 by decide) j.isLt b.isLt (show 0 < 32 by decide) g.isLt (show 49 < 64 by decide) (hn.trans (by omega))
  refine RoundTrip.ofWord (n := wd) (by exact (by decide : 193 < 232)) (hn ▸ rfl) hlt (fun hw => ?_)
  clear hn
  replace hw : j.toNat ≤ 7 := of_decide_eq_true hw
  have e1 : wd / 16 % 16 = 0 := RoundTrip.inner0 q0 16 16 1 rfl
  have e2 : wd % 16 = 0 := RoundTrip.low0 q0 16 16 rfl
  rw [major49 q5]
  rw [decode31, e1]
  change readLka wd = _
  unfold readLka
  rw [RoundTrip.field g q4, RoundTrip.field b q2, RoundTrip.field j q1]
  have hg := g.isLt
  have hb := b.isLt
  have hj := j.isLt
  rw [e2, q3, q1]
  rw [if_pos (by omega)]

theorem RoundTrip.lkab (g : BitVec 3) (a : BitVec 5) (b : BitVec 5) (c : BitVec 5) (t : BitVec 4) : RoundTrip.Statement (.lkab g a b c t) := by
  obtain ⟨wd, hn⟩ : ∃ wd, wd = 3288334352 + g.toNat * 8388608 + a.toNat * 262144 + b.toNat * 8192 + c.toNat * 256 + t.toNat := ⟨_, rfl⟩
  obtain ⟨hlt, q0, q1, q2, q3, q4, q5, q6⟩ := layout35 t.isLt (show 1 < 16 by decide) c.isLt b.isLt a.isLt g.isLt (show 49 < 64 by decide) (hn.trans (by omega))
  refine RoundTrip.ofWord (n := wd) (by exact (by decide : 194 < 232)) (hn ▸ rfl) hlt (fun hw => ?_)
  clear hn
  replace hw : c.toNat ≤ 15 ∧ (t.toNat ≤ 1 ∨ 8 ≤ t.toNat ∧ t.toNat ≤ 10) := of_decide_eq_true hw
  rw [major49 q6]
  rw [decode31, q1]
  change readLkab wd = _
  unfold readLkab
  rw [RoundTrip.field g q5, RoundTrip.field a q4, RoundTrip.field b q3, RoundTrip.field c q2, RoundTrip.field t q0]
  have hg := g.isLt
  have ha := a.isLt
  have hb := b.isLt
  have hc := c.isLt
  have ht := t.isLt
  rw [q2, q0]
  rw [if_pos (by omega)]

theorem RoundTrip.lkx (g : BitVec 3) (a : BitVec 5) (v : BitVec 5) (t : BitVec 4) : RoundTrip.Statement (.lkx g a v t) := by
  obtain ⟨wd, hn⟩ : ∃ wd, wd = 3288334368 + g.toNat * 8388608 + a.toNat * 262144 + v.toNat * 256 + t.toNat := ⟨_, rfl⟩
  obtain ⟨hlt, q0, q1, q2, q3, q4, q5, q6⟩ := layout35 t.isLt (show 2 < 16 by decide) v.isLt (show 0 < 32 by decide) a.isLt g.isLt (show 49 < 64 by decide) (hn.trans (by omega))
  refine RoundTrip.ofWord (n := wd) (by exact (by decide : 195 < 232)) (hn ▸ rfl) hlt (fun hw => ?_)
  clear hn
  replace hw : (1 ≤ t.toNat ∧ t.toNat ≤ 2 ∨ 8 ≤ t.toNat ∧ t.toNat ≤ 10) := of_decide_eq_true hw
  rw [major49 q6]
  rw [decode31, q1]
  change readLkx wd = _
  unfold readLkx
  rw [RoundTrip.field g q5, RoundTrip.field a q4, RoundTrip.field v q2, RoundTrip.field t q0]
  have hg := g.isLt
  have ha := a.isLt
  have hv := v.isLt
  have ht := t.isLt
  rw [q3, q0]
  rw [if_pos (by omega)]

theorem RoundTrip.bdot (a : BitVec 5) (b : BitVec 5) (c : BitVec 5) : RoundTrip.Statement (.bdot a b c) := by
  obtain ⟨wd, hn⟩ : ∃ wd, wd = 3355443200 + a.toNat * 262144 + b.toNat * 8192 + c.toNat * 256 := ⟨_, rfl⟩
  obtain ⟨hlt, q0, q1, q2, q3, q4, q5⟩ := layout34 (show 0 < 256 by decide) c.isLt b.isLt a.isLt (show 0 < 8 by decide) (show 50 < 64 by decide) (hn.trans (by omega))
  refine RoundTrip.ofWord (n := wd) (by exact (by decide : 196 < 232)) (hn ▸ rfl) hlt (fun hw => ?_)
  clear hn
  have e1 : wd / 16 % 16 = 0 := RoundTrip.inner0 q0 16 16 1 rfl
  have e2 : wd % 16 = 0 := RoundTrip.low0 q0 16 16 rfl
  rw [major50 q5]
  rw [decode32, e1]
  change readBdot wd = _
  unfold readBdot
  rw [RoundTrip.field a q3, RoundTrip.field b q2, RoundTrip.field c q1]
  rw [if_pos ⟨e2, q4⟩]

theorem RoundTrip.baxpy (a : BitVec 5) (b : BitVec 5) (c : BitVec 5) : RoundTrip.Statement (.baxpy a b c) := by
  obtain ⟨wd, hn⟩ : ∃ wd, wd = 3355443216 + a.toNat * 262144 + b.toNat * 8192 + c.toNat * 256 := ⟨_, rfl⟩
  obtain ⟨hlt, q0, q1, q2, q3, q4, q5⟩ := layout34 (show 16 < 256 by decide) c.isLt b.isLt a.isLt (show 0 < 8 by decide) (show 50 < 64 by decide) (hn.trans (by omega))
  refine RoundTrip.ofWord (n := wd) (by exact (by decide : 197 < 232)) (hn ▸ rfl) hlt (fun hw => ?_)
  clear hn
  have e1 : wd / 16 % 16 = 1 := RoundTrip.inner0 q0 16 16 1 rfl
  have e2 : wd % 16 = 0 := RoundTrip.low0 q0 16 16 rfl
  rw [major50 q5]
  rw [decode32, e1]
  change readBaxpy wd = _
  unfold readBaxpy
  rw [RoundTrip.field a q3, RoundTrip.field b q2, RoundTrip.field c q1]
  rw [if_pos ⟨e2, q4⟩]

theorem RoundTrip.bcopy (a : BitVec 5) (c : BitVec 5) : RoundTrip.Statement (.bcopy a c) := by
  obtain ⟨wd, hn⟩ : ∃ wd, wd = 3355443232 + a.toNat * 262144 + c.toNat * 256 := ⟨_, rfl⟩
  obtain ⟨hlt, q0, q1, q2, q3, q4, q5⟩ := layout34 (show 32 < 256 by decide) c.isLt (show 0 < 32 by decide) a.isLt (show 0 < 8 by decide) (show 50 < 64 by decide) (hn.trans (by omega))
  refine RoundTrip.ofWord (n := wd) (by exact (by decide : 198 < 232)) (hn ▸ rfl) hlt (fun hw => ?_)
  clear hn
  have e1 : wd / 16 % 16 = 2 := RoundTrip.inner0 q0 16 16 1 rfl
  have e2 : wd % 16 = 0 := RoundTrip.low0 q0 16 16 rfl
  rw [major50 q5]
  rw [decode32, e1]
  change readBcopy wd = _
  unfold readBcopy
  rw [RoundTrip.field a q3, RoundTrip.field c q1]
  rw [if_pos ⟨e2, q2, q4⟩]

theorem RoundTrip.bbit (a : BitVec 5) (b : BitVec 5) (c : BitVec 5) (o : BitVec 4) : RoundTrip.Statement (.bbit a b c o) := by
  obtain ⟨wd, hn⟩ : ∃ wd, wd = 3355443248 + a.toNat * 262144 + b.toNat * 8192 + c.toNat * 256 + o.toNat := ⟨_, rfl⟩
  obtain ⟨hlt, q0, q1, q2, q3, q4, q5, q6⟩ := layout35 o.isLt (show 3 < 16 by decide) c.isLt b.isLt a.isLt (show 0 < 8 by decide) (show 50 < 64 by decide) (hn.trans (by omega))
  refine RoundTrip.ofWord (n := wd) (by exact (by decide : 199 < 232)) (hn ▸ rfl) hlt (fun hw => ?_)
  clear hn
  replace hw : o.toNat ≤ 4 ∧ (o.toNat = 4 → b.toNat = 0) := of_decide_eq_true hw
  rw [major50 q6]
  rw [decode32, q1]
  change readBbit wd = _
  unfold readBbit
  rw [RoundTrip.field a q4, RoundTrip.field b q3, RoundTrip.field c q2, RoundTrip.field o q0]
  have ha := a.isLt
  have hb := b.isLt
  have hc := c.isLt
  have ho := o.isLt
  rw [q5, q0, q3]
  rw [if_pos (by omega)]

theorem layout37 {n x0 x1 x2 x3 x4 : Nat} (h0 : x0 < 256) (h1 : x1 < 32) (h2 : x2 < 32) (h3 : x3 < 256) (h4 : x4 < 64)
    (e : n = x0 + x1 * 256 + x2 * 8192 + x3 * 262144 + x4 * 67108864) : n < 4294967296 ∧ n % 256 = x0 ∧ n / 256 % 32 = x1 ∧ n / 8192 % 32 = x2 ∧ n / 262144 % 256 = x3 ∧ n / 67108864 = x4 :=
  ⟨by omega, by omega, by omega, by omega, by omega, by omega⟩

theorem RoundTrip.bfill (b : BitVec 5) (c : BitVec 5) : RoundTrip.Statement (.bfill b c) := by
  obtain ⟨wd, hn⟩ : ∃ wd, wd = 3355443264 + b.toNat * 8192 + c.toNat * 256 := ⟨_, rfl⟩
  obtain ⟨hlt, q0, q1, q2, q3, q4⟩ := layout37 (show 64 < 256 by decide) c.isLt b.isLt (show 0 < 256 by decide) (show 50 < 64 by decide) (hn.trans (by omega))
  refine RoundTrip.ofWord (n := wd) (by exact (by decide : 200 < 232)) (hn ▸ rfl) hlt (fun hw => ?_)
  clear hn
  have e1 : wd / 16 % 16 = 4 := RoundTrip.inner0 q0 16 16 1 rfl
  have e2 : wd % 16 = 0 := RoundTrip.low0 q0 16 16 rfl
  rw [major50 q4]
  rw [decode32, e1]
  change readBfill wd = _
  unfold readBfill
  rw [RoundTrip.field b q2, RoundTrip.field c q1]
  rw [if_pos ⟨e2, q3⟩]

theorem RoundTrip.bsync : RoundTrip.Statement (.bsync) := by
  obtain ⟨wd, hn⟩ : ∃ wd, wd = 3355443280 := ⟨_, rfl⟩
  obtain ⟨hlt, q0, q1⟩ := layout9 (show 80 < 67108864 by decide) (show 50 < 64 by decide) (hn.trans (by omega))
  refine RoundTrip.ofWord (n := wd) (by exact (by decide : 201 < 232)) (hn ▸ rfl) hlt (fun hw => ?_)
  clear hn
  have e1 : wd / 16 % 16 = 5 := RoundTrip.inner0 q0 16 16 262144 rfl
  have e2 : wd % 16 = 0 := RoundTrip.low0 q0 16 4194304 rfl
  have e3 : wd / 256 % 262144 = 0 := RoundTrip.inner0 q0 256 262144 1 rfl
  rw [major50 q1]
  rw [decode32, e1]
  change readBsync wd = _
  unfold readBsync
  rw [if_pos ⟨e2, e3⟩]

theorem layout38 {n x0 x1 x2 x3 x4 x5 : Nat} (h0 : x0 < 8) (h1 : x1 < 16) (h2 : x2 < 512) (h3 : x3 < 32) (h4 : x4 < 32) (h5 : x5 < 64)
    (e : n = x0 + x1 * 8 + x2 * 128 + x3 * 65536 + x4 * 2097152 + x5 * 67108864) : n < 4294967296 ∧ n % 8 = x0 ∧ n / 8 % 16 = x1 ∧ n / 128 % 512 = x2 ∧ n / 65536 % 32 = x3 ∧ n / 2097152 % 32 = x4 ∧ n / 67108864 = x5 :=
  ⟨by omega, by omega, by omega, by omega, by omega, by omega, by omega⟩

theorem RoundTrip.cpdecl (a : BitVec 5) (k : BitVec 4) : RoundTrip.Statement (.cpdecl a k) := by
  obtain ⟨wd, hn⟩ : ∃ wd, wd = 3489660928 + a.toNat * 65536 + k.toNat * 8 := ⟨_, rfl⟩
  obtain ⟨hlt, q0, q1, q2, q3, q4, q5⟩ := layout38 (show 0 < 8 by decide) k.isLt (show 0 < 512 by decide) a.isLt (show 0 < 32 by decide) (show 52 < 64 by decide) (hn.trans (by omega))
  refine RoundTrip.ofWord (n := wd) (by exact (by decide : 202 < 232)) (hn ▸ rfl) hlt (fun hw => ?_)
  clear hn
  rw [major52 q5]
  rw [decode34, q0]
  change readCpdecl wd = _
  unfold readCpdecl
  rw [RoundTrip.field a q3, RoundTrip.field k q1]
  rw [if_pos ⟨q2, q4⟩]

theorem layout39 {n x0 x1 x2 x3 x4 : Nat} (h0 : x0 < 8) (h1 : x1 < 16) (h2 : x2 < 16) (h3 : x3 < 32768) (h4 : x4 < 64)
    (e : n = x0 + x1 * 8 + x2 * 128 + x3 * 2048 + x4 * 67108864) : n < 4294967296 ∧ n % 8 = x0 ∧ n / 8 % 16 = x1 ∧ n / 128 % 16 = x2 ∧ n / 2048 % 32768 = x3 ∧ n / 67108864 = x4 :=
  ⟨by omega, by omega, by omega, by omega, by omega, by omega⟩

theorem RoundTrip.cplink (j : BitVec 4) (k : BitVec 4) : RoundTrip.Statement (.cplink j k) := by
  obtain ⟨wd, hn⟩ : ∃ wd, wd = 3489660929 + j.toNat * 128 + k.toNat * 8 := ⟨_, rfl⟩
  obtain ⟨hlt, q0, q1, q2, q3, q4⟩ := layout39 (show 1 < 8 by decide) k.isLt j.isLt (show 0 < 32768 by decide) (show 52 < 64 by decide) (hn.trans (by omega))
  refine RoundTrip.ofWord (n := wd) (by exact (by decide : 203 < 232)) (hn ▸ rfl) hlt (fun hw => ?_)
  clear hn
  rw [major52 q4]
  rw [decode34, q0]
  change readCplink wd = _
  unfold readCplink
  rw [RoundTrip.field j q2, RoundTrip.field k q1]
  rw [if_pos q3]

theorem layout40 {n x0 x1 x2 x3 x4 x5 x6 : Nat} (h0 : x0 < 8) (h1 : x1 < 16) (h2 : x2 < 16) (h3 : x3 < 32) (h4 : x4 < 32) (h5 : x5 < 32) (h6 : x6 < 64)
    (e : n = x0 + x1 * 8 + x2 * 128 + x3 * 2048 + x4 * 65536 + x5 * 2097152 + x6 * 67108864) : n < 4294967296 ∧ n % 8 = x0 ∧ n / 8 % 16 = x1 ∧ n / 128 % 16 = x2 ∧ n / 2048 % 32 = x3 ∧ n / 65536 % 32 = x4 ∧ n / 2097152 % 32 = x5 ∧ n / 67108864 = x6 :=
  ⟨by omega, by omega, by omega, by omega, by omega, by omega, by omega, by omega⟩

theorem RoundTrip.cpstore (d : BitVec 5) (a : BitVec 5) (b : BitVec 5) (k : BitVec 4) : RoundTrip.Statement (.cpstore d a b k) := by
  obtain ⟨wd, hn⟩ : ∃ wd, wd = 3489660930 + d.toNat * 2097152 + a.toNat * 65536 + b.toNat * 2048 + k.toNat * 8 := ⟨_, rfl⟩
  obtain ⟨hlt, q0, q1, q2, q3, q4, q5, q6⟩ := layout40 (show 2 < 8 by decide) k.isLt (show 0 < 16 by decide) b.isLt a.isLt d.isLt (show 52 < 64 by decide) (hn.trans (by omega))
  refine RoundTrip.ofWord (n := wd) (by exact (by decide : 204 < 232)) (hn ▸ rfl) hlt (fun hw => ?_)
  clear hn
  rw [major52 q6]
  rw [decode34, q0]
  change readCpstore wd = _
  unfold readCpstore
  rw [RoundTrip.field d q5, RoundTrip.field a q4, RoundTrip.field b q3, RoundTrip.field k q1]
  rw [if_pos q2]

theorem RoundTrip.cpwaitR (a : BitVec 5) (k : BitVec 4) : RoundTrip.Statement (.cpwaitR a k) := by
  obtain ⟨wd, hn⟩ : ∃ wd, wd = 3489660931 + a.toNat * 65536 + k.toNat * 8 := ⟨_, rfl⟩
  obtain ⟨hlt, q0, q1, q2, q3, q4, q5⟩ := layout38 (show 3 < 8 by decide) k.isLt (show 0 < 512 by decide) a.isLt (show 0 < 32 by decide) (show 52 < 64 by decide) (hn.trans (by omega))
  refine RoundTrip.ofWord (n := wd) (by exact (by decide : 205 < 232)) (hn ▸ rfl) hlt (fun hw => ?_)
  clear hn
  rw [major52 q5]
  rw [decode34, q0]
  change readCpwaitR wd = _
  unfold readCpwaitR
  rw [RoundTrip.field a q3, RoundTrip.field k q1]
  rw [if_pos ⟨q2, q4⟩]

theorem layout41 {n x0 x1 x2 x3 x4 x5 x6 : Nat} (h0 : x0 < 8) (h1 : x1 < 16) (h2 : x2 < 8) (h3 : x3 < 64) (h4 : x4 < 32) (h5 : x5 < 32) (h6 : x6 < 64)
    (e : n = x0 + x1 * 8 + x2 * 128 + x3 * 1024 + x4 * 65536 + x5 * 2097152 + x6 * 67108864) : n < 4294967296 ∧ n % 8 = x0 ∧ n / 8 % 16 = x1 ∧ n / 128 % 8 = x2 ∧ n / 1024 % 64 = x3 ∧ n / 65536 % 32 = x4 ∧ n / 2097152 % 32 = x5 ∧ n / 67108864 = x6 :=
  ⟨by omega, by omega, by omega, by omega, by omega, by omega, by omega, by omega⟩

theorem RoundTrip.cpwaitV (a : BitVec 5) (s : BitVec 3) (k : BitVec 4) : RoundTrip.Statement (.cpwaitV a s k) := by
  obtain ⟨wd, hn⟩ : ∃ wd, wd = 3489660932 + a.toNat * 65536 + s.toNat * 128 + k.toNat * 8 := ⟨_, rfl⟩
  obtain ⟨hlt, q0, q1, q2, q3, q4, q5, q6⟩ := layout41 (show 4 < 8 by decide) k.isLt s.isLt (show 0 < 64 by decide) a.isLt (show 0 < 32 by decide) (show 52 < 64 by decide) (hn.trans (by omega))
  refine RoundTrip.ofWord (n := wd) (by exact (by decide : 206 < 232)) (hn ▸ rfl) hlt (fun hw => ?_)
  clear hn
  replace hw : s.toNat ≤ 4 := of_decide_eq_true hw
  rw [major52 q6]
  rw [decode34, q0]
  change readCpwaitV wd = _
  unfold readCpwaitV
  rw [RoundTrip.field a q4, RoundTrip.field s q2, RoundTrip.field k q1]
  have ha := a.isLt
  have hs := s.isLt
  have hk := k.isLt
  rw [q3, q5, q2]
  rw [if_pos (by omega)]

theorem layout42 {n x0 x1 x2 x3 : Nat} (h0 : x0 < 8) (h1 : x1 < 16) (h2 : x2 < 524288) (h3 : x3 < 64)
    (e : n = x0 + x1 * 8 + x2 * 128 + x3 * 67108864) : n < 4294967296 ∧ n % 8 = x0 ∧ n / 8 % 16 = x1 ∧ n / 128 % 524288 = x2 ∧ n / 67108864 = x3 :=
  ⟨by omega, by omega, by omega, by omega, by omega⟩

theorem RoundTrip.cpcancel (k : BitVec 4) : RoundTrip.Statement (.cpcancel k) := by
  obtain ⟨wd, hn⟩ : ∃ wd, wd = 3489660933 + k.toNat * 8 := ⟨_, rfl⟩
  obtain ⟨hlt, q0, q1, q2, q3⟩ := layout42 (show 5 < 8 by decide) k.isLt (show 0 < 524288 by decide) (show 52 < 64 by decide) (hn.trans (by omega))
  refine RoundTrip.ofWord (n := wd) (by exact (by decide : 207 < 232)) (hn ▸ rfl) hlt (fun hw => ?_)
  clear hn
  rw [major52 q3]
  rw [decode34, q0]
  change readCpcancel wd = _
  unfold readCpcancel
  rw [RoundTrip.field k q1]
  rw [if_pos q2]

theorem layout43 {n x0 x1 x2 x3 x4 : Nat} (h0 : x0 < 8) (h1 : x1 < 16) (h2 : x2 < 16384) (h3 : x3 < 32) (h4 : x4 < 64)
    (e : n = x0 + x1 * 8 + x2 * 128 + x3 * 2097152 + x4 * 67108864) : n < 4294967296 ∧ n % 8 = x0 ∧ n / 8 % 16 = x1 ∧ n / 128 % 16384 = x2 ∧ n / 2097152 % 32 = x3 ∧ n / 67108864 = x4 :=
  ⟨by omega, by omega, by omega, by omega, by omega, by omega⟩

theorem RoundTrip.srd (d : BitVec 5) (k : BitVec 4) : RoundTrip.Statement (.srd d k) := by
  obtain ⟨wd, hn⟩ : ∃ wd, wd = 3489660934 + d.toNat * 2097152 + k.toNat * 8 := ⟨_, rfl⟩
  obtain ⟨hlt, q0, q1, q2, q3, q4⟩ := layout43 (show 6 < 8 by decide) k.isLt (show 0 < 16384 by decide) d.isLt (show 52 < 64 by decide) (hn.trans (by omega))
  refine RoundTrip.ofWord (n := wd) (by exact (by decide : 208 < 232)) (hn ▸ rfl) hlt (fun hw => ?_)
  clear hn
  rw [major52 q4]
  rw [decode34, q0]
  change readSrd wd = _
  unfold readSrd
  rw [RoundTrip.field d q3, RoundTrip.field k q1]
  rw [if_pos q2]

theorem RoundTrip.savail (d : BitVec 5) (k : BitVec 4) : RoundTrip.Statement (.savail d k) := by
  obtain ⟨wd, hn⟩ : ∃ wd, wd = 3489660935 + d.toNat * 2097152 + k.toNat * 8 := ⟨_, rfl⟩
  obtain ⟨hlt, q0, q1, q2, q3, q4⟩ := layout43 (show 7 < 8 by decide) k.isLt (show 0 < 16384 by decide) d.isLt (show 52 < 64 by decide) (hn.trans (by omega))
  refine RoundTrip.ofWord (n := wd) (by exact (by decide : 209 < 232)) (hn ▸ rfl) hlt (fun hw => ?_)
  clear hn
  rw [major52 q4]
  rw [show decode34 wd = readSavail wd by simp only [decode34, q0, reduceIte, ne_eq, not_true_eq_false, and_self, or_self, true_and, Nat.reduceEqDiff]]
  unfold readSavail
  rw [RoundTrip.field d q3, RoundTrip.field k q1]
  rw [if_pos q2]

theorem layout44 {n x0 x1 x2 x3 x4 x5 x6 : Nat} (h0 : x0 < 4) (h1 : x1 < 2) (h2 : x2 < 256) (h3 : x3 < 32) (h4 : x4 < 32) (h5 : x5 < 32) (h6 : x6 < 64)
    (e : n = x0 + x1 * 4 + x2 * 8 + x3 * 2048 + x4 * 65536 + x5 * 2097152 + x6 * 67108864) : n < 4294967296 ∧ n % 4 = x0 ∧ n / 4 % 2 = x1 ∧ n / 8 % 256 = x2 ∧ n / 2048 % 32 = x3 ∧ n / 65536 % 32 = x4 ∧ n / 2097152 % 32 = x5 ∧ n / 67108864 = x6 :=
  ⟨by omega, by omega, by omega, by omega, by omega, by omega, by omega, by omega⟩

theorem RoundTrip.cflush (a : BitVec 5) (b : BitVec 5) (i : BitVec 1) : RoundTrip.Statement (.cflush a b i) := by
  obtain ⟨wd, hn⟩ : ∃ wd, wd = 3556769792 + a.toNat * 65536 + b.toNat * 2048 + i.toNat * 4 := ⟨_, rfl⟩
  obtain ⟨hlt, q0, q1, q2, q3, q4, q5, q6⟩ := layout44 (show 0 < 4 by decide) i.isLt (show 0 < 256 by decide) b.isLt a.isLt (show 0 < 32 by decide) (show 53 < 64 by decide) (hn.trans (by omega))
  refine RoundTrip.ofWord (n := wd) (by exact (by decide : 210 < 232)) (hn ▸ rfl) hlt (fun hw => ?_)
  clear hn
  rw [major53 q6]
  have hi := i.isLt
  have hm : wd % 8 = 0 ∨ wd % 8 = 4 := by omega
  rw [show decode35 wd = readCflush wd by rcases hm with h | h <;> simp only [decode35, h, q2, ne_eq, not_true_eq_false, reduceIte]]
  unfold readCflush
  rw [RoundTrip.field a q4, RoundTrip.field b q3, RoundTrip.field i q1]
  rw [if_pos q5]

theorem RoundTrip.cinval (a : BitVec 5) (b : BitVec 5) : RoundTrip.Statement (.cinval a b) := by
  obtain ⟨wd, hn⟩ : ∃ wd, wd = 3556769793 + a.toNat * 65536 + b.toNat * 2048 := ⟨_, rfl⟩
  obtain ⟨hlt, q0, q1, q2, q3, q4⟩ := layout1 (show 1 < 2048 by decide) b.isLt a.isLt (show 0 < 32 by decide) (show 53 < 64 by decide) (hn.trans (by omega))
  refine RoundTrip.ofWord (n := wd) (by exact (by decide : 211 < 232)) (hn ▸ rfl) hlt (fun hw => ?_)
  clear hn
  have e1 : wd / 8 % 256 = 0 := RoundTrip.inner0 q0 8 256 1 rfl
  have e2 : wd % 8 = 1 := RoundTrip.low0 q0 8 256 rfl
  rw [major53 q4]
  rw [show decode35 wd = readCinval wd by simp only [decode35, e1, e2, reduceIte, ne_eq, not_true_eq_false, and_self, or_self, true_and, Nat.reduceEqDiff]]
  unfold readCinval
  rw [RoundTrip.field a q2, RoundTrip.field b q1]
  rw [if_pos q3]

theorem RoundTrip.czero (a : BitVec 5) (b : BitVec 5) : RoundTrip.Statement (.czero a b) := by
  obtain ⟨wd, hn⟩ : ∃ wd, wd = 3556769794 + a.toNat * 65536 + b.toNat * 2048 := ⟨_, rfl⟩
  obtain ⟨hlt, q0, q1, q2, q3, q4⟩ := layout1 (show 2 < 2048 by decide) b.isLt a.isLt (show 0 < 32 by decide) (show 53 < 64 by decide) (hn.trans (by omega))
  refine RoundTrip.ofWord (n := wd) (by exact (by decide : 212 < 232)) (hn ▸ rfl) hlt (fun hw => ?_)
  clear hn
  have e1 : wd / 8 % 256 = 0 := RoundTrip.inner0 q0 8 256 1 rfl
  have e2 : wd % 8 = 2 := RoundTrip.low0 q0 8 256 rfl
  rw [major53 q4]
  rw [show decode35 wd = readCzero wd by simp only [decode35, e1, e2, reduceIte, ne_eq, not_true_eq_false, and_self, or_self, true_and, Nat.reduceEqDiff]]
  unfold readCzero
  rw [RoundTrip.field a q2, RoundTrip.field b q1]
  rw [if_pos q3]

theorem RoundTrip.cseal (a : BitVec 5) (b : BitVec 5) : RoundTrip.Statement (.cseal a b) := by
  obtain ⟨wd, hn⟩ : ∃ wd, wd = 3556769795 + a.toNat * 65536 + b.toNat * 2048 := ⟨_, rfl⟩
  obtain ⟨hlt, q0, q1, q2, q3, q4⟩ := layout1 (show 3 < 2048 by decide) b.isLt a.isLt (show 0 < 32 by decide) (show 53 < 64 by decide) (hn.trans (by omega))
  refine RoundTrip.ofWord (n := wd) (by exact (by decide : 213 < 232)) (hn ▸ rfl) hlt (fun hw => ?_)
  clear hn
  have e1 : wd / 8 % 256 = 0 := RoundTrip.inner0 q0 8 256 1 rfl
  have e2 : wd % 8 = 3 := RoundTrip.low0 q0 8 256 rfl
  rw [major53 q4]
  rw [show decode35 wd = readCseal wd by simp only [decode35, e1, e2, reduceIte, ne_eq, not_true_eq_false, and_self, or_self, true_and, Nat.reduceEqDiff]]
  unfold readCseal
  rw [RoundTrip.field a q2, RoundTrip.field b q1]
  rw [if_pos q3]

theorem RoundTrip.tap (s : BitVec 5) (b : BitVec 5) (m : BitVec 3) (t : BitVec 4) : RoundTrip.Statement (.tap s b m t) := by
  obtain ⟨wd, hn⟩ : ∃ wd, wd = 3623878656 + s.toNat * 65536 + b.toNat * 2048 + m.toNat * 256 + t.toNat * 16 := ⟨_, rfl⟩
  obtain ⟨hlt, q0, q1, q2, q3, q4, q5, q6⟩ := layout15 (show 0 < 16 by decide) t.isLt m.isLt b.isLt s.isLt (show 0 < 32 by decide) (show 54 < 64 by decide) (hn.trans (by omega))
  refine RoundTrip.ofWord (n := wd) (by exact (by decide : 214 < 232)) (hn ▸ rfl) hlt (fun hw => ?_)
  clear hn
  replace hw : ((8 ≤ t.toNat ∧ t.toNat ≤ 10)) := of_decide_eq_true hw
  rw [major54 q6]
  rw [decode36, q0]
  change readTap wd = _
  unfold readTap
  rw [RoundTrip.field s q4, RoundTrip.field b q3, RoundTrip.field m q2, RoundTrip.field t q1]
  have hs := s.isLt
  have hb := b.isLt
  have hm := m.isLt
  have ht := t.isLt
  rw [q5, q1]
  rw [if_pos (by omega)]
  rw [if_pos (by omega)]

theorem RoundTrip.tapend (a : BitVec 5) : RoundTrip.Statement (.tapend a) := by
  obtain ⟨wd, hn⟩ : ∃ wd, wd = 3623878657 + a.toNat * 65536 := ⟨_, rfl⟩
  obtain ⟨hlt, q0, q1, q2, q3⟩ := layout2 (show 1 < 65536 by decide) a.isLt (show 0 < 32 by decide) (show 54 < 64 by decide) (hn.trans (by omega))
  refine RoundTrip.ofWord (n := wd) (by exact (by decide : 215 < 232)) (hn ▸ rfl) hlt (fun hw => ?_)
  clear hn
  have e1 : wd % 16 = 1 := RoundTrip.low0 q0 16 4096 rfl
  have e2 : wd / 256 % 256 = 0 := RoundTrip.inner0 q0 256 256 1 rfl
  have e4 : wd / 16 % 16 = 0 := RoundTrip.inner0 q0 16 16 256 rfl
  rw [major54 q3]
  rw [decode36, e1]
  change readTapend wd = _
  unfold readTapend
  rw [RoundTrip.field a q1]
  have ha := a.isLt
  rw [e2, q2, e4]
  rw [if_pos (by omega)]
  rw [if_pos (by omega)]

theorem RoundTrip.tapsteer (d : BitVec 5) (b : BitVec 5) (m : BitVec 3) (t : BitVec 4) : RoundTrip.Statement (.tapsteer d b m t) := by
  obtain ⟨wd, hn⟩ : ∃ wd, wd = 3623878658 + d.toNat * 2097152 + b.toNat * 2048 + m.toNat * 256 + t.toNat * 16 := ⟨_, rfl⟩
  obtain ⟨hlt, q0, q1, q2, q3, q4, q5, q6⟩ := layout15 (show 2 < 16 by decide) t.isLt m.isLt b.isLt (show 0 < 32 by decide) d.isLt (show 54 < 64 by decide) (hn.trans (by omega))
  refine RoundTrip.ofWord (n := wd) (by exact (by decide : 216 < 232)) (hn ▸ rfl) hlt (fun hw => ?_)
  clear hn
  replace hw : ((8 ≤ t.toNat ∧ t.toNat ≤ 10)) := of_decide_eq_true hw
  rw [major54 q6]
  rw [decode36, q0]
  change readTapsteer wd = _
  unfold readTapsteer
  rw [RoundTrip.field d q5, RoundTrip.field b q3, RoundTrip.field m q2, RoundTrip.field t q1]
  have hd := d.isLt
  have hb := b.isLt
  have hm := m.isLt
  have ht := t.isLt
  rw [q4, q1]
  rw [if_pos (by omega)]
  rw [if_pos (by omega)]

theorem RoundTrip.urd (d : BitVec 5) (a : BitVec 5) (t : BitVec 4) : RoundTrip.Statement (.urd d a t) := by
  obtain ⟨wd, hn⟩ : ∃ wd, wd = 3690987520 + d.toNat * 2097152 + a.toNat * 65536 + t.toNat * 16 := ⟨_, rfl⟩
  obtain ⟨hlt, q0, q1, q2, q3, q4, q5⟩ := layout14 (show 0 < 16 by decide) t.isLt (show 0 < 256 by decide) a.isLt d.isLt (show 55 < 64 by decide) (hn.trans (by omega))
  refine RoundTrip.ofWord (n := wd) (by exact (by decide : 217 < 232)) (hn ▸ rfl) hlt (fun hw => ?_)
  clear hn
  replace hw : (t.toNat = 6 ∨ t.toNat = 10) := of_decide_eq_true hw
  rw [major55 q5]
  rw [decode37, q0]
  change readUrd wd = _
  unfold readUrd
  rw [RoundTrip.field d q4, RoundTrip.field a q3, RoundTrip.field t q1]
  have hd := d.isLt
  have ha := a.isLt
  have ht := t.isLt
  rw [q2, q1]
  rw [if_pos (by omega)]
  rw [if_pos (by omega)]

theorem RoundTrip.vurd (d : BitVec 5) (m : BitVec 3) (t : BitVec 4) : RoundTrip.Statement (.vurd d m t) := by
  obtain ⟨wd, hn⟩ : ∃ wd, wd = 3690987521 + d.toNat * 2097152 + m.toNat * 256 + t.toNat * 16 := ⟨_, rfl⟩
  obtain ⟨hlt, q0, q1, q2, q3, q4, q5⟩ := layout20 (show 1 < 16 by decide) t.isLt m.isLt (show 0 < 1024 by decide) d.isLt (show 55 < 64 by decide) (hn.trans (by omega))
  refine RoundTrip.ofWord (n := wd) (by exact (by decide : 218 < 232)) (hn ▸ rfl) hlt (fun hw => ?_)
  clear hn
  replace hw : (t.toNat = 6 ∨ t.toNat = 10) := of_decide_eq_true hw
  rw [major55 q5]
  rw [decode37, q0]
  change readVurd wd = _
  unfold readVurd
  rw [RoundTrip.field d q4, RoundTrip.field m q2, RoundTrip.field t q1]
  have hd := d.isLt
  have hm := m.isLt
  have ht := t.isLt
  rw [q3, q1]
  rw [if_pos (by omega)]
  rw [if_pos (by omega)]

theorem RoundTrip.vshort (d : BitVec 5) (s : BitVec 5) (a : BitVec 5) (m : BitVec 3) (t : BitVec 4) : RoundTrip.Statement (.vshort d s a m t) := by
  obtain ⟨wd, hn⟩ : ∃ wd, wd = 3690987522 + d.toNat * 2097152 + s.toNat * 65536 + a.toNat * 2048 + m.toNat * 256 + t.toNat * 16 := ⟨_, rfl⟩
  obtain ⟨hlt, q0, q1, q2, q3, q4, q5, q6⟩ := layout15 (show 2 < 16 by decide) t.isLt m.isLt a.isLt s.isLt d.isLt (show 55 < 64 by decide) (hn.trans (by omega))
  refine RoundTrip.ofWord (n := wd) (by exact (by decide : 219 < 232)) (hn ▸ rfl) hlt (fun hw => ?_)
  clear hn
  replace hw : ((5 ≤ t.toNat ∧ t.toNat ≤ 6) ∨ (8 ≤ t.toNat ∧ t.toNat ≤ 10)) := of_decide_eq_true hw
  rw [major55 q6]
  rw [decode37, q0]
  change readVshort wd = _
  unfold readVshort
  rw [RoundTrip.field d q5, RoundTrip.field s q4, RoundTrip.field a q3, RoundTrip.field m q2, RoundTrip.field t q1]
  have hd := d.isLt
  have hs := s.isLt
  have ha := a.isLt
  have hm := m.isLt
  have ht := t.isLt
  rw [q1]
  rw [if_pos (by omega)]

theorem RoundTrip.vaccept (d : BitVec 5) (a : BitVec 5) (m : BitVec 3) : RoundTrip.Statement (.vaccept d a m) := by
  obtain ⟨wd, hn⟩ : ∃ wd, wd = 3690987523 + d.toNat * 2097152 + a.toNat * 65536 + m.toNat * 256 := ⟨_, rfl⟩
  obtain ⟨hlt, q0, q1, q2, q3, q4, q5⟩ := layout17 (show 3 < 256 by decide) m.isLt (show 0 < 32 by decide) a.isLt d.isLt (show 55 < 64 by decide) (hn.trans (by omega))
  refine RoundTrip.ofWord (n := wd) (by exact (by decide : 220 < 232)) (hn ▸ rfl) hlt (fun hw => ?_)
  clear hn
  have e1 : wd % 16 = 3 := RoundTrip.low0 q0 16 16 rfl
  have e3 : wd / 16 % 16 = 0 := RoundTrip.inner0 q0 16 16 1 rfl
  rw [major55 q5]
  rw [decode37, e1]
  change readVaccept wd = _
  unfold readVaccept
  rw [RoundTrip.field d q4, RoundTrip.field a q3, RoundTrip.field m q1]
  have hd := d.isLt
  have ha := a.isLt
  have hm := m.isLt
  rw [q2, e3]
  rw [if_pos (by omega)]
  rw [if_pos (by omega)]

theorem RoundTrip.scommit (a : BitVec 5) : RoundTrip.Statement (.scommit a) := by
  obtain ⟨wd, hn⟩ : ∃ wd, wd = 3690987524 + a.toNat * 65536 := ⟨_, rfl⟩
  obtain ⟨hlt, q0, q1, q2, q3⟩ := layout2 (show 4 < 65536 by decide) a.isLt (show 0 < 32 by decide) (show 55 < 64 by decide) (hn.trans (by omega))
  refine RoundTrip.ofWord (n := wd) (by exact (by decide : 221 < 232)) (hn ▸ rfl) hlt (fun hw => ?_)
  clear hn
  have e1 : wd % 16 = 4 := RoundTrip.low0 q0 16 4096 rfl
  have e2 : wd / 256 % 256 = 0 := RoundTrip.inner0 q0 256 256 1 rfl
  have e4 : wd / 16 % 16 = 0 := RoundTrip.inner0 q0 16 16 256 rfl
  rw [major55 q3]
  rw [decode37, e1]
  change readScommit wd = _
  unfold readScommit
  rw [RoundTrip.field a q1]
  have ha := a.isLt
  rw [e2, q2, e4]
  rw [if_pos (by omega)]
  rw [if_pos (by omega)]

theorem layout45 {n x0 x1 x2 x3 x4 x5 x6 x7 : Nat} (h0 : x0 < 32) (h1 : x1 < 2) (h2 : x2 < 2) (h3 : x3 < 16) (h4 : x4 < 32) (h5 : x5 < 32) (h6 : x6 < 32) (h7 : x7 < 64)
    (e : n = x0 + x1 * 32 + x2 * 64 + x3 * 128 + x4 * 2048 + x5 * 65536 + x6 * 2097152 + x7 * 67108864) : n < 4294967296 ∧ n % 32 = x0 ∧ n / 32 % 2 = x1 ∧ n / 64 % 2 = x2 ∧ n / 128 % 16 = x3 ∧ n / 2048 % 32 = x4 ∧ n / 65536 % 32 = x5 ∧ n / 2097152 % 32 = x6 ∧ n / 67108864 = x7 :=
  ⟨by omega, by omega, by omega, by omega, by omega, by omega, by omega, by omega, by omega⟩

theorem RoundTrip.ramoAdd (d : BitVec 5) (a : BitVec 5) (b : BitVec 5) (z : BitVec 1) (q : BitVec 1) : RoundTrip.Statement (.ramoAdd d a b z q) := by
  obtain ⟨wd, hn⟩ : ∃ wd, wd = 3758096384 + d.toNat * 2097152 + a.toNat * 65536 + b.toNat * 2048 + z.toNat * 64 + q.toNat * 32 := ⟨_, rfl⟩
  obtain ⟨hlt, q0, q1, q2, q3, q4, q5, q6, q7⟩ := layout45 (show 0 < 32 by decide) q.isLt z.isLt (show 0 < 16 by decide) b.isLt a.isLt d.isLt (show 56 < 64 by decide) (hn.trans (by omega))
  refine RoundTrip.ofWord (n := wd) (by exact (by decide : 222 < 232)) (hn ▸ rfl) hlt (fun hw => ?_)
  clear hn
  have e1 : wd % 16 = 0 := RoundTrip.low0 q0 16 2 rfl
  have e2 : wd / 256 % 8 = 0 := RoundTrip.inner q3 2 8 1 rfl
  have e4 : wd / 16 % 2 = 0 := RoundTrip.inner0 q0 16 2 1 rfl
  rw [major56 q7]
  rw [show decode38 wd = readRamoAdd wd by simp only [decode38, e1, e2, q3, e4, reduceIte, ne_eq, not_true_eq_false, and_self, or_self, true_and, Nat.reduceEqDiff]]
  unfold readRamoAdd
  rw [RoundTrip.field d q6, RoundTrip.field a q5, RoundTrip.field b q4, RoundTrip.field z q2, RoundTrip.field q q1]

theorem RoundTrip.ramoAnd (d : BitVec 5) (a : BitVec 5) (b : BitVec 5) (z : BitVec 1) (q : BitVec 1) : RoundTrip.Statement (.ramoAnd d a b z q) := by
  obtain ⟨wd, hn⟩ : ∃ wd, wd = 3758096385 + d.toNat * 2097152 + a.toNat * 65536 + b.toNat * 2048 + z.toNat * 64 + q.toNat * 32 := ⟨_, rfl⟩
  obtain ⟨hlt, q0, q1, q2, q3, q4, q5, q6, q7⟩ := layout45 (show 1 < 32 by decide) q.isLt z.isLt (show 0 < 16 by decide) b.isLt a.isLt d.isLt (show 56 < 64 by decide) (hn.trans (by omega))
  refine RoundTrip.ofWord (n := wd) (by exact (by decide : 223 < 232)) (hn ▸ rfl) hlt (fun hw => ?_)
  clear hn
  have e1 : wd % 16 = 1 := RoundTrip.low0 q0 16 2 rfl
  have e2 : wd / 256 % 8 = 0 := RoundTrip.inner q3 2 8 1 rfl
  have e4 : wd / 16 % 2 = 0 := RoundTrip.inner0 q0 16 2 1 rfl
  rw [major56 q7]
  rw [show decode38 wd = readRamoAnd wd by simp only [decode38, e1, e2, q3, e4, reduceIte, ne_eq, not_true_eq_false, and_self, or_self, true_and, Nat.reduceEqDiff]]
  unfold readRamoAnd
  rw [RoundTrip.field d q6, RoundTrip.field a q5, RoundTrip.field b q4, RoundTrip.field z q2, RoundTrip.field q q1]

theorem RoundTrip.ramoOr (d : BitVec 5) (a : BitVec 5) (b : BitVec 5) (z : BitVec 1) (q : BitVec 1) : RoundTrip.Statement (.ramoOr d a b z q) := by
  obtain ⟨wd, hn⟩ : ∃ wd, wd = 3758096386 + d.toNat * 2097152 + a.toNat * 65536 + b.toNat * 2048 + z.toNat * 64 + q.toNat * 32 := ⟨_, rfl⟩
  obtain ⟨hlt, q0, q1, q2, q3, q4, q5, q6, q7⟩ := layout45 (show 2 < 32 by decide) q.isLt z.isLt (show 0 < 16 by decide) b.isLt a.isLt d.isLt (show 56 < 64 by decide) (hn.trans (by omega))
  refine RoundTrip.ofWord (n := wd) (by exact (by decide : 224 < 232)) (hn ▸ rfl) hlt (fun hw => ?_)
  clear hn
  have e1 : wd % 16 = 2 := RoundTrip.low0 q0 16 2 rfl
  have e2 : wd / 256 % 8 = 0 := RoundTrip.inner q3 2 8 1 rfl
  have e4 : wd / 16 % 2 = 0 := RoundTrip.inner0 q0 16 2 1 rfl
  rw [major56 q7]
  rw [show decode38 wd = readRamoOr wd by simp only [decode38, e1, e2, q3, e4, reduceIte, ne_eq, not_true_eq_false, and_self, or_self, true_and, Nat.reduceEqDiff]]
  unfold readRamoOr
  rw [RoundTrip.field d q6, RoundTrip.field a q5, RoundTrip.field b q4, RoundTrip.field z q2, RoundTrip.field q q1]

theorem RoundTrip.ramoXor (d : BitVec 5) (a : BitVec 5) (b : BitVec 5) (z : BitVec 1) (q : BitVec 1) : RoundTrip.Statement (.ramoXor d a b z q) := by
  obtain ⟨wd, hn⟩ : ∃ wd, wd = 3758096387 + d.toNat * 2097152 + a.toNat * 65536 + b.toNat * 2048 + z.toNat * 64 + q.toNat * 32 := ⟨_, rfl⟩
  obtain ⟨hlt, q0, q1, q2, q3, q4, q5, q6, q7⟩ := layout45 (show 3 < 32 by decide) q.isLt z.isLt (show 0 < 16 by decide) b.isLt a.isLt d.isLt (show 56 < 64 by decide) (hn.trans (by omega))
  refine RoundTrip.ofWord (n := wd) (by exact (by decide : 225 < 232)) (hn ▸ rfl) hlt (fun hw => ?_)
  clear hn
  have e1 : wd % 16 = 3 := RoundTrip.low0 q0 16 2 rfl
  have e2 : wd / 256 % 8 = 0 := RoundTrip.inner q3 2 8 1 rfl
  have e4 : wd / 16 % 2 = 0 := RoundTrip.inner0 q0 16 2 1 rfl
  rw [major56 q7]
  rw [show decode38 wd = readRamoXor wd by simp only [decode38, e1, e2, q3, e4, reduceIte, ne_eq, not_true_eq_false, and_self, or_self, true_and, Nat.reduceEqDiff]]
  unfold readRamoXor
  rw [RoundTrip.field d q6, RoundTrip.field a q5, RoundTrip.field b q4, RoundTrip.field z q2, RoundTrip.field q q1]

theorem RoundTrip.ramoMin (d : BitVec 5) (a : BitVec 5) (b : BitVec 5) (z : BitVec 1) (q : BitVec 1) : RoundTrip.Statement (.ramoMin d a b z q) := by
  obtain ⟨wd, hn⟩ : ∃ wd, wd = 3758096388 + d.toNat * 2097152 + a.toNat * 65536 + b.toNat * 2048 + z.toNat * 64 + q.toNat * 32 := ⟨_, rfl⟩
  obtain ⟨hlt, q0, q1, q2, q3, q4, q5, q6, q7⟩ := layout45 (show 4 < 32 by decide) q.isLt z.isLt (show 0 < 16 by decide) b.isLt a.isLt d.isLt (show 56 < 64 by decide) (hn.trans (by omega))
  refine RoundTrip.ofWord (n := wd) (by exact (by decide : 226 < 232)) (hn ▸ rfl) hlt (fun hw => ?_)
  clear hn
  have e1 : wd % 16 = 4 := RoundTrip.low0 q0 16 2 rfl
  have e2 : wd / 256 % 8 = 0 := RoundTrip.inner q3 2 8 1 rfl
  have e4 : wd / 16 % 2 = 0 := RoundTrip.inner0 q0 16 2 1 rfl
  rw [major56 q7]
  rw [show decode38 wd = readRamoMin wd by simp only [decode38, e1, e2, q3, e4, reduceIte, ne_eq, not_true_eq_false, and_self, or_self, true_and, Nat.reduceEqDiff]]
  unfold readRamoMin
  rw [RoundTrip.field d q6, RoundTrip.field a q5, RoundTrip.field b q4, RoundTrip.field z q2, RoundTrip.field q q1]

theorem RoundTrip.ramoMax (d : BitVec 5) (a : BitVec 5) (b : BitVec 5) (z : BitVec 1) (q : BitVec 1) : RoundTrip.Statement (.ramoMax d a b z q) := by
  obtain ⟨wd, hn⟩ : ∃ wd, wd = 3758096389 + d.toNat * 2097152 + a.toNat * 65536 + b.toNat * 2048 + z.toNat * 64 + q.toNat * 32 := ⟨_, rfl⟩
  obtain ⟨hlt, q0, q1, q2, q3, q4, q5, q6, q7⟩ := layout45 (show 5 < 32 by decide) q.isLt z.isLt (show 0 < 16 by decide) b.isLt a.isLt d.isLt (show 56 < 64 by decide) (hn.trans (by omega))
  refine RoundTrip.ofWord (n := wd) (by exact (by decide : 227 < 232)) (hn ▸ rfl) hlt (fun hw => ?_)
  clear hn
  have e1 : wd % 16 = 5 := RoundTrip.low0 q0 16 2 rfl
  have e2 : wd / 256 % 8 = 0 := RoundTrip.inner q3 2 8 1 rfl
  have e4 : wd / 16 % 2 = 0 := RoundTrip.inner0 q0 16 2 1 rfl
  rw [major56 q7]
  rw [show decode38 wd = readRamoMax wd by simp only [decode38, e1, e2, q3, e4, reduceIte, ne_eq, not_true_eq_false, and_self, or_self, true_and, Nat.reduceEqDiff]]
  unfold readRamoMax
  rw [RoundTrip.field d q6, RoundTrip.field a q5, RoundTrip.field b q4, RoundTrip.field z q2, RoundTrip.field q q1]

theorem RoundTrip.ramoMinn (d : BitVec 5) (a : BitVec 5) (b : BitVec 5) (z : BitVec 1) (q : BitVec 1) : RoundTrip.Statement (.ramoMinn d a b z q) := by
  obtain ⟨wd, hn⟩ : ∃ wd, wd = 3758096390 + d.toNat * 2097152 + a.toNat * 65536 + b.toNat * 2048 + z.toNat * 64 + q.toNat * 32 := ⟨_, rfl⟩
  obtain ⟨hlt, q0, q1, q2, q3, q4, q5, q6, q7⟩ := layout45 (show 6 < 32 by decide) q.isLt z.isLt (show 0 < 16 by decide) b.isLt a.isLt d.isLt (show 56 < 64 by decide) (hn.trans (by omega))
  refine RoundTrip.ofWord (n := wd) (by exact (by decide : 228 < 232)) (hn ▸ rfl) hlt (fun hw => ?_)
  clear hn
  have e1 : wd % 16 = 6 := RoundTrip.low0 q0 16 2 rfl
  have e2 : wd / 256 % 8 = 0 := RoundTrip.inner q3 2 8 1 rfl
  have e4 : wd / 16 % 2 = 0 := RoundTrip.inner0 q0 16 2 1 rfl
  rw [major56 q7]
  rw [show decode38 wd = readRamoMinn wd by simp only [decode38, e1, e2, q3, e4, reduceIte, ne_eq, not_true_eq_false, and_self, or_self, true_and, Nat.reduceEqDiff]]
  unfold readRamoMinn
  rw [RoundTrip.field d q6, RoundTrip.field a q5, RoundTrip.field b q4, RoundTrip.field z q2, RoundTrip.field q q1]

theorem RoundTrip.ramoMaxn (d : BitVec 5) (a : BitVec 5) (b : BitVec 5) (z : BitVec 1) (q : BitVec 1) : RoundTrip.Statement (.ramoMaxn d a b z q) := by
  obtain ⟨wd, hn⟩ : ∃ wd, wd = 3758096391 + d.toNat * 2097152 + a.toNat * 65536 + b.toNat * 2048 + z.toNat * 64 + q.toNat * 32 := ⟨_, rfl⟩
  obtain ⟨hlt, q0, q1, q2, q3, q4, q5, q6, q7⟩ := layout45 (show 7 < 32 by decide) q.isLt z.isLt (show 0 < 16 by decide) b.isLt a.isLt d.isLt (show 56 < 64 by decide) (hn.trans (by omega))
  refine RoundTrip.ofWord (n := wd) (by exact (by decide : 229 < 232)) (hn ▸ rfl) hlt (fun hw => ?_)
  clear hn
  have e1 : wd % 16 = 7 := RoundTrip.low0 q0 16 2 rfl
  have e2 : wd / 256 % 8 = 0 := RoundTrip.inner q3 2 8 1 rfl
  have e4 : wd / 16 % 2 = 0 := RoundTrip.inner0 q0 16 2 1 rfl
  rw [major56 q7]
  rw [show decode38 wd = readRamoMaxn wd by simp only [decode38, e1, e2, q3, e4, reduceIte, ne_eq, not_true_eq_false, and_self, or_self, true_and, Nat.reduceEqDiff]]
  unfold readRamoMaxn
  rw [RoundTrip.field d q6, RoundTrip.field a q5, RoundTrip.field b q4, RoundTrip.field z q2, RoundTrip.field q q1]

theorem RoundTrip.ramoSwap (d : BitVec 5) (a : BitVec 5) (b : BitVec 5) (z : BitVec 1) (q : BitVec 1) : RoundTrip.Statement (.ramoSwap d a b z q) := by
  obtain ⟨wd, hn⟩ : ∃ wd, wd = 3758096392 + d.toNat * 2097152 + a.toNat * 65536 + b.toNat * 2048 + z.toNat * 64 + q.toNat * 32 := ⟨_, rfl⟩
  obtain ⟨hlt, q0, q1, q2, q3, q4, q5, q6, q7⟩ := layout45 (show 8 < 32 by decide) q.isLt z.isLt (show 0 < 16 by decide) b.isLt a.isLt d.isLt (show 56 < 64 by decide) (hn.trans (by omega))
  refine RoundTrip.ofWord (n := wd) (by exact (by decide : 230 < 232)) (hn ▸ rfl) hlt (fun hw => ?_)
  clear hn
  have e1 : wd % 16 = 8 := RoundTrip.low0 q0 16 2 rfl
  have e2 : wd / 256 % 8 = 0 := RoundTrip.inner q3 2 8 1 rfl
  have e4 : wd / 16 % 2 = 0 := RoundTrip.inner0 q0 16 2 1 rfl
  rw [major56 q7]
  rw [show decode38 wd = readRamoSwap wd by simp only [decode38, e1, e2, q3, e4, reduceIte, ne_eq, not_true_eq_false, and_self, or_self, true_and, Nat.reduceEqDiff]]
  unfold readRamoSwap
  rw [RoundTrip.field d q6, RoundTrip.field a q5, RoundTrip.field b q4, RoundTrip.field z q2, RoundTrip.field q q1]

theorem layout46 {n x0 x1 x2 x3 x4 x5 : Nat} (h0 : x0 < 128) (h1 : x1 < 2) (h2 : x2 < 256) (h3 : x3 < 32) (h4 : x4 < 32) (h5 : x5 < 64)
    (e : n = x0 + x1 * 128 + x2 * 256 + x3 * 65536 + x4 * 2097152 + x5 * 67108864) : n < 4294967296 ∧ n % 128 = x0 ∧ n / 128 % 2 = x1 ∧ n / 256 % 256 = x2 ∧ n / 65536 % 32 = x3 ∧ n / 2097152 % 32 = x4 ∧ n / 67108864 = x5 :=
  ⟨by omega, by omega, by omega, by omega, by omega, by omega, by omega⟩

theorem RoundTrip.rfence (a : BitVec 5) (h : BitVec 1) : RoundTrip.Statement (.rfence a h) := by
  obtain ⟨wd, hn⟩ : ∃ wd, wd = 3758096399 + a.toNat * 65536 + h.toNat * 128 := ⟨_, rfl⟩
  obtain ⟨hlt, q0, q1, q2, q3, q4, q5⟩ := layout46 (show 15 < 128 by decide) h.isLt (show 0 < 256 by decide) a.isLt (show 0 < 32 by decide) (show 56 < 64 by decide) (hn.trans (by omega))
  refine RoundTrip.ofWord (n := wd) (by exact (by decide : 231 < 232)) (hn ▸ rfl) hlt (fun hw => ?_)
  clear hn
  replace hw : (h.toNat = 1 ∨ a.toNat = 0) := of_decide_eq_true hw
  have e1 : wd % 16 = 15 := RoundTrip.low0 q0 16 8 rfl
  have e2 : wd / 256 % 8 = 0 := RoundTrip.inner q2 1 8 32 rfl
  have e3 : wd / 16 % 8 = 0 := RoundTrip.inner0 q0 16 8 1 rfl
  have e4 : wd / 16 % 2 = 0 := RoundTrip.inner0 q0 16 2 4 rfl
  have e5 : wd / 2048 % 32 = 0 := RoundTrip.inner q2 8 32 1 rfl
  rw [major56 q5]
  rw [show decode38 wd = readRfence wd by simp only [decode38, e1, e2, e3, e4, reduceIte, ne_eq, not_true_eq_false, and_self, or_self, true_and, Nat.reduceEqDiff]]
  unfold readRfence
  rw [RoundTrip.field a q3, RoundTrip.field h q1]
  have ha := a.isLt
  have hh := h.isLt
  rw [e5, q4, q1, q3]
  rw [if_pos (by omega)]

theorem RoundTrip.registerWrite (num : BitVec 12) (v : BitVec 64) : RoundTrip.Statement (.registerWrite num v) :=
  RoundTrip.ofEvent (by exact (by decide : 232 ≤ 232)) rfl

theorem RoundTrip.qenWrite (v : BitVec 64) : RoundTrip.Statement (.qenWrite v) :=
  RoundTrip.ofEvent (by exact (by decide : 232 ≤ 233)) rfl

theorem RoundTrip.lineMonitorFire (line : BitVec 46) : RoundTrip.Statement (.lineMonitorFire line) :=
  RoundTrip.ofEvent (by exact (by decide : 232 ≤ 234)) rfl

theorem RoundTrip.startRecordAdmission (q : BitVec 6) : RoundTrip.Statement (.startRecordAdmission q) :=
  RoundTrip.ofEvent (by exact (by decide : 232 ≤ 235)) rfl

theorem RoundTrip.laneGrant (cl : BitVec 4) : RoundTrip.Statement (.laneGrant cl) :=
  RoundTrip.ofEvent (by exact (by decide : 232 ≤ 236)) rfl

theorem RoundTrip.granuleZeroed (cl : BitVec 4) (g : BitVec 3) : RoundTrip.Statement (.granuleZeroed cl g) :=
  RoundTrip.ofEvent (by exact (by decide : 232 ≤ 237)) rfl

theorem RoundTrip.completionWrite (gid : BitVec 32) : RoundTrip.Statement (.completionWrite gid) :=
  RoundTrip.ofEvent (by exact (by decide : 232 ≤ 238)) rfl

theorem RoundTrip.hostEventPost : RoundTrip.Statement (.hostEventPost) :=
  RoundTrip.ofEvent (by exact (by decide : 232 ≤ 239)) rfl

theorem RoundTrip.hostEventRetry : RoundTrip.Statement (.hostEventRetry) :=
  RoundTrip.ofEvent (by exact (by decide : 232 ≤ 240)) rfl

theorem RoundTrip.answerResume (sid : BitVec 12) : RoundTrip.Statement (.answerResume sid) :=
  RoundTrip.ofEvent (by exact (by decide : 232 ≤ 241)) rfl

theorem RoundTrip.answerKill (sid : BitVec 12) : RoundTrip.Statement (.answerKill sid) :=
  RoundTrip.ofEvent (by exact (by decide : 232 ≤ 242)) rfl

theorem RoundTrip.answerAdmit (q : BitVec 16) (t : BitVec 64) : RoundTrip.Statement (.answerAdmit q t) :=
  RoundTrip.ofEvent (by exact (by decide : 232 ≤ 243)) rfl

theorem RoundTrip.answerReject (q : BitVec 16) (t : BitVec 64) : RoundTrip.Statement (.answerReject q t) :=
  RoundTrip.ofEvent (by exact (by decide : 232 ≤ 244)) rfl

theorem RoundTrip.answerProceed (q : BitVec 16) (subj : BitVec 64) : RoundTrip.Statement (.answerProceed q subj) :=
  RoundTrip.ofEvent (by exact (by decide : 232 ≤ 245)) rfl

theorem RoundTrip.trapDelivery (ctx : BitVec 8) (cause : BitVec 8) (eval : BitVec 64) : RoundTrip.Statement (.trapDelivery ctx cause eval) :=
  RoundTrip.ofEvent (by exact (by decide : 232 ≤ 246)) rfl

theorem RoundTrip.preemption (ctx : BitVec 8) : RoundTrip.Statement (.preemption ctx) :=
  RoundTrip.ofEvent (by exact (by decide : 232 ≤ 247)) rfl

theorem RoundTrip.strandResume (sid : BitVec 12) : RoundTrip.Statement (.strandResume sid) :=
  RoundTrip.ofEvent (by exact (by decide : 232 ≤ 248)) rfl

theorem RoundTrip.timerTrap (ctx : BitVec 8) : RoundTrip.Statement (.timerTrap ctx) :=
  RoundTrip.ofEvent (by exact (by decide : 232 ≤ 249)) rfl

theorem RoundTrip.idleDeadline (ctx : BitVec 8) : RoundTrip.Statement (.idleDeadline ctx) :=
  RoundTrip.ofEvent (by exact (by decide : 232 ≤ 250)) rfl

theorem RoundTrip.waitTimeout (ctx : BitVec 8) : RoundTrip.Statement (.waitTimeout ctx) :=
  RoundTrip.ofEvent (by exact (by decide : 232 ≤ 251)) rfl

theorem RoundTrip.storePerformed (ctx : BitVec 8) (k : BitVec 3) : RoundTrip.Statement (.storePerformed ctx k) :=
  RoundTrip.ofEvent (by exact (by decide : 232 ≤ 252)) rfl

theorem RoundTrip.readQueueWriteback (ctx : BitVec 8) : RoundTrip.Statement (.readQueueWriteback ctx) :=
  RoundTrip.ofEvent (by exact (by decide : 232 ≤ 253)) rfl

theorem RoundTrip.tableWalk (ctx : BitVec 8) (va : BitVec 64) (kind : BitVec 4) : RoundTrip.Statement (.tableWalk ctx va kind) :=
  RoundTrip.ofEvent (by exact (by decide : 232 ≤ 254)) rfl

theorem RoundTrip.vqGroupWrite (ctx : BitVec 8) (w : GroupWork) : RoundTrip.Statement (.vqGroupWrite ctx w) :=
  RoundTrip.ofEvent (by exact (by decide : 232 ≤ 255)) rfl

theorem RoundTrip.vqEntryRetire (ctx : BitVec 8) : RoundTrip.Statement (.vqEntryRetire ctx) :=
  RoundTrip.ofEvent (by exact (by decide : 232 ≤ 256)) rfl

theorem RoundTrip.bankEntryComplete (w : PassWork) : RoundTrip.Statement (.bankEntryComplete w) :=
  RoundTrip.ofEvent (by exact (by decide : 232 ≤ 257)) rfl

theorem RoundTrip.berrWrite (bank : BitVec 12) (v : BitVec 64) : RoundTrip.Statement (.berrWrite bank v) :=
  RoundTrip.ofEvent (by exact (by decide : 232 ≤ 258)) rfl

theorem RoundTrip.cacheFill (line : BitVec 46) (dom : BitVec 16) : RoundTrip.Statement (.cacheFill line dom) :=
  RoundTrip.ofEvent (by exact (by decide : 232 ≤ 259)) rfl

theorem RoundTrip.cacheEviction (line : BitVec 46) : RoundTrip.Statement (.cacheEviction line) :=
  RoundTrip.ofEvent (by exact (by decide : 232 ≤ 260)) rfl

theorem RoundTrip.seal (line : BitVec 46) : RoundTrip.Statement (.seal line) :=
  RoundTrip.ofEvent (by exact (by decide : 232 ≤ 261)) rfl

theorem RoundTrip.keyRotation (dom : BitVec 16) : RoundTrip.Statement (.keyRotation dom) :=
  RoundTrip.ofEvent (by exact (by decide : 232 ≤ 262)) rfl

theorem RoundTrip.ddrldWrite (v : BitVec 64) : RoundTrip.Statement (.ddrldWrite v) :=
  RoundTrip.ofEvent (by exact (by decide : 232 ≤ 263)) rfl

theorem RoundTrip.refresh (bank : BitVec 12) : RoundTrip.Statement (.refresh bank) :=
  RoundTrip.ofEvent (by exact (by decide : 232 ≤ 264)) rfl

theorem RoundTrip.activationCountMitigation (bank : BitVec 12) : RoundTrip.Statement (.activationCountMitigation bank) :=
  RoundTrip.ofEvent (by exact (by decide : 232 ≤ 265)) rfl

theorem RoundTrip.patrolScrub (bank : BitVec 12) (row : BitVec 17) : RoundTrip.Statement (.patrolScrub bank row) :=
  RoundTrip.ofEvent (by exact (by decide : 232 ≤ 266)) rfl

theorem RoundTrip.centreVisit (bank : BitVec 12) : RoundTrip.Statement (.centreVisit bank) :=
  RoundTrip.ofEvent (by exact (by decide : 232 ≤ 267)) rfl

theorem RoundTrip.stripFetch (eng : BitVec 4) (k : BitVec 3) : RoundTrip.Statement (.stripFetch eng k) :=
  RoundTrip.ofEvent (by exact (by decide : 232 ≤ 268)) rfl

theorem RoundTrip.writeOperationReleased (eng : BitVec 4) (k : BitVec 3) : RoundTrip.Statement (.writeOperationReleased eng k) :=
  RoundTrip.ofEvent (by exact (by decide : 232 ≤ 269)) rfl

theorem RoundTrip.writeOperationVisible (eng : BitVec 4) (k : BitVec 3) (scope : BitVec 3) : RoundTrip.Statement (.writeOperationVisible eng k scope) :=
  RoundTrip.ofEvent (by exact (by decide : 232 ≤ 270)) rfl

theorem RoundTrip.slotDrained (eng : BitVec 4) (k : BitVec 3) : RoundTrip.Statement (.slotDrained eng k) :=
  RoundTrip.ofEvent (by exact (by decide : 232 ≤ 271)) rfl

theorem RoundTrip.sqmWrite (n : BitVec 2) (v : BitVec 64) : RoundTrip.Statement (.sqmWrite n v) :=
  RoundTrip.ofEvent (by exact (by decide : 232 ≤ 272)) rfl

theorem RoundTrip.trswWrite (v : BitVec 64) : RoundTrip.Statement (.trswWrite v) :=
  RoundTrip.ofEvent (by exact (by decide : 232 ≤ 273)) rfl

theorem RoundTrip.sucWrite (v : BitVec 64) : RoundTrip.Statement (.sucWrite v) :=
  RoundTrip.ofEvent (by exact (by decide : 232 ≤ 274)) rfl

theorem RoundTrip.portEnable (p : BitVec 7) : RoundTrip.Statement (.portEnable p) :=
  RoundTrip.ofEvent (by exact (by decide : 232 ≤ 275)) rfl

theorem RoundTrip.trainingComplete (p : BitVec 7) (peer : Partner) : RoundTrip.Statement (.trainingComplete p peer) :=
  RoundTrip.ofEvent (by exact (by decide : 232 ≤ 276)) rfl

theorem RoundTrip.trainingTimeout (p : BitVec 7) : RoundTrip.Statement (.trainingTimeout p) :=
  RoundTrip.ofEvent (by exact (by decide : 232 ≤ 277)) rfl

theorem RoundTrip.linkErrorDetected (p : BitVec 7) : RoundTrip.Statement (.linkErrorDetected p) :=
  RoundTrip.ofEvent (by exact (by decide : 232 ≤ 278)) rfl

theorem RoundTrip.retrainComplete (p : BitVec 7) : RoundTrip.Statement (.retrainComplete p) :=
  RoundTrip.ofEvent (by exact (by decide : 232 ≤ 279)) rfl

theorem RoundTrip.retrainTimeout (p : BitVec 7) : RoundTrip.Statement (.retrainTimeout p) :=
  RoundTrip.ofEvent (by exact (by decide : 232 ≤ 280)) rfl

theorem RoundTrip.linkCalibration (p : BitVec 7) : RoundTrip.Statement (.linkCalibration p) :=
  RoundTrip.ofEvent (by exact (by decide : 232 ≤ 281)) rfl

theorem RoundTrip.flitReceive (p : BitVec 7) (seq : BitVec 8) (f : FlitTail) : RoundTrip.Statement (.flitReceive p seq f) :=
  RoundTrip.ofEvent (by exact (by decide : 232 ≤ 282)) rfl

theorem RoundTrip.remoteRequestArrival (src : Sender) (tag : BitVec 16) (op : BitVec 5) (size : BitVec 2) (pa : BitVec 52) (mt : BitVec 2) (dom : BitVec 16) (data : BitVec 512) (be : BitVec 64) : RoundTrip.Statement (.remoteRequestArrival src tag op size pa mt dom data be) :=
  RoundTrip.ofEvent (by exact (by decide : 232 ≤ 283)) rfl

theorem RoundTrip.remoteCompletionArrival (home : Answerer) (tag : BitVec 16) (data : BitVec 512) (err : BitVec 3) : RoundTrip.Statement (.remoteCompletionArrival home tag data err) :=
  RoundTrip.ofEvent (by exact (by decide : 232 ≤ 284)) rfl

theorem RoundTrip.remoteRefusalArrival (home : Answerer) (tag : BitVec 16) : RoundTrip.Statement (.remoteRefusalArrival home tag) :=
  RoundTrip.ofEvent (by exact (by decide : 232 ≤ 285)) rfl

theorem RoundTrip.tagResend (home : BitVec 7) (tag : BitVec 16) : RoundTrip.Statement (.tagResend home tag) :=
  RoundTrip.ofEvent (by exact (by decide : 232 ≤ 286)) rfl

theorem RoundTrip.fltoExpiry (home : BitVec 7) (tag : BitVec 16) : RoundTrip.Statement (.fltoExpiry home tag) :=
  RoundTrip.ofEvent (by exact (by decide : 232 ≤ 287)) rfl

theorem RoundTrip.rdmaWriteInbound (p : Packet) (va : BitVec 64) (data : BitVec 512) (be : BitVec 64) : RoundTrip.Statement (.rdmaWriteInbound p va data be) :=
  RoundTrip.ofEvent (by exact (by decide : 232 ≤ 288)) rfl

theorem RoundTrip.rdmaReadInbound (p : Packet) (va : BitVec 64) (len : BitVec 12) : RoundTrip.Statement (.rdmaReadInbound p va len) :=
  RoundTrip.ofEvent (by exact (by decide : 232 ≤ 289)) rfl

theorem RoundTrip.roceUnsupportedRequest (p : Packet) : RoundTrip.Statement (.roceUnsupportedRequest p) :=
  RoundTrip.ofEvent (by exact (by decide : 232 ≤ 290)) rfl

theorem RoundTrip.outboundAck (p : Packet) : RoundTrip.Statement (.outboundAck p) :=
  RoundTrip.ofEvent (by exact (by decide : 232 ≤ 291)) rfl

theorem RoundTrip.cnpReceive (conn : BitVec 8) : RoundTrip.Statement (.cnpReceive conn) :=
  RoundTrip.ofEvent (by exact (by decide : 232 ≤ 292)) rfl

theorem RoundTrip.ptpMessage (ppm : BitVec 12) : RoundTrip.Statement (.ptpMessage ppm) :=
  RoundTrip.ofEvent (by exact (by decide : 232 ≤ 293)) rfl

theorem RoundTrip.deviceReset : RoundTrip.Statement (.deviceReset) :=
  RoundTrip.ofEvent (by exact (by decide : 232 ≤ 294)) rfl

theorem RoundTrip.svstartGo (v : BitVec 64) : RoundTrip.Statement (.svstartGo v) :=
  RoundTrip.ofEvent (by exact (by decide : 232 ≤ 295)) rfl

theorem RoundTrip.keytabWrite (v : BitVec 64) : RoundTrip.Statement (.keytabWrite v) :=
  RoundTrip.ofEvent (by exact (by decide : 232 ≤ 296)) rfl

theorem RoundTrip.attestationRequest (nonce : BitVec 256) : RoundTrip.Statement (.attestationRequest nonce) :=
  RoundTrip.ofEvent (by exact (by decide : 232 ≤ 297)) rfl

theorem RoundTrip.telemetrySample : RoundTrip.Statement (.telemetrySample) :=
  RoundTrip.ofEvent (by exact (by decide : 232 ≤ 298)) rfl

theorem RoundTrip.thermalStep (isl : BitVec 7) (temp : BitVec 9) : RoundTrip.Statement (.thermalStep isl temp) :=
  RoundTrip.ofEvent (by exact (by decide : 232 ≤ 299)) rfl

theorem RoundTrip.powerCapStep (watts : BitVec 16) : RoundTrip.Statement (.powerCapStep watts) :=
  RoundTrip.ofEvent (by exact (by decide : 232 ≤ 300)) rfl

theorem RoundTrip.ictlReqWrite (isl : BitVec 7) (req : BitVec 2) : RoundTrip.Statement (.ictlReqWrite isl req) :=
  RoundTrip.ofEvent (by exact (by decide : 232 ≤ 301)) rfl

theorem RoundTrip.ictlOppWrite (isl : BitVec 7) (opp : BitVec 4) : RoundTrip.Statement (.ictlOppWrite isl opp) :=
  RoundTrip.ofEvent (by exact (by decide : 232 ≤ 302)) rfl

theorem RoundTrip.operatingPointChange (isl : BitVec 7) : RoundTrip.Statement (.operatingPointChange isl) :=
  RoundTrip.ofEvent (by exact (by decide : 232 ≤ 303)) rfl

theorem RoundTrip.islandGate (isl : BitVec 7) : RoundTrip.Statement (.islandGate isl) :=
  RoundTrip.ofEvent (by exact (by decide : 232 ≤ 304)) rfl

theorem RoundTrip.islandWake (isl : BitVec 7) : RoundTrip.Statement (.islandWake isl) :=
  RoundTrip.ofEvent (by exact (by decide : 232 ≤ 305)) rfl

theorem RoundTrip.wordsThatAreNotInstructions (w : BitVec 32) : RoundTrip.Statement (.wordsThatAreNotInstructions w) :=
  RoundTrip.ofEvent (by exact (by decide : 232 ≤ 306)) rfl

theorem RoundTrip.loadPerformed (ctx : BitVec 8) (k : BitVec 8) : RoundTrip.Statement (.loadPerformed ctx k) :=
  RoundTrip.ofEvent (by exact (by decide : 232 ≤ 307)) rfl

theorem RoundTrip.accessFailure (eng : BitVec 4) (k : BitVec 3) (va : BitVec 64) (code : BitVec 8) : RoundTrip.Statement (.accessFailure eng k va code) :=
  RoundTrip.ofEvent (by exact (by decide : 232 ≤ 308)) rfl

theorem RoundTrip.hostReadResponse (p : Packet) (data : BitVec 512) : RoundTrip.Statement (.hostReadResponse p data) :=
  RoundTrip.ofEvent (by exact (by decide : 232 ≤ 309)) rfl

theorem RoundTrip.uncontainedHardwareError (code : BitVec 16) : RoundTrip.Statement (.uncontainedHardwareError code) :=
  RoundTrip.ofEvent (by exact (by decide : 232 ≤ 310)) rfl

theorem RoundTrip.ddrldReloadComplete : RoundTrip.Statement (.ddrldReloadComplete) :=
  RoundTrip.ofEvent (by exact (by decide : 232 ≤ 311)) rfl

theorem RoundTrip.answerWithoutSubject : RoundTrip.Statement (.answerWithoutSubject) :=
  RoundTrip.ofEvent (by exact (by decide : 232 ≤ 312)) rfl

end Sys2Proof.Laws
end

