-- ==== Sys2Proof/Safety.lean ====
section
/-! DEFINITION. What a safe state of the package is, and the words in which the statements about the machine are written: when an
instruction goes on, what it leaves of its strand and of everything else, and what an entry of a queue holds. -/

namespace Sys2Proof.Machine

/-! ### Safe states -/

/-- The memory is in its canonical form. -/
def State.memOk (s : State) : Bool := Mem.wf s.mem

/-- Every strand's level is one of the three (R128). -/
def State.levelsOk (s : State) : Bool := s.everyStrand.all (fun st => decide (st.pl.toNat ≤ 2))

/-- Every program counter is a multiple of 4 (R35), and so are the handlers' addresses, whose low bits are reserved (R129). -/
def State.pcsOk (s : State) : Bool :=
  s.everyStrand.all (fun st => st.pc % 4 == 0 && st.cr 0x806 % 4 == 0 && st.cr 0xC06 % 4 == 0)

/-- No strand lists `x0`, which reads zero (R139). -/
def State.zerosOk (s : State) : Bool := s.everyStrand.all (fun st => st.x.all (fun q => q.1 != 0))

/-- No island that holds work is gated (R472). -/
def State.islandsOk (s : State) : Prop := ∀ i, (s.island i).st ≠ 0 → islandBusy s i = false

/-! ### When an instruction goes on -/

/-- The instruction with this start record goes on: the prefix lent to it is permitted (R50), its privilege suffices (R44), and no
register it touches has a pending result (R144, R168). `word` tells a scalar instruction, which 0 stands for, from one of another queue,
which the read queue does not hold up. -/
abbrev State.Ready (s : State) (i : Info) (word : Nat := 0) : Prop := admitFails s.st i = none ∧ hazard s.st word i = false

/-- Nothing of the strand is outstanding or queued. -/
abbrev State.Quiet (s : State) : Prop := s.st.loads = [] ∧ s.st.stores = [] ∧ s.st.vq = [] ∧ s.st.bankQ = [] ∧ s.st.readQ = []

/-! ### What an instruction leaves -/

/-- Everything outside the strand whose turn it is, is as before: memory, caches, the package's registers, every other strand. -/
def State.OnlyStrand (s t : State) : Prop := t = s.setSt t.st

/-- Of the control registers at most `FRTAG` differs, and only for the instruction at which `ERET` resumed (R461). -/
def Strand.ControlsKept (a b : Strand) : Prop :=
  (∀ n, n ≠ 0x441 → b.cr n = a.cr n) ∧ (a.resumed = false → b.csr = a.csr)

/-- The strand has gone on to `pc` with nothing else changed: the prefix latch is consumed (R49). -/
def State.WentTo (s : State) (pc : Dword) (t : State) : Prop :=
  s.OnlyStrand t ∧ Strand.ControlsKept s.st t.st
    ∧ t.st = { s.st with pc := pc, latch := 0, resumed := false, behind := none, csr := t.st.csr }

/-- A lent copy names register `r` (R51). -/
def Strand.copies (st : Strand) (r : Nat) : Bool := latchV st.latch && latchDup st.latch && latchCopy st.latch == r

/-- The strand has gone on to the next word with `v` in `x[d]`, and in the copy register when one is lent (R51); a write of `x0` is
ignored (R139), and nothing else has changed. -/
def State.Wrote (s : State) (d : Nat) (v : Dword) (t : State) : Prop :=
  s.OnlyStrand t ∧ Strand.ControlsKept s.st t.st
    ∧ t.st = { s.st with pc := s.st.pc + 4, latch := 0, resumed := false, behind := none, csr := t.st.csr, x := t.st.x }
    ∧ ∀ r, t.st.xr r = if r ≠ 0 ∧ (r = d ∨ s.st.copies r = true) then v else s.st.xr r

/-- The state in which the strand of the turn has gone on to the next word, and the same with `v` in `x[d]`. -/
def State.passed (s : State) : State := s.mapSt Strand.advance
def State.gave (s : State) (d : Nat) (v : Dword) : State := s.mapSt (fun st => st.result d v)

/-- The instruction has gone on without the tag of the return from a trap. -/
def State.begun (s : State) (i : Info) : State := s.mapSt (dropTag i)

/-- The trap of an instruction that has come to `u`, having changed no register; while the strand has an access under way that a trap must
wait for, nothing has happened and the trap is found again (R205, R461). -/
def State.trapped (s u : State) (cause eval w0 : Nat) : State := trapOr s u { cause := cause, eval := eval, w0 := w0 }

/-- The strand's answered transactions have served their access. -/
def State.served (s : State) : State := s.endAccess s.st.owner

/-- Everything but physical memory, its marks, the shared cache, the domain keys and the TLBs is as before. -/
def State.CacheOnly (s t : State) : Prop :=
  t = { s with mem := t.mem, wordErr := t.wordErr, lines := t.lines, entries := t.entries, buckets := t.buckets,
               entNext := t.entNext, useClock := t.useClock, kunsh := t.kunsh, domKeys := t.domKeys, banks := t.banks, tlb := t.tlb }

/-- The turn, every other strand and the package's registers are as before. -/
def State.OthersKept (s t : State) : Prop := t.cur = s.cur ∧ (∀ c, c ≠ s.cur → t.strandAt c = s.strandAt c) ∧ t.pk = s.pk

/-- The strand has gone on to the next word with nothing else of it changed, and so have no other strand and no register of the
package; memory is another matter. -/
def State.Advanced (s t : State) : Prop :=
  Strand.ControlsKept s.st t.st ∧ t.st = { s.st with pc := s.st.pc + 4, latch := 0, resumed := false, behind := none, csr := t.st.csr }
    ∧ s.OthersKept t

/-- The same, with `v` in `x[d]`, and in the copy register when one is lent (R51). -/
def State.Got (s : State) (d : Nat) (v : Dword) (t : State) : Prop :=
  Strand.ControlsKept s.st t.st
    ∧ t.st = { s.st with pc := s.st.pc + 4, latch := 0, resumed := false, behind := none, csr := t.st.csr, x := t.st.x }
    ∧ (∀ r, t.st.xr r = if r ≠ 0 ∧ (r = d ∨ s.st.copies r = true) then v else s.st.xr r)
    ∧ s.OthersKept t

/-! ### The bytes of memory -/

/-- A line that is listed lies in stack DRAM, and a clean one holds what stack DRAM delivers there, with its marks (R381, R387). -/
def State.coherent (s : State) : Prop :=
  ∀ l ln, Tab.find s.lines l = some ln → isDram (l * 64) = true ∧ (ln.dirty = false → ∀ i, i < 2 →
    bitOf ln.ue i = s.wordBad (2 * l + i)
      ∧ (s.wordBad (2 * l + i) = false → fld ln.data.toNat (256 * i) 256 = s.dramRead (64 * l + 32 * i) 32))

/-- Every byte reads at its point of performance as before. -/
def State.SameBytes (s t : State) : Prop := s.coherent → t.coherent ∧ ∀ a, t.peek a = s.peek a

/-- The `n` bytes from `pa` on read as the low bytes of `v`, least significant first (R5); every other byte reads as before. -/
def State.PutBytes (s : State) (pa n v : Nat) (t : State) : Prop :=
  s.coherent → t.coherent ∧ (∀ k, k < n → t.peek (pa + k) = BitVec.ofNat 8 (v / 256 ^ k))
    ∧ ∀ a, (a < pa ∨ pa + n ≤ a) → t.peek a = s.peek a

/-- The bytes that an access at this place reads (R91): those of the home's copy, those that the bank delivers, or those of the local
store. -/
def State.bytesAt (s : State) (p : Place) (pa n : Nat) : Nat :=
  match p with
  | .home | .table => s.peekLE pa n
  | .bank => s.dramRead pa n
  | _ => Mem.readLE s.mem pa n

/-- The bytes of one 32-byte word that an access at this place reads hold no uncorrectable error (R316, R387, R388). -/
def State.goodAt (s : State) (p : Place) (pa : Nat) : Bool :=
  match p with
  | .localStore => true
  | .bank => !s.wordBad (pa / 32)
  | .home => (match Tab.find s.lines (pa / 64) with
    | some ln => !bitOf ln.ue (pa % 64 / 32)
    | none => !s.wordBad (pa / 32))
  | _ => false

/-- The place keeps the byte at `pa` in this package (R73, R91). -/
def Place.holds (p : Place) (pa : Nat) : Bool :=
  match p with
  | .home | .bank => isDram pa
  | .localStore => isLocal pa
  | _ => false

/-- The `n` bytes from `pa` on that the banks deliver are the low bytes of `v`; every other one is as before. -/
def State.PutRaw (s : State) (pa n v : Nat) (t : State) : Prop :=
  (∀ k, k < n → t.dramRead (pa + k) 1 = v / 256 ^ k % 256)
    ∧ ∀ a, (a < pa ∨ pa + n ≤ a) → t.dramRead a 1 = s.dramRead a 1

/-! ### What a trap record gives back -/

/-- The strand has what the trap record at `a` holds (R132, R157, R169, R207): `x1` to `x31`, the latch, and the image with each entry's
address, word, lent prefix, progress index, length and operands; `VSTART` is the record's where the image is empty, and 0 otherwise. -/
def State.Restored (s : State) (a : Nat) (st : Strand) : Prop :=
  let word := fun (o : Nat) => s.peekLE (a + o) 8
  let n := min 32 (fld (word 0x40) 32 6)
  (∀ r, 1 ≤ r → r < 32 → st.xr r = BitVec.ofNat 64 (word (0x100 + 8 * r)))
    ∧ st.latch.toNat = word 0x40 % 2 ^ 32 ∧ st.vstart = (if n = 0 then word 0x48 % 65536 else 0)
    ∧ (fld (word 0x40) 40 4 = 0 → st.readQ = []) ∧ st.vq.length = n
    ∧ ∀ k e, st.vq[k]? = some e →
        let at_ := fun (j : Nat) => word (0x400 + 32 * k + 8 * j)
        e.addr = at_ 0 ∧ e.word.toNat = at_ 1 % 2 ^ 32 ∧ e.lent.toNat = at_ 1 / 2 ^ 32
          ∧ e.p = (if k = 0 then word 0x48 else at_ 2) % 2 ^ 32 ∧ e.vl = at_ 2 / 2 ^ 32
          ∧ e.op1.toNat = at_ 3 % 2 ^ 32 + word (0xC00 + 16 * k) % 2 ^ 32 * 2 ^ 32
          ∧ e.op2.toNat = at_ 3 / 2 ^ 32 + word (0xC00 + 16 * k) / 2 ^ 32 * 2 ^ 32
          ∧ e.tl = fld (word (0xC08 + 16 * k)) 0 16 ∧ e.vstart = fld (word (0xC08 + 16 * k)) 16 16

/-! ### What enters a queue -/

/-- An instruction has entered the vector queue (R18, R200): its entry captures the address, the word, the lent prefix, the operands,
`VL`, `TL` and `VSTART`; the strand goes on with `VSTART` = 0 and its scalar registers as they were. -/
def State.Queued (s : State) (i : Instr) (op1 op2 : Dword) (one : Bool) (t : State) : Prop :=
  (∃ e, t.st.vq = s.st.vq ++ [e] ∧ e.addr = s.st.pc.toNat ∧ encode i = some e.word
      ∧ e.lent = (if latchV s.st.latch then s.st.latch else 0) ∧ e.op1 = op1 ∧ e.op2 = op2
      ∧ e.vl = s.st.vl ∧ e.tl = s.st.tl ∧ e.vstart = s.st.vstart ∧ e.p = (if one then 0 else s.st.vstart) ∧ e.finished = false)
    ∧ t.st.pc = s.st.pc + 4 ∧ t.st.latch = 0 ∧ t.st.x = s.st.x ∧ t.st.vstart = 0
    ∧ (∀ n, n ≠ 0x104 → n ≠ 0x441 → t.st.cr n = s.st.cr n)
    ∧ t.st.v = s.st.v ∧ t.st.m = s.st.m ∧ t.st.h = s.st.h ∧ t.st.tiles = s.st.tiles
    ∧ (∀ c, c ≠ s.cur → t.strandAt c = s.strandAt c) ∧ t.mem = s.mem ∧ t.lines = s.lines

/-- The scalar result of an instruction that has entered the vector queue is awaited in the read queue, when it has one (R167). -/
def State.Awaits (s : State) (i : Info) (t : State) : Prop :=
  if takesRead s.st.latch i then
    ∃ r, t.st.readQ = s.st.readQ ++ [r] ∧ r.val = none ∧ some r.dst = (i.back <|> i.dest.map Prod.snd)
      ∧ r.cv = (i.back.isNone && latchV s.st.latch && latchDup s.st.latch) ∧ (r.cv = true → r.cpy = latchCopy s.st.latch)
  else t.st.readQ = s.st.readQ

end Sys2Proof.Machine
end

