-- ==== Sys2Proof/Certificates/Slice0/Obligations.lean ====
section
/-! DEFINITION. The statements for the provers, from the numbered rules of the spec. Where one rests on a choice of the model, its text
names the entry of the assumption log. -/

open Sys2Proof Sys2Proof.Machine

/-! ### The scalar core (R149 to R153) -/

/-- R149, R151: the register-register operations, the counts of leading, trailing and set bits, the extensions of bytes, half words and words, the
immediate operations, `LHI`, `ADDPC` and `SEL` write their result to `x[d]`, read before `d` is written, and change nothing else. -/
def Obligations.RegisterOperationsWriteTheirResult : Prop :=
  (∀ (s : State) (d a b : BitVec 5), s.Ready (infoDAB d a b) →
    let x := s.st.rx a
    let y := s.st.rx b
    ∀ p ∈ [(Instr.add d a b, x + y), (.sub d a b, x - y), (.and d a b, x &&& y), (.or d a b, x ||| y), (.xor d a b, x ^^^ y),
        (.andn d a b, x &&& ~~~y), (.sll d a b, x <<< (y.toNat % 64)), (.srl d a b, x >>> (y.toNat % 64)),
        (.sra d a b, x.sshiftRight (y.toNat % 64)), (.min d a b, if x.toInt ≤ y.toInt then x else y),
        (.max d a b, if x.toInt < y.toInt then y else x), (.minn d a b, if x.toNat ≤ y.toNat then x else y),
        (.maxn d a b, if x.toNat < y.toNat then y else x), (.slt d a b, if x.toInt < y.toInt then 1 else 0),
        (.sltn d a b, if x.toNat < y.toNat then 1 else 0), (.mul d a b, BitVec.ofNat 64 (x.toNat * y.toNat)),
        (.mulh d a b, BitVec.ofInt 64 (x.toInt * y.toInt / 2 ^ 64)),
        (.mulhn d a b, BitVec.ofNat 64 (x.toNat * y.toNat / 2 ^ 64))],
      ∃ t, exec p.1 s = .next t ∧ s.Wrote d.toNat p.2 t) ∧
  (∀ (s : State) (d a : BitVec 5), s.Ready (infoDA d a) →
    let x := s.st.rx a
    (∃ n : Nat, n ≤ 64 ∧ (∀ i, i < n → x.getLsbD (63 - i) = false) ∧ (n < 64 → x.getLsbD (63 - n) = true) ∧
      ∃ t, exec (.clz d a) s = .next t ∧ s.Wrote d.toNat (BitVec.ofNat 64 n) t) ∧
    (∃ n : Nat, n ≤ 64 ∧ (∀ i, i < n → x.getLsbD i = false) ∧ (n < 64 → x.getLsbD n = true) ∧
      ∃ t, exec (.ctz d a) s = .next t ∧ s.Wrote d.toNat (BitVec.ofNat 64 n) t) ∧
    (∃ t, exec (.popc d a) s = .next t ∧
      s.Wrote d.toNat (BitVec.ofNat 64 ((List.range 64).countP (fun i => x.getLsbD i))) t) ∧
    ∀ p ∈ [(Instr.sextB d a, (x.setWidth 8).signExtend 64), (.sextH d a, (x.setWidth 16).signExtend 64),
        (.sextW d a, (x.setWidth 32).signExtend 64), (.zextB d a, (x.setWidth 8).setWidth 64),
        (.zextH d a, (x.setWidth 16).setWidth 64), (.zextW d a, (x.setWidth 32).setWidth 64)],
      ∃ t, exec p.1 s = .next t ∧ s.Wrote d.toNat p.2 t) ∧
  (∀ (s : State) (d a : BitVec 5) (i : BitVec 16) (k : BitVec 6), s.Ready (infoDA d a) →
    let x := s.st.rx a
    ∀ p ∈ [(Instr.addi d a i, x + i.signExtend 64), (.andi d a i, x &&& i.zeroExtend 64), (.ori d a i, x ||| i.zeroExtend 64),
        (.xori d a i, x ^^^ i.zeroExtend 64), (.slti d a i, if x.toInt < i.toInt then 1 else 0),
        (.sltin d a i, if x.toNat < (i.signExtend 64).toNat then 1 else 0), (.slli d a k, x <<< k.toNat),
        (.srli d a k, x >>> k.toNat), (.srai d a k, x.sshiftRight k.toNat)],
      ∃ t, exec p.1 s = .next t ∧ s.Wrote d.toNat p.2 t) ∧
  (∀ (s : State) (d : BitVec 5) (i : BitVec 16), s.Ready { dest := some (.x, d.toNat) } →
    ∀ p ∈ [(Instr.lhi d i, BitVec.ofInt 64 (i.toInt * 65536)), (.addpc d i, s.st.pc + BitVec.ofInt 64 (i.toInt * 65536))],
      ∃ t, exec p.1 s = .next t ∧ s.Wrote d.toNat p.2 t) ∧
  ∀ (s : State) (d a b c : BitVec 5),
    s.Ready { reads := [(.x, a.toNat), (.x, b.toNat), (.x, c.toNat)], dest := some (.x, d.toNat) } →
    ∃ t, exec (.sel d a b c) s = .next t ∧ s.Wrote d.toNat (if s.st.rx c = 0 then s.st.rx b else s.st.rx a) t

/-- R149, R150: division rounds towards zero and the remainder takes the dividend's sign; a divisor of zero and the overflowing
division have the results of R150, and no division traps. -/
def Obligations.DivisionNeverTraps : Prop :=
  ∀ (s : State) (d a b : BitVec 5), s.Ready (infoDAB d a b) →
    let x := s.st.rx a
    let y := s.st.rx b
    (y = 0 → ∀ p ∈ [(Instr.div d a b, BitVec.allOnes 64), (.divn d a b, BitVec.allOnes 64), (.rem d a b, x), (.remn d a b, x)],
      ∃ t, exec p.1 s = .next t ∧ s.Wrote d.toNat p.2 t) ∧
    (x.toInt = -2 ^ 63 ∧ y.toInt = -1 → ∀ p ∈ [(Instr.div d a b, x), (.rem d a b, 0)],
      ∃ t, exec p.1 s = .next t ∧ s.Wrote d.toNat p.2 t) ∧
    (y ≠ 0 → ∀ p ∈ [(Instr.divn d a b, BitVec.ofNat 64 (x.toNat / y.toNat)), (.remn d a b, BitVec.ofNat 64 (x.toNat % y.toNat))],
      ∃ t, exec p.1 s = .next t ∧ s.Wrote d.toNat p.2 t) ∧
    (y ≠ 0 → ¬(x.toInt = -2 ^ 63 ∧ y.toInt = -1) →
      ∃ q r : Dword, q.toInt = x.toInt.tdiv y.toInt ∧ r.toInt = x.toInt.tmod y.toInt ∧
        (∃ t, exec (.div d a b) s = .next t ∧ s.Wrote d.toNat q t) ∧ ∃ t, exec (.rem d a b) s = .next t ∧ s.Wrote d.toNat r t)

/-- R152: a branch goes to its own address plus four times its offset when its comparison holds, else to the next word. -/
def Obligations.BranchesGoWhereTheyCompare : Prop :=
  ∀ (s : State) (a b : BitVec 5) (o : BitVec 16), s.Ready { reads := [(.x, a.toNat), (.x, b.toNat)] } →
    let x := s.st.rx a
    let y := s.st.rx b
    ∀ p ∈ [(Instr.beq a b o, decide (x = y)), (.bne a b o, decide (x ≠ y)), (.blt a b o, decide (x.toInt < y.toInt)),
        (.bge a b o, decide (y.toInt ≤ x.toInt)), (.bltn a b o, decide (x.toNat < y.toNat)), (.bgen a b o, decide (y.toNat ≤ x.toNat))],
      ∃ t, exec p.1 s = .next t ∧ s.WentTo (if p.2 then s.st.pc + BitVec.ofInt 64 (4 * o.toInt) else s.st.pc + 4) t

/-- R153: `JUMP`, `CALL` and `JR`: where they go and what they link; a misaligned target of `JR` traps ALIGN with nothing written. -/
def Obligations.JumpsLinkAndGo : Prop :=
  (∀ (s : State) (o : BitVec 26), s.Ready {} →
    ∃ t, exec (.jump o) s = .next t ∧ s.WentTo (s.st.pc + BitVec.ofInt 64 (4 * o.toInt)) t) ∧
  (∀ (s : State) (o : BitVec 26), s.Ready { reads := [(.x, 1)] } →
    ∃ t, exec (.call o) s = .next t ∧ (s.setSt (s.st.setX 1 (s.st.pc + 4))).WentTo (s.st.pc + BitVec.ofInt 64 (4 * o.toInt)) t) ∧
  ∀ (s : State) (d a : BitVec 5) (i : BitVec 16), s.Ready { reads := [(.x, a.toNat), (.x, d.toNat)] } →
    let target := s.st.rx a + i.signExtend 64
    (target.toNat % 4 = 0 →
      ∃ t, exec (.jr d a i) s = .next t ∧ (s.setSt (s.st.setX d.toNat (s.st.pc + 4))).WentTo target t) ∧
    (target.toNat % 4 ≠ 0 →
      exec (.jr d a i) s = .next (s.trapped (s.begun { reads := [(.x, a.toNat), (.x, d.toNat)] }) cALIGN target.toNat 0))

/-- R48 to R50, R53: a `PFX` to which no prefix is lent sets the latch to bit 31 and its own bits [25:0] and goes on; a `HINT` goes on and consumes the latch. -/
def Obligations.PrefixAndHint : Prop :=
  (∀ (s : State) (i : BitVec 1) (m : BitVec 3) (u : BitVec 1) (c : BitVec 5), (Instr.pfx i m u c).wf = true → s.Ready { pfx := true } →
    ∃ t, exec (.pfx i m u c) s = .next t ∧ latchV t.st.latch = true ∧ latchMask t.st.latch = m.toNat ∧ latchInv t.st.latch = (i == 1)
      ∧ latchDup t.st.latch = (u == 1) ∧ latchCopy t.st.latch = c.toNat
      ∧ s.WentTo (s.st.pc + 4) (t.mapSt (fun st => { st with latch := 0 }))) ∧
  ∀ (s : State) (p : BitVec 26), ∃ t, exec (.hint p) s = .next t ∧ s.WentTo (s.st.pc + 4) t

/-- R44, R50, R144, R168: a register-register or immediate operation, a selection, a branch, a jump, a call or a prefix (every scalar instruction
of R149 to R153, and `PFX`) whose prefix is not permitted, a `PFX` after a `PFX` among them, traps ILL with reason 6 and nothing done; one whose
register has a pending result does not issue, and the state stays. -/
def Obligations.ScalarInstructionsStopBeforeTheyAct : Prop :=
  ∀ (s : State) (d a b c : BitVec 5) (i : BitVec 16) (k : BitVec 6) (o : BitVec 26) (n u : BitVec 1) (m : BitVec 3),
    let two : Info := { reads := [(.x, a.toNat), (.x, b.toNat)] }
    let dab := infoDAB d a b
    let da := infoDA d a
    let dst : Info := { dest := some (.x, d.toNat) }
    ∀ p ∈ [(Instr.add d a b, dab), (.sub d a b, dab), (.and d a b, dab), (.or d a b, dab), (.xor d a b, dab), (.andn d a b, dab),
        (.sll d a b, dab), (.srl d a b, dab), (.sra d a b, dab), (.min d a b, dab), (.max d a b, dab), (.minn d a b, dab),
        (.maxn d a b, dab), (.slt d a b, dab), (.sltn d a b, dab), (.mul d a b, dab), (.mulh d a b, dab), (.mulhn d a b, dab),
        (.div d a b, dab), (.divn d a b, dab), (.rem d a b, dab), (.remn d a b, dab), (.clz d a, da), (.ctz d a, da), (.popc d a, da),
        (.sextB d a, da), (.sextH d a, da), (.sextW d a, da), (.zextB d a, da), (.zextH d a, da), (.zextW d a, da),
        (.addi d a i, da), (.andi d a i, da), (.ori d a i, da), (.xori d a i, da), (.slti d a i, da), (.sltin d a i, da),
        (.slli d a k, da), (.srli d a k, da), (.srai d a k, da), (.lhi d i, dst), (.addpc d i, dst),
        (.sel d a b c, { reads := [(.x, a.toNat), (.x, b.toNat), (.x, c.toNat)], dest := some (.x, d.toNat) }),
        (.beq a b i, two), (.bne a b i, two), (.blt a b i, two), (.bge a b i, two), (.bltn a b i, two), (.bgen a b i, two),
        (.jump o, {}), (.call o, { reads := [(.x, 1)] }), (.jr d a i, { reads := [(.x, a.toNat), (.x, d.toNat)] }),
        (.pfx n m u c, { pfx := true })],
      (prefixOk s.st.latch p.2 = false → exec p.1 s = .next (s.trapped s cILL (wordOf p.1) 6)) ∧
      (prefixOk s.st.latch p.2 = true → hazard s.st 0 p.2 = true → exec p.1 s = .next s)

/-! ### Scalar memory (R91, R154, R171 to R173) -/

/-- R91, R154, R51, R139: an aligned load whose translation succeeds reads its bytes at their point of performance and writes them to
`x[d]`, sign- or zero-extended; every byte of memory and every other register stays. A bank that is held must be open (R313). A strand with work outstanding, and a load that
is left to its event, are the matter of `DeferredAccessesAreIssued` (the model's `defer`, log 7). -/
def Obligations.LoadsReadTheirBytes : Prop :=
  ∀ (s u : State) (d b : BitVec 5) (z : BitVec 2) (n q : BitVec 1) (f : BitVec 11) (x : Xl),
    let info : Info := { reads := [(.x, b.toNat)], dest := some (.x, d.toNat) }
    let ea := (s.st.rx b + f.signExtend 64).toNat
    let size := 2 ^ z.toNat
    let v := u.bytesAt x.place x.pa size
    s.Ready info → s.Quiet → ea % size = 0 → (s.defer = false ∨ q = 1) →
    xlateIn (Acc.load.forStrand (s.begun info)) ea size (s.begun info) = .ok x u →
    x.place.holds x.pa = true → x.place.isOpen u x.pa = true → u.goodAt x.place x.pa = true → x.pa % size = 0 →
    ∃ t, exec (.ld d b z n q f) s = .next t
      ∧ s.Got d.toNat (if n = 1 then BitVec.ofNat 64 v else BitVec.ofInt 64 (toSigned (8 * size) v)) t ∧ s.SameBytes t

/-- R91, R101, R154: an aligned store whose translation succeeds writes the low bytes of `x[s]` at their point of performance, and
nothing else of memory; no register changes; a release store follows every transaction that is open. Bytes of a half that stays marked are not
spoken of (R387). A store that is left to its event is the matter of `DeferredAccessesAreIssued` (log 7). -/
def Obligations.StoresWriteTheirBytes : Prop :=
  ∀ (s u : State) (a b : BitVec 5) (z : BitVec 2) (q : BitVec 1) (f : BitVec 11) (x : Xl),
    let info : Info := { reads := [(.x, a.toNat), (.x, b.toNat)], tagged := true }
    let ea := (s.st.rx b + f.signExtend 64).toNat
    let size := 2 ^ z.toNat
    let v := (s.st.rx a).toNat % 2 ^ (8 * size)
    s.Ready info → s.Quiet → ea % size = 0 → s.defer = false →
    xlateIn (Acc.store.forStrand (s.begun info)) ea size (s.begun info) = .ok x u → (q = 1 → openBefore u u.st u.seqNow = false) →
    x.place.holds x.pa = true → x.place.isOpen u x.pa = true → (x.place ≠ .bank → u.goodAt x.place x.pa = true) → x.pa % size = 0 →
    ∃ t, exec (.st a b z q f) s = .next t ∧ s.Advanced t
      ∧ (x.place ≠ .bank → s.PutBytes x.pa size v t) ∧ (x.place = .bank → u.PutRaw x.pa size v t)

/-- R91, R93, R173: an atomic whose translation succeeds writes the new value of R173 at its point of performance, computed from the
old value there, and returns the old value sign-extended; a `CAS` that fails writes the old value back. -/
def Obligations.AtomicsReturnTheOldValue : Prop :=
  ∀ (s u : State) (d a b : BitVec 5) (z : BitVec 1) (o : BitVec 2) (x : Xl),
    let size := if z = 1 then 8 else 4
    let w := 8 * size
    let ea := (s.st.rx a).toNat
    let y := (s.st.rx b).toNat % 2 ^ w
    let c := (s.st.rx d).toNat % 2 ^ w
    let old := u.bytesAt x.place x.pa size
    let lt := toSigned w old < toSigned w y
    s.Quiet → ea % size = 0 → (s.defer = false ∨ o ≠ 0) →
    xlate1 (Acc.amo.forStrand (s.begun { tagged := true })) ea (s.begun { tagged := true }) = .ok x u →
    (2 ≤ o.toNat → openBefore u u.st u.seqNow = false) →
    x.place ≠ .bank → x.place.holds x.pa = true → u.goodAt x.place x.pa = true → x.pa % size = 0 →
    ∀ p ∈ [(Instr.amoadd d a b z o, ([] : List (RegKind × Nat)), (old + y) % 2 ^ w), (.amoand d a b z o, [], old &&& y),
        (.amoor d a b z o, [], old ||| y), (.amoxor d a b z o, [], old ^^^ y),
        (.amomin d a b z o, [], if lt then old else y), (.amomax d a b z o, [], if lt then y else old),
        (.amominn d a b z o, [], min old y), (.amomaxn d a b z o, [], max old y), (.amoswap d a b z o, [], y),
        (.cas d a b z o, [(.x, d.toNat)], if old = c then y else old)],
      s.Ready { reads := [(.x, a.toNat), (.x, b.toNat)] ++ p.2.1, dest := some (.x, d.toNat), tagged := true } →
      ∃ t, exec p.1 s = .next t ∧ s.Got d.toNat (BitVec.ofInt 64 (toSigned w old)) t ∧ s.PutBytes x.pa size p.2.2 t

/-- R102, R173, R318, R454, R456, R464: a load from another package or from the host window, and an atomic of another package, sends a transaction
under the next tag of its home and does not go on; once the transaction is answered it writes its result. A store there sends its bytes; where work
is deferred (log 7) the strand goes on at once, and otherwise when the transaction is answered. An aligned doubleword of `BERR` reads as R318 says,
and one written there clears the flags that it names. Accesses behind a store that has left the package are not spoken of (log 55). -/
def Obligations.AccessesLeaveThePackage : Prop :=
  (∀ (s u : State) (d b : BitVec 5) (z : BitVec 2) (n q : BitVec 1) (f : BitVec 11) (x : Xl),
    let info : Info := { reads := [(.x, b.toNat)], dest := some (.x, d.toNat) }
    let ea := (s.st.rx b + f.signExtend 64).toNat
    let size := 2 ^ z.toNat
    s.Ready info → s.Quiet → ea % size = 0 →
    xlateIn (Acc.load.forStrand (s.begun info)) ea size (s.begun info) = .ok x u → u.txns.any (fun t => t.late.isSome) = false →
    (∀ n', x.place = .io → size = 8 → x.pa = berrBase + 16 * n' → n' < 4096 →
      ∃ t, exec (.ld d b z n q f) s = .next t
        ∧ s.Got d.toNat (if n = 1 then BitVec.ofNat 64 (u.bank n').berr.toNat
            else BitVec.ofInt 64 (toSigned 64 ((u.bank n').berr.toNat % 2 ^ 64))) t) ∧
    (∀ home, (x.place = .remote home ∨ home = 127 ∧ ∃ c, x.place = .host c) →
      (∀ tx v, findTxn u x.who 0 ea size = some tx → tx.done = some (0, v) →
        ∃ t, exec (.ld d b z n q f) s = .next t
          ∧ s.Got d.toNat (if n = 1 then BitVec.ofNat 64 v else BitVec.ofInt 64 (toSigned (8 * size) v)) t) ∧
      (findTxn u x.who 0 ea size = none → (∀ tx ∈ u.txns, tx.home = home → tx.done.isSome = true) →
        ∃ t tx, exec (.ld d b z n q f) s = .next t ∧ t.txns = u.txns ++ [tx] ∧ tx.home = home ∧ tx.op = 0 ∧ tx.pa = x.pa
          ∧ tx.size = size ∧ tx.va = ea ∧ tx.sid = x.who ∧ tx.tag = Tab.get u.nextTag home % 65536 ∧ tx.done = none
          ∧ t.st.pc = s.st.pc ∧ t.st.x = s.st.x ∧ u.SameBytes t))) ∧
  (∀ (s u : State) (a b : BitVec 5) (z : BitVec 2) (f : BitVec 11) (x : Xl),
    let info : Info := { reads := [(.x, a.toNat), (.x, b.toNat)], tagged := true }
    let ea := (s.st.rx b + f.signExtend 64).toNat
    let size := 2 ^ z.toNat
    let v := (s.st.rx a).toNat % 2 ^ (8 * size)
    s.Ready info → s.Quiet → s.st.resumed = false → ea % size = 0 →
    xlateIn (Acc.store.forStrand (s.begun info)) ea size (s.begun info) = .ok x u → u.txns.any (fun t => t.late.isSome) = false →
    (∀ n', x.place = .io → size = 8 → x.pa = berrBase + 16 * n' → n' < 4096 →
      ∃ t, exec (.st a b z 0 f) s = .next t ∧ s.Advanced t ∧ t.mem = u.mem ∧ t.lines = u.lines
        ∧ ∀ i, i < 128 → (t.bank n').berr.getLsbD i = ((u.bank n').berr.getLsbD i && !(decide (i < 2) && (s.st.rx a).getLsbD i))) ∧
    (∀ home, (x.place = .remote home ∨ home = 127 ∧ ∃ c, x.place = .host c) →
      (∀ tx r, s.defer = false → findTxn u x.who 1 ea size = some tx → tx.done = some (0, r) →
        ∃ t, exec (.st a b z 0 f) s = .next t ∧ s.Advanced t ∧ t.mem = u.mem ∧ t.lines = u.lines) ∧
      ((s.defer = true ∨ findTxn u x.who 1 ea size = none) → (∀ tx ∈ u.txns, tx.home = home → tx.done.isSome = true) →
        ∃ t tx, exec (.st a b z 0 f) s = .next t ∧ (∃ l, t.txns = l ++ [tx]) ∧ tx.home = home ∧ tx.op = 1 ∧ tx.pa = x.pa
          ∧ tx.size = size ∧ tx.data = v ∧ tx.va = ea ∧ tx.sid = x.who ∧ tx.tag = Tab.get u.nextTag home % 65536 ∧ tx.done = none
          ∧ (s.defer = true → s.Advanced t ∧ tx.late = some s.st.pc.toNat ∧ tx.latch = s.st.latch)
          ∧ (s.defer = false → t.st.pc = s.st.pc ∧ tx.late = none) ∧ t.st.x = s.st.x ∧ u.SameBytes t))) ∧
  ∀ (s u : State) (d a b : BitVec 5) (z : BitVec 1) (x : Xl) (home : Nat),
    let size := if z = 1 then 8 else 4
    let ea := (s.st.rx a).toNat
    let y := (s.st.rx b).toNat % 2 ^ (8 * size)
    let c := (s.st.rx d).toNat % 2 ^ (8 * size)
    s.Quiet → s.st.resumed = false → ea % size = 0 →
    xlate1 (Acc.amo.forStrand (s.begun { tagged := true })) ea (s.begun { tagged := true }) = .ok x u → x.place = .remote home →
    u.txns.any (fun t => t.late.isSome) = false →
    ∀ p ∈ [(Instr.amoadd d a b z 0, ([] : List (RegKind × Nat)), 2, y), (.amoand d a b z 0, [], 3, y), (.amoor d a b z 0, [], 4, y),
        (.amoxor d a b z 0, [], 5, y), (.amomin d a b z 0, [], 6, y), (.amomax d a b z 0, [], 7, y), (.amominn d a b z 0, [], 8, y),
        (.amomaxn d a b z 0, [], 9, y), (.amoswap d a b z 0, [], 10, y),
        (.cas d a b z 0, [(.x, d.toNat)], 11, y + c * 2 ^ (8 * size))],
      s.Ready { reads := [(.x, a.toNat), (.x, b.toNat)] ++ p.2.1, dest := some (.x, d.toNat), tagged := true } →
      (∀ tx old, findTxn u x.who p.2.2.1 ea size = some tx → tx.done = some (0, old) →
        ∃ t, exec p.1 s = .next t ∧ s.Got d.toNat (BitVec.ofInt 64 (toSigned (8 * size) old)) t) ∧
      (findTxn u x.who p.2.2.1 ea size = none → (∀ tx ∈ u.txns, tx.home = home → tx.done.isSome = true) →
        ∃ t tx, exec p.1 s = .next t ∧ t.txns = u.txns ++ [tx] ∧ tx.home = home ∧ tx.op = p.2.2.1 ∧ tx.pa = x.pa ∧ tx.size = size
          ∧ tx.data = p.2.2.2 ∧ tx.va = ea ∧ tx.sid = x.who ∧ tx.tag = Tab.get u.nextTag home % 65536 ∧ tx.done = none
          ∧ t.st.pc = s.st.pc ∧ t.st.x = s.st.x ∧ u.SameBytes t)

/-- R97, R154, R173, R182, R80: a scalar access at an address that is no multiple of its size traps ALIGN before it translates, with
`EVAL` the address; one whose translation faults takes the trap of the translation, and so does one beyond bit 54 of the address
space (reason 1). -/
def Obligations.AddressesThatTrap : Prop :=
  ∀ (s : State) (d a b k : BitVec 5) (z2 : BitVec 2) (z n q : BitVec 1) (o : BitVec 2) (f : BitVec 11),
    let one := [(RegKind.x, a.toNat)]
    let two := [(RegKind.x, a.toNat), (RegKind.x, b.toNat)]
    let dest := some (RegKind.x, d.toNat)
    let size := if z = 1 then 8 else 4
    let off := (s.st.rx a + f.signExtend 64).toNat
    ∀ p ∈ [(Instr.ld d a z2 n q f, ({ reads := one, dest := dest } : Info), off, 2 ^ z2.toNat, Acc.load),
        (.st b a z2 q f, { reads := [(.x, b.toNat), (.x, a.toNat)], tagged := true }, off, 2 ^ z2.toNat, Acc.store),
        (.amoadd d a b z o, { reads := two, dest := dest, tagged := true }, (s.st.rx a).toNat, size, Acc.amo),
        (.amoand d a b z o, { reads := two, dest := dest, tagged := true }, (s.st.rx a).toNat, size, Acc.amo),
        (.amoor d a b z o, { reads := two, dest := dest, tagged := true }, (s.st.rx a).toNat, size, Acc.amo),
        (.amoxor d a b z o, { reads := two, dest := dest, tagged := true }, (s.st.rx a).toNat, size, Acc.amo),
        (.amomin d a b z o, { reads := two, dest := dest, tagged := true }, (s.st.rx a).toNat, size, Acc.amo),
        (.amomax d a b z o, { reads := two, dest := dest, tagged := true }, (s.st.rx a).toNat, size, Acc.amo),
        (.amominn d a b z o, { reads := two, dest := dest, tagged := true }, (s.st.rx a).toNat, size, Acc.amo),
        (.amomaxn d a b z o, { reads := two, dest := dest, tagged := true }, (s.st.rx a).toNat, size, Acc.amo),
        (.amoswap d a b z o, { reads := two, dest := dest, tagged := true }, (s.st.rx a).toNat, size, Acc.amo),
        (.cas d a b z o, { reads := two ++ [(.x, d.toNat)], dest := dest, tagged := true }, (s.st.rx a).toNat, size, Acc.amo),
        (.waiteq d a b k q z, { reads := two, dest := dest }, (s.st.rx a).toNat, size, Acc.waitLine),
        (.waitne d a b k q z, { reads := two, dest := dest }, (s.st.rx a).toNat, size, Acc.waitLine)],
      let at0 := s.begun p.2.1
      let ea := p.2.2.1
      s.Ready p.2.1 →
        (ea % p.2.2.2.1 ≠ 0 → exec p.1 s = .next (s.trapped at0 cALIGN ea 0)) ∧
        (ea % p.2.2.2.1 = 0 → 2 ^ 55 ≤ ea → exec p.1 s = .next (s.trapped at0 cTFAULT ea (1 + p.2.2.2.2.kind * 256))) ∧
        (ea % p.2.2.2.1 = 0 → ∀ tr u, xlate1 (p.2.2.2.2.forStrand at0) ea at0 = .error (.trap tr) u →
          exec p.1 s = .next (trapOr s u tr))

/-- R99, R139, R144, R154 with the model's `defer` (log 7): a load, store or atomic that is left to its event is issued: the strand
goes on with its registers and memory as they were, and the access stands in its buffer with the bytes it will read or write. -/
def Obligations.DeferredAccessesAreIssued : Prop :=
  (∀ (s u : State) (d b : BitVec 5) (z : BitVec 2) (n : BitVec 1) (f : BitVec 11) (x : Xl),
    let info : Info := { reads := [(.x, b.toNat)], dest := some (.x, d.toNat) }
    let ea := (s.st.rx b + f.signExtend 64).toNat
    s.Ready info → s.st.vq = [] → ea % 2 ^ z.toNat = 0 →
    xlateIn (Acc.load.forStrand (s.begun info)) ea (2 ^ z.toNat) (s.begun info) = .ok x u → canDefer u x = true →
    ∃ t e, exec (.ld d b z n 0 f) s = .next t ∧ t.st.loads = s.st.loads ++ [e] ∧ e.pa = x.pa ∧ e.place = x.place
      ∧ e.size = 2 ^ z.toNat ∧ e.zext = (n == 1) ∧ e.dst = d.toNat ∧ e.amo = none ∧ e.pc = s.st.pc.toNat
      ∧ (e.cpy = if latchV s.st.latch && latchDup s.st.latch then some (latchCopy s.st.latch) else none)
      ∧ t.st.pc = s.st.pc + 4 ∧ t.st.latch = 0 ∧ t.st.x = s.st.x ∧ t.st.stores = s.st.stores ∧ s.OthersKept t ∧ t.mem = u.mem) ∧
  (∀ (s u : State) (d a b : BitVec 5) (z : BitVec 1) (x : Xl),
    let size := if z = 1 then 8 else 4
    let ea := (s.st.rx a).toNat
    let y := (s.st.rx b).toNat % 2 ^ (8 * size)
    let c := (s.st.rx d).toNat % 2 ^ (8 * size)
    s.st.vq = [] → ea % size = 0 →
    xlate1 (Acc.amo.forStrand (s.begun { tagged := true })) ea (s.begun { tagged := true }) = .ok x u → canDefer u x = true →
    ∀ p ∈ [(Instr.amoadd d a b z 0, ([] : List (RegKind × Nat)), 0, 0), (.amoand d a b z 0, [], 1, 0), (.amoor d a b z 0, [], 2, 0),
        (.amoxor d a b z 0, [], 3, 0), (.amomin d a b z 0, [], 4, 0), (.amomax d a b z 0, [], 5, 0), (.amominn d a b z 0, [], 6, 0),
        (.amomaxn d a b z 0, [], 7, 0), (.amoswap d a b z 0, [], 8, 0), (.cas d a b z 0, [(.x, d.toNat)], 9, c)],
      s.Ready { reads := [(.x, a.toNat), (.x, b.toNat)] ++ p.2.1, dest := some (.x, d.toNat), tagged := true } →
      ∃ t e, exec p.1 s = .next t ∧ t.st.loads = s.st.loads ++ [e] ∧ e.pa = x.pa ∧ e.place = x.place ∧ e.size = size ∧ e.zext = false
        ∧ e.dst = d.toNat ∧ e.amo = some (p.2.2.1, y, p.2.2.2) ∧ e.pc = s.st.pc.toNat
        ∧ (e.cpy = if latchV s.st.latch && latchDup s.st.latch then some (latchCopy s.st.latch) else none)
        ∧ t.st.pc = s.st.pc + 4 ∧ t.st.latch = 0 ∧ t.st.x = s.st.x ∧ t.st.stores = s.st.stores ∧ s.OthersKept t ∧ t.mem = u.mem) ∧
  ∀ (s u : State) (a b : BitVec 5) (z : BitVec 2) (q : BitVec 1) (f : BitVec 11) (x : Xl),
    let info : Info := { reads := [(.x, a.toNat), (.x, b.toNat)], tagged := true }
    let ea := (s.st.rx b + f.signExtend 64).toNat
    s.Ready info → s.st.vq = [] → ea % 2 ^ z.toNat = 0 → s.defer = true → s.storesOpen < 8 →
    xlateIn (Acc.store.forStrand (s.begun info)) ea (2 ^ z.toNat) (s.begun info) = .ok x u →
    (x.place = .home ∨ x.place = .bank ∨ x.place = .localStore) →
    ∃ t e, exec (.st a b z q f) s = .next t ∧ t.st.stores = s.st.stores ++ [e] ∧ e.pa = x.pa ∧ e.place = x.place
      ∧ e.size = 2 ^ z.toNat ∧ e.val = (s.st.rx a).toNat % 2 ^ (8 * 2 ^ z.toNat) ∧ e.rel = (q == 1)
      ∧ t.st.pc = s.st.pc + 4 ∧ t.st.latch = 0 ∧ t.st.x = s.st.x ∧ t.st.loads = s.st.loads ∧ s.OthersKept t ∧ t.mem = u.mem

/-- R91, R92, R93, R144, R154, R173, R388: a buffered store that may be performed writes its bytes and leaves the buffer; an issued load that may
be performed writes the bytes it reads to its register, and to its copy register, and is issued no more; one that reads an uncorrectable word
leaves the registers as they are, and its BANKERR is to be delivered (R388; when, and in what order with others, is the model's choice: log 56). An issued
atomic that may be performed writes the new value of R173 and gives its registers the old one. -/
def Obligations.IssuedAccessesArePerformed : Prop :=
  (∀ (s : State) (c : BitVec 8) (k : BitVec 3) (e : StoreEntry),
    (s.strandAt c.toNat).stores[k.toNat]? = some e → storeReady s c.toNat e = true → e.place.holds e.pa = true →
    e.pa % 32 + e.size ≤ 32 → (e.place ≠ .bank → s.goodAt e.place e.pa = true) →
    ∃ t, exec (.storePerformed c k) s = .next t ∧ (e.place ≠ .bank → s.PutBytes e.pa e.size e.val t)
      ∧ (e.place = .bank → s.PutRaw e.pa e.size e.val t)
      ∧ t.strandAt c.toNat = { s.strandAt c.toNat with stores := (s.strandAt c.toNat).stores.eraseIdx k.toNat }
      ∧ (∀ j, j ≠ c.toNat → t.strandAt j = s.strandAt j) ∧ t.pk = s.pk) ∧
  (∀ (s : State) (c k : BitVec 8) (e : LoadEntry) (op y x : Nat),
    k.toNat < 128 → (s.strandAt c.toNat).loads[k.toNat]? = some e → loadReady s c.toNat e = true → e.amo = some (op, y, x) → op < 10 →
    e.zext = false → (e.place = .home ∨ e.place = .localStore) → e.place.holds e.pa = true → e.pa % 32 + e.size ≤ 32 →
    (e.size = 4 ∨ e.size = 8) → s.goodAt e.place e.pa = true → y < 2 ^ (8 * e.size) →
    let w := 8 * e.size
    let old := s.bytesAt e.place e.pa e.size
    let lt := toSigned w old < toSigned w y
    let new := [(old + y) % 2 ^ w, old &&& y, old ||| y, old ^^^ y, if lt then old else y, if lt then y else old, min old y, max old y, y,
      if old = x then y else old].getD op 0
    ∃ t, exec (.loadPerformed c k) s = .next t ∧ s.PutBytes e.pa e.size new t
      ∧ t.strandAt c.toNat = { s.strandAt c.toNat with loads := (s.strandAt c.toNat).loads.eraseIdx k.toNat, x := (t.strandAt c.toNat).x }
      ∧ (∀ r, (t.strandAt c.toNat).xr r
          = if r ≠ 0 ∧ (r = e.dst ∨ e.cpy = some r) then BitVec.ofInt 64 (toSigned w old) else (s.strandAt c.toNat).xr r)
      ∧ (∀ j, j ≠ c.toNat → t.strandAt j = s.strandAt j) ∧ t.pk = s.pk) ∧
  ∀ (s : State) (c k : BitVec 8) (e : LoadEntry),
    k.toNat < 128 → (s.strandAt c.toNat).loads[k.toNat]? = some e → loadReady s c.toNat e = true → e.amo = none →
    e.place.holds e.pa = true → e.pa % 32 + e.size ≤ 32 → 0 < e.size →
    let v := s.bytesAt e.place e.pa e.size
    let rest := (s.strandAt c.toNat).loads.eraseIdx k.toNat
    ∃ t, exec (.loadPerformed c k) s = .next t ∧ s.SameBytes t
      ∧ (s.goodAt e.place e.pa = true →
          t.strandAt c.toNat = { s.strandAt c.toNat with loads := rest, x := (t.strandAt c.toNat).x }
          ∧ ∀ r, (t.strandAt c.toNat).xr r
            = if r ≠ 0 ∧ (r = e.dst ∨ e.cpy = some r) then
                (if e.zext then BitVec.ofNat 64 v else BitVec.ofInt 64 (toSigned (8 * e.size) v))
              else (s.strandAt c.toNat).xr r)
      ∧ (s.goodAt e.place e.pa = false →
          t.strandAt c.toNat = { s.strandAt c.toNat with loads := rest, late := insertLate e.bankTrap (s.strandAt c.toNat).late })
      ∧ (∀ j, j ≠ c.toNat → t.strandAt j = s.strandAt j) ∧ t.pk = s.pk

/-! ### Fences, waits and the gang barrier (R179 to R190, R461) -/

/-- R102 to R104, R162, R180, R460, R461: with nothing outstanding, `FENCE`, `IFLUSH` and `RFENCE` go on and change no register, and after
`IFLUSH` the core's instruction cache holds no line while every other core's is as before. A fence whose scope reaches other packages, or the
host, waits while a transaction of the strand there is open that belongs to a class of earlier accesses which its kinds name (loads for LL and LS,
stores for SL and SS, atomics for both; a posted atomic is no load), and `RFENCE` waits for any of another package. A pending LINKERR of a refused request is delivered at `RFENCE`, oldest first, with its
home and tag. -/
def Obligations.FencesGoOnOrWait : Prop :=
  ∀ (s : State) (k : BitVec 6) (sc : BitVec 3), s.Ready {} → s.Quiet →
    let mine := fun (x : Txn) => x ∈ s.txns ∧ s.st.owns x.sid = true ∧ x.done = none
    let reached := fun (x : Txn) => mine x ∧ (if x.home = 127 then 4 else 3) ≤ sc.toNat
      ∧ ((k.toNat % 4 ≠ 0 ∧ x.op ≠ 1 ∧ x.posted = false) ∨ (k.toNat / 4 % 4 ≠ 0 ∧ x.op ≠ 0))
    ((k.toNat % 16 ≠ 0 → ∀ x, ¬reached x) → (∀ p ∈ s.slots, p.2.owner.map Prod.fst ≠ some s.st.owner) →
      ∃ t, exec (.fence k sc) s = .next t.served ∧ s.WentTo (s.st.pc + 4) t) ∧
    (∀ x, k.toNat % 16 ≠ 0 → reached x → exec (.fence k sc) s = .next (s.begun {})) ∧
    ((∀ x, mine x → x.op = 0) →
      ∃ t, exec .iflush s = .next t.served ∧ s.Advanced t ∧ t.mem = s.mem ∧ t.lines = s.lines
        ∧ ∀ p, p ∈ t.icache ↔ p ∈ s.icache ∧ p.1 / 2 ^ 46 ≠ coreOf s.cur) ∧
    ∀ (a : BitVec 5) (h : BitVec 1), s.Ready { reads := if h = 1 then [(.x, a.toNat)] else [] } →
      let open_ := openTxns s (if h = 1 then some ((s.st.rx a).toNat % 128) else none)
      (open_ = false → s.st.linkErrs = [] → ∃ t, exec (.rfence a h) s = .next t.served ∧ s.WentTo (s.st.pc + 4) t) ∧
      (open_ = true → ∃ t, exec (.rfence a h) s = .next t ∧ t = s.begun {}) ∧
      ∀ l r, open_ = false → s.st.linkErrs = l :: r → l.w0 = 1 →
        exec (.rfence a h) s = .next (trapOr s ((s.begun {}).mapSt (fun st => { st with linkErrs := r }))
          { cause := cLINKERR, eval := l.va, w0 := 1, w1 := l.home, w2 := l.tag, w3 := l.w3 })

/-- R182 to R184: a wait on a location in WB stack DRAM reads it at its home; when the condition holds, or the deadline has passed, it
completes with the value read, sign-extended; otherwise the strand sleeps on the line with its registers as they were. What a plain wait leaves for
the load that follows it (`behind`, log 70) is not spoken of. -/
def Obligations.WaitsReadAndSleep : Prop :=
  ∀ (s u : State) (d a b k : BitVec 5) (o z : BitVec 1) (x : Xl) (ne : Bool),
    let info : Info := { reads := [(.x, a.toNat), (.x, b.toNat)], dest := some (.x, d.toNat) }
    let i := if ne then Instr.waitne d a b k o z else Instr.waiteq d a b k o z
    let size := if z = 1 then 8 else 4
    let ea := (s.st.rx a).toNat
    let v := u.bytesAt .home x.pa size
    let c := (s.st.rx b).toNat % 2 ^ (8 * size)
    let holds := if ne then v ≠ c else v = c
    let awake := s.mapSt (fun st => { st with deadline := none, run := .run })
    s.Ready info → s.Quiet → ea % size = 0 →
    xlate1 (Acc.waitLine.forStrand (s.begun info)) ea (s.begun info) = .ok x u →
    x.place = .home → isDram x.pa = true → u.goodAt .home x.pa = true → x.pa % size = 0 →
    (holds ∨ (k ≠ 0 ∧ ∃ dl, s.st.deadline = some dl ∧ dl ≤ s.now) →
      ∃ t, exec i s = .next t ∧ awake.Got d.toNat (BitVec.ofInt 64 (toSigned (8 * size) v)) (t.mapSt (fun st => { st with behind := none }))
        ∧ (o = 1 → t.st.behind = none) ∧ s.SameBytes t) ∧
    (¬holds → (k = 0 ∨ s.st.deadline = none ∨ ∃ dl, s.st.deadline = some dl ∧ s.now < dl) →
      ∃ t, exec i s = .next t ∧ s.SameBytes t ∧ s.OthersKept t ∧ Strand.ControlsKept s.st t.st
        ∧ t.st = { s.st with
            run := .waitLine (x.pa / 64), csr := t.st.csr, resumed := t.st.resumed, behind := t.st.behind,
            deadline := if k = 0 then none else some (s.st.deadline.getD (s.now + 2 ^ (k.toNat + 4))) })

/-- R186, R188: `GBAR.A` records the arrival of the strand's rank and returns the number of the open phase, which completes when every
member that has not stopped has arrived; `GBAR.W` returns the number of the open phase once the phase named need not be waited for. `GBAR` of the last member to arrive completes the phase and goes on; of another it leaves the arrival recorded, and the
strand stays at it; one whose arrival belongs to a phase that has completed goes on and clears its mark. -/
def Obligations.GangBarriersOpenAndClose : Prop :=
  (∀ (s : State) (d a : BitVec 5) (gid : Nat) (g : Gang), s.Quiet → openBefore s s.st s.seqNow = false → gangOf s = some (gid, g) →
    let k := s.st.rank
    let arrived := { g with barA := setBit g.barA k true }
    let every := ∀ j, j < g.size → bitOf g.stopped j = true ∨ bitOf arrived.barA.toNat j = true
    (s.Ready { dest := some (.x, d.toNat) } → bitOf g.barA.toNat k = false →
      ∃ t, exec (.gbarA d) s = .next t.served ∧ s.Got d.toNat (BitVec.ofNat 64 g.barP.toNat) t ∧ t.mem = s.mem
        ∧ (every → Tab.find t.gangs gid = some { arrived with barP := g.barP + 1, barA := 0 })
        ∧ (¬every → Tab.find t.gangs gid = some arrived)
        ∧ ∀ j, j ≠ gid → Tab.find t.gangs j = Tab.find s.gangs j) ∧
    (s.Ready { dest := some (.x, d.toNat) } → bitOf g.barA.toNat k = true →
      exec (.gbarA d) s = .next (s.begun { dest := some (.x, d.toNat) })) ∧
    (s.Ready (infoDA d a) →
      let p := BitVec.ofNat 32 (s.st.rx a).toNat
      (phaseDone g p = true ∨ p ≠ g.barP ∨ bitOf g.barA.toNat k = false →
        ∃ t, exec (.gbarW d a) s = .next t.served ∧ s.Wrote d.toNat (BitVec.ofNat 64 g.barP.toNat) t) ∧
      (phaseDone g p = false → p = g.barP → bitOf g.barA.toNat k = true → exec (.gbarW d a) s = .next (s.begun (infoDA d a))))) ∧
  ∀ (s : State) (gid : Nat) (g : Gang), s.Ready {} → s.Quiet → openBefore s s.st s.seqNow = false → gangOf s = some (gid, g) →
    let k := s.st.rank
    let arrived := { g with barA := setBit g.barA k true, barW := setBit g.barW k true }
    let every := ∀ j, j < g.size → bitOf g.stopped j = true ∨ bitOf arrived.barA.toNat j = true
    (bitOf g.barW.toNat k = true → bitOf g.barA.toNat k = false →
      ∃ t, exec .gbar s = .next t.served ∧ s.Advanced t ∧ Tab.find t.gangs gid = some { g with barW := setBit g.barW k false }) ∧
    (bitOf g.barW.toNat k = false → bitOf g.barA.toNat k = false → every →
      ∃ t, exec .gbar s = .next t.served ∧ s.Advanced t
        ∧ Tab.find t.gangs gid = some { arrived with barP := g.barP + 1, barA := 0, barW := setBit arrived.barW k false }) ∧
    (bitOf g.barW.toNat k = false → bitOf g.barA.toNat k = false → ¬every →
      ∃ t, exec .gbar s = .next t ∧ t.st = (s.begun {}).st ∧ s.OthersKept t ∧ t.mem = s.mem ∧ Tab.find t.gangs gid = some arrived) ∧
    (bitOf g.barA.toNat k = true → exec .gbar s = .next (s.begun {}))

/-! ### Traps and the return from them (R130 to R132, R156, R157) -/

/-- R131, R156, R158: a trap that does not park the strand and meets no handler in progress enters the supervisor's handler: `EPC`,
`ECAUSE` and `EVAL` are written, the level before goes to `PPL`, `INH` is set, the latch is cleared, and fetch goes on at `STVEC`; no
other register of the strand, and no other strand, changes. A trap at an `IDLE` completes it: `EPC` is the next word's address (R158). `SYSC` and
`BRK` are such traps, with their operand as `EVAL`. -/
def Obligations.TrapsEnterTheHandler : Prop :=
  ∀ s : State, s.Quiet → s.st.late = [] → s.st.want = none → s.st.pl.toNat ≤ 2 →
    (1 ≤ s.st.pl.toNat → bitOf (s.st.cr 0x804).toNat 4 = false) →
    let entered := fun (u : State) (cause eval : Nat) =>
      u.st.pl = 1 ∧ u.st.pc = s.st.cr 0x806 ∧ u.st.latch = 0 ∧ u.st.run = .run
        ∧ u.st.cr 0x801 = s.st.woken.pc ∧ u.st.cr 0x802 = BitVec.ofNat 64 cause ∧ u.st.cr 0x803 = BitVec.ofNat 64 eval
        ∧ u.st.stat 0x804 = 1 + 4 * s.st.pl.toNat + 16
        ∧ (∀ n, n ≠ 0x441 → ¬(0x801 ≤ n ∧ n ≤ 0x804) → u.st.cr n = s.st.cr n)
        ∧ u.st.x = s.st.x ∧ u.st.v = s.st.v ∧ u.st.m = s.st.m ∧ u.st.tiles = s.st.tiles ∧ s.OthersKept u
    (∀ tr : Trap, tr.entry = none → tr.epc = none → tr.cause ≠ cMCHK →
      (∀ b, fsplitBit tr.cause = some b → s.st.pl = 0 → bitOf (s.pkr 0x800).toNat b = false) →
      entered (deliver s tr) tr.cause tr.eval) ∧
    ∀ n : BitVec 12, s.Ready {} → (∀ d, s.st.run ≠ .idle d) → haltWaits s = false →
      ∀ p ∈ [(Instr.sysc n, cSYSC), (.brk n, cBRK)], ∃ u, exec p.1 s = .next u ∧ entered u p.2 n.toNat

/-- R27, R131, R134: MCHK, and any trap that meets a supervisor handler in progress, enters machine level: the machine's own trap registers are
written, a converted trap has `MEVAL` = 0x0200 + its cause, and `ESTAT.PPL`, `INH` and `DFR` stay. A trap of a cause whose `FSPLIT` bit is set, taken
at user level, writes `EPC`, `ECAUSE` and `EVAL`, parks the strand and posts an event of the cause's kind; the level stays. -/
def Obligations.MachineChecksAndParkedTraps : Prop :=
  (∀ (s : State) (tr : Trap), s.Quiet → s.st.late = [] → s.st.want = none → s.st.pl.toNat ≤ 2 → tr.entry = none → tr.epc = none →
    (tr.cause = cMCHK ∨ (1 ≤ s.st.pl.toNat ∧ bitOf (s.st.cr 0x804).toNat 4 = true)) →
    let u := deliver s tr
    u.st.pl = 2 ∧ u.st.pc = s.st.cr 0xC06 ∧ u.st.latch = 0 ∧ u.st.cr 0xC01 = s.st.woken.pc ∧ u.st.cr 0xC02 = BitVec.ofNat 64 cMCHK
      ∧ u.st.cr 0xC03 = BitVec.ofNat 64 (if tr.cause = cMCHK then tr.eval else 0x0200 + tr.cause)
      ∧ u.st.stat 0xC04 = 2 + 4 * s.st.pl.toNat + 16
      ∧ (∀ n, ¬(0xC01 ≤ n ∧ n ≤ 0xC04) → u.st.cr n = s.st.cr n) ∧ u.st.x = s.st.x ∧ s.OthersKept u) ∧
  ∀ (s : State) (tr : Trap) (b : Nat), s.Quiet → s.st.late = [] → s.st.want = none → s.st.pl = 0 → tr.entry = none → tr.epc = none →
    fsplitBit tr.cause = some b → bitOf (s.pkr 0x800).toNat b = true →
    let u := deliver s tr
    u.st.run = .parked b ∧ u.st.pl = 0 ∧ u.st.latch = 0 ∧ u.st.cr 0x801 = s.st.woken.pc ∧ u.st.cr 0x802 = BitVec.ofNat 64 tr.cause
      ∧ u.st.cr 0x803 = BitVec.ofNat 64 tr.eval ∧ u.st.x = s.st.x ∧ u.st.pc = s.st.woken.pc ∧ s.OthersKept u
      ∧ u.hostEvents = s.hostEvents ++ [{ kind := b, queue := 0, subject := s.st.sid, ecause := tr.cause, eval := tr.eval,
                                          trec := s.st.recordAt 0x805 }]


/-- R131, R132: the trap record of a strand with empty queues holds its trap registers, the cause-specific words, the latch, `VSTART`,
`RPC` and `x0` to `x31` at their offsets, and zeros in the image; bytes 0x800 to 0x9FF and every byte outside the record stay. -/
def Obligations.TrapRecordsHoldTheStrand : Prop :=
  ∀ (s : State) (tr : Trap), s.coherent → s.Quiet → s.st.late = [] → s.st.want = none → s.st.pl = 0 → tr.entry = none → tr.epc = none →
    tr.ext = [] →
    fsplitBit tr.cause = none → tr.cause ≠ cMCHK → tr.eval < 2 ^ 64 → tr.w0 < 2 ^ 64 → tr.w1 < 2 ^ 64 → tr.w2 < 2 ^ 64 →
    tr.w3 < 2 ^ 64 → tr.cause < 256 → tr.latch = none →
    let a := s.st.recordAt 0x805
    isDram a = true →
    let u := deliver s tr
    let word := fun (o : Nat) => u.peekLE (a + o) 8
    let st := s.st.woken
    u.coherent ∧ word 0 = st.pc.toNat ∧ word 8 = tr.cause ∧ word 0x10 = tr.eval
      ∧ word 0x20 = tr.w0 ∧ word 0x28 = tr.w1 ∧ word 0x30 = tr.w2 ∧ word 0x38 = tr.w3
      ∧ word 0x40 = st.latch.toNat ∧ word 0x48 = st.vstart ∧ word 0x50 = st.pc.toNat
      ∧ (∀ r, r < 32 → word (0x100 + 8 * r) = (s.st.xr r).toNat)
      ∧ (∀ k, k < 128 → word (0x400 + 8 * k) = 0)
      ∧ (∀ p, (p < a ∨ a + 4096 ≤ p ∨ (a + 0x800 ≤ p ∧ p < a + 0xA00)) → u.peek p = s.peek p)

/-- R128, R132, R157, R169, R207: `ERET` at supervisor or machine level goes on at the level of `PPL`, at the saved `EPC`, or, with `DFR` set, at
the record's `RPC`; `x1` to `x31`, the latch, `VSTART` and the queue images come from the trap record, and `INH` and `DFR` are clear. A target
that is no multiple of 4 traps ALIGN, and a level above the current one traps PRIV. Outstanding work of the handler's own, and stream claims that
the record gives up while engines are run at once, are not spoken of. -/
def Obligations.ReturnsFromTraps : Prop :=
  ∀ (s : State) (m : Bool), s.Ready { priv := true } → s.Quiet → s.coherent → s.st.late = [] → s.st.pl = (if m then 2 else 1) →
    (s.defer = true ∨ ∀ h ∈ s.st.shadow, ∀ e ∈ h.2, e.claim = none) →
    let (nStat, nEpc, nRec) := if m then (0xC04, 0xC01, 0xC05) else (0x804, 0x801, 0x805)
    let a := s.st.recordAt nRec
    let stat := (s.st.cr nStat).toNat
    let ppl := fld stat 2 2
    let target := if bitOf stat 5 then BitVec.ofNat 64 (s.peekLE (a + 0x50) 8) else s.st.cr nEpc
    isDram a = true →
    (ppl ≤ s.st.pl.toNat → target.toNat % 4 = 0 →
      ∃ t, exec .eret s = .next t.served ∧ t.st.pl.toNat = ppl ∧ t.st.pc = target ∧ s.Restored a t.st ∧ t.st.stat nStat = ppl + 4 * ppl
        ∧ (∀ n, n ≠ 0x104 → n ≠ 0x441 → n ≠ nStat → t.st.cr n = s.st.cr n) ∧ s.OthersKept t ∧ s.SameBytes t) ∧
    (ppl ≤ s.st.pl.toNat → target.toNat % 4 ≠ 0 →
      ∃ u, s.SameBytes u ∧ u.st = (s.begun { priv := true }).st ∧ exec .eret s = .next (s.trapped u cALIGN target.toNat 0)) ∧
    (s.st.pl.toNat < ppl → exec .eret s = .next (s.trapped (s.begun { priv := true }) cPRIV (wordOf .eret) 0))

/-! ### System and control registers (R155 to R166) -/

/-- R158, R159: `YIELD` goes on and changes nothing else, but that the other contexts of its core which may issue now issue first, and four core
cycles pass before its strand does; `IDLE` whose deadline has passed goes on, and otherwise the strand sleeps at
it until a trap or the deadline. -/
def Obligations.YieldAndIdle : Prop :=
  (∀ s : State, s.Ready {} →
    ∃ t l, exec .yield s = .next t ∧ (s.mapSt (fun st => { st with yielded := some (l, s.now + 4) })).WentTo (s.st.pc + 4) t
      ∧ ∀ d, d ∈ l ↔ d / 4 = s.cur / 4 ∧ d ≠ s.cur ∧ canIssue s d = true) ∧
  ∀ (s : State) (a : BitVec 5), s.Ready { reads := [(.x, a.toNat)] } →
    (a ≠ 0 → s.st.rx a ≤ s.time → ∃ t, exec (.idle a) s = .next t ∧ s.WentTo (s.st.pc + 4) t) ∧
    ((a = 0 ∨ s.time < s.st.rx a) →
      ∃ t, exec (.idle a) s = .next t ∧ s.OnlyStrand t ∧ Strand.ControlsKept s.st t.st
        ∧ t.st = { s.st with
            run := .idle (if a = 0 then none else some (s.st.rx a).toNat), csr := t.st.csr, resumed := t.st.resumed })

/-- R115, R125, R126, R160, R161: `STOP` of a strand with nothing outstanding frees its context; the barrier of its gang counts it as arrived, and
when it was the last one the gang's completion is raised; a supervisor that stops a user strand marks the gang killed. `SPAWN` to an enabled device queue with a free slot writes bytes 8 to 63 of the record at `x[a]` into the slot of
ticket t under `TICKET` = t with bit 63 set, adds one to `TAIL`, and returns t; a queue that is disabled, not a device queue, or full
traps QUEUE with reason 1, 2 or 3. -/
def Obligations.StopEndsAndSpawnAppends : Prop :=
  (∀ s : State, s.Ready {} → s.Quiet → s.st.late = [] → s.st.bankErrs = [] → openTxns s none = false → s.st.linkErrs = [] →
    (∀ p ∈ s.slots, p.2.owner.map Prod.fst ≠ some s.st.owner) →
    ∃ t : State, exec .stop s = .next t.served ∧ (t.strandAt s.cur).run = .free ∧ (t.strandAt s.cur).x = [] ∧ (t.strandAt s.cur).lanes = 0
      ∧ (∀ c, c ≠ s.cur → t.strandAt c = s.strandAt c) ∧ t.mem = s.mem ∧ t.pk = s.pk
      ∧ ∀ gid g, gangOf s = some (gid, g) →
        let killed := if s.st.pl = 1 ∧ fld (s.st.stat 0x804) 2 2 = 0 then some (g.killed.getD ((s.st.cr 0x802).toNat % 256)) else g.killed
        let stopped := { g with killed := killed, stopped := setFld g.stopped s.st.rank 1 1 }
        Tab.find t.gangs gid = some (completePhase stopped) ∧
          ((∀ j, j < g.size → bitOf stopped.stopped j = true) → Task.completionWrite gid ∈ t.due)) ∧
  ∀ (s u w y : State) (d a : BitVec 5) (q : BitVec 6) (l : List (Xl × Nat)),
    let info : Info := { reads := [(.x, a.toNat)], dest := some (.x, d.toNat) }
    let va := (s.st.rx a).toNat
    let ac := Acc.load.forStrand (s.begun info)
    s.Ready info → s.Quiet → openBefore s s.st s.seqNow = false → va % 64 = 0 → xlate ac va 64 (s.begun info) = .ok l u →
    (enabledQueue u q.toNat = none → exec (.spawn d a q) s = .next (s.trapped u cQUEUE q.toNat 1)) ∧
    (∀ k, enabledQueue u q.toNat = some k → k.kind ≠ 1 → exec (.spawn d a q) s = .next (s.trapped u cQUEUE q.toNat 2)) ∧
    ∀ k v, enabledQueue u q.toNat = some k → k.kind = 1 → physReadFree u (k.base + 64 * (k.tail % 2 ^ k.logn)) 8 = (w, v) →
      (v ≠ k.tail → exec (.spawn d a q) s = .next (s.trapped w cQUEUE q.toNat 3)) ∧
      ∀ r, v = k.tail → k.tail < 2 ^ 63 → k.base % 64 = 0 → isDram (k.base + 64 * (k.tail % 2 ^ k.logn)) = true →
        readPieces ac.dom (splitPieces l) va w = .ok (.ok r) y →
        ∃ t, exec (.spawn d a q) s = .next t.served ∧ t.st = (y.gave d.toNat (BitVec.ofNat 64 k.tail)).st
          ∧ y.PutBytes (k.base + 64 * (k.tail % 2 ^ k.logn)) 64 (r / 2 ^ 64 * 2 ^ 64 + (k.tail + 2 ^ 63)) t
          ∧ Tab.find t.queues q.toNat = some { k with tail := k.tail + 1 } ∧ y.OthersKept t

/-- R85, R163: `TINV` removes the translations it names from every TLB and no other; with nothing outstanding in the package it changes
nothing else and goes on, and while a transaction is open that may have used one of them it waits: any, for `TINV_ALL`; for the two others one of
the address space named, whose page no TLB knows, or knows as one named (log 47). -/
def Obligations.TranslationsAreInvalidated : Prop :=
  ∀ (s : State) (d a : BitVec 5),
    (∀ p ∈ s.strands, p.2.loads = [] ∧ p.2.stores = [] ∧ p.2.bankQ = [] ∧ p.2.vq = []) → s.preempted = [] →
    (∀ g ∈ s.gangs, g.2.rest = []) → Tab.wf s.strands = true →
    let as := (s.st.rx d).toNat % 65536
    let va := (s.st.rx a).toNat % 2 ^ 55
    ∀ p ∈ [(Instr.tinvAll, ([] : List (RegKind × Nat)), fun (_ : TlbEntry) => true),
        (.tinvAs d, [(.x, d.toNat)], fun e => e.asid == as),
        (.tinvVa d a, [(.x, d.toNat), (.x, a.toNat)],
          fun e => e.asid == as && decide (e.base ≤ va) && decide (va < e.base + e.size))],
      s.Ready { reads := p.2.1, priv := true } →
      ((∀ x ∈ s.txns, x.done ≠ none) →
        ∃ t, exec p.1 s = .next t ∧ t.tlb = s.tlb.filter (fun e => !p.2.2 e)
          ∧ ({ s with tlb := t.tlb } : State).WentTo (s.st.pc + 4) t) ∧
      ∀ x ∈ s.txns, x.done = none →
        (p.1 = .tinvAll ∨ (txnSpace s x = some as ∧ ∀ e ∈ s.tlb, e.asid = as → e.base ≤ x.va → x.va < e.base + e.size → p.2.2 e = true)) →
        exec p.1 s = .next { s.begun { reads := p.2.1, priv := true } with tlb := s.tlb.filter (fun e => !p.2.2 e) }

/-- R44, R46, R155, R163, R223, R224: a supervisor instruction at user level traps PRIV with nothing done; so does an access to a
control register above the strand's level, and an access to a number that no register has traps ILL with reason 7. -/
def Obligations.PrivilegeIsChecked : Prop :=
  (∀ (s : State) (a b : BitVec 5), s.st.pl = 0 →
    ∀ p ∈ [(Instr.eret, ([] : List (RegKind × Nat))), (.tinvAll, []), (.tinvAs a, [(.x, a.toNat)]),
        (.tinvVa a b, [(.x, a.toNat), (.x, b.toNat)]), (.vsave a b, [(.x, a.toNat), (.x, b.toNat)]), (.vrst a, [(.x, a.toNat)])],
      prefixOk s.st.latch { reads := p.2, priv := true } = true →
      exec p.1 s = .next (s.trapped s cPRIV (wordOf p.1) 0)) ∧
  ∀ (s : State) (d a : BitVec 5) (c : BitVec 12),
    ∀ p ∈ [(Instr.crd d c, ([] : List (RegKind × Nat))), (.cwr d a c, [(.x, a.toNat)]), (.cset d a c, [(.x, a.toNat)]),
        (.cclr d a c, [(.x, a.toNat)])],
      let info : Info := { reads := p.2, dest := some (.x, d.toNat) }
      s.Ready info →
      ((0xC00 ≤ c.toNat ∧ s.st.pl.toNat < 2) ∨ (0x800 ≤ c.toNat ∧ s.st.pl = 0) →
        exec p.1 s = .next (s.trapped (s.begun info) cPRIV (wordOf p.1) 0)) ∧
      ((c.toNat < 0x800 ∨ (c.toNat < 0xC00 ∧ 1 ≤ s.st.pl.toNat) ∨ 2 ≤ s.st.pl.toNat) → crMap c.toNat = none →
        exec p.1 s = .next (s.trapped (s.begun info) cILL (wordOf p.1) 7))

/-- R164: `CRD`, `CWR`, `CSET` and `CCLR` on a register of the strand's level return its old value; a write presents `x[a]`, the old
value with the bits of `x[a]` set, or cleared, to the register's fields. -/
def Obligations.ControlRegistersAreReadAndWritten : Prop :=
  ∀ (s : State) (d a : BitVec 5) (c : BitVec 12),
    let n := c.toNat
    let v := (s.st.rx a).toNat
    let rs := [(RegKind.x, a.toNat)]
    s.Quiet → (n = 0x831 → s.ddrldBusy = none) →
    ∀ p ∈ [(Instr.crd d c, ([] : List (RegKind × Nat)), fun (_ : Nat) (u : State) => u),
        (.cwr d a c, rs, fun _ u => writeCr u n v v (some v)),
        (.cset d a c, rs, fun old u => writeCr u n (old ||| v) 0 none),
        (.cclr d a c, rs, fun old u => writeCr u n (old &&& (2 ^ 64 - 1 - v)) v none)],
      let info : Info := { reads := p.2.1, dest := some (.x, d.toNat) }
      s.Ready info → crCheck s.st.pl.toNat n = none →
      let at0 := s.begun info
      let old := readCr at0 n
      exec p.1 s = .next ((p.2.2 old.toNat (readEffect at0 n)).gave d.toNat old).served

/-- R8, R76, R129, R141, R198, R327, R374, R418, R428, R468, R473, R479: after a write, the bits of a register's RW fields read as written and its other bits as
before; a value outside a field's range is stored as the map says; RO registers do not change, and W1C flags clear where 1 is written. A write of `ICTL`
raises the requests for the island of `ISEL`, and one of `KEYTAB` the reading of the key table; each reads back once that is carried out. -/
def Obligations.RegistersReadBackTheirFields : Prop :=
  ∀ (s : State) (v : Nat), v < 2 ^ 64 →
    let back := fun (n : Nat) => (readCr (writeCr s n v v (some v)) n).toNat
    (∀ p ∈ [(0x104, bits 15 0), (0x105, bits 63 0), (0x108, bits 63 0), (0x290, bits 15 0), (0x3C1, bits 7 0), (0x400, bits 47 0),
        (0x401, bits 0 0 + bits 54 6), (0x402, bits 63 0), (0x403, bits 63 0), (0x404, bits 63 0), (0x405, bits 63 0), (0x407, bits 7 0), (0x441, bits 23 0), (0x801, bits 63 0), (0x802, bits 7 0), (0x803, bits 63 0),
        (0x805, bits 51 12), (0x806, bits 54 2), (0x807, bits 63 0), (0xC01, bits 63 0), (0xC05, bits 51 12), (0xC06, bits 54 2),
        (0x800, bits 7 0), (0x851, bits 63 0), (0x852, bits 63 0), (0x830, bits 51 16), (0x841, bits 51 16), (0x850, bits 51 16),
        (0x854, bits 6 0), (0x856, bits 51 16), (0x820, bits 5 0 + bits 51 12), (0x840, bits 0 0 + bits 51 16),
        (0x862, bits 0 0 + bits 51 16), (0xC11, bits 54 2)],
      ∀ i, i < 64 → bitOf (back p.1) i = if bitOf p.2 i then bitOf v i else bitOf (readCr s p.1).toNat i) ∧
    back 0x106 % 16 = (if v % 16 < 5 then v % 16 else 0) ∧
    back 0x107 % 8 = (if v % 8 < 5 then v % 8 else 0) ∧
    (∀ i, 3 ≤ i → i < 64 → bitOf (back 0x107) i = if bitOf (bits 4 3 + bits 13 8) i then bitOf v i else bitOf (readCr s 0x107).toNat i) ∧
    back 0x810 % 32 = min 16 (v % 32) ∧ back 0x810 / 65536 % 2 ^ 36 = v / 65536 % 2 ^ 36 ∧
    back 0x822 % 8192 = min 4096 (v % 8192) ∧ back 0x822 / 65536 % 2 ^ 36 = v / 65536 % 2 ^ 36 ∧
    back 0x860 % 128 = min 75 (v % 128) ∧
    back 0x408 % 65536 = v % 65536 ∧ back 0x842 % 256 = v % 256 ∧ fld (back 0x842) 8 5 = (if fld v 8 5 ≤ 16 then fld v 8 5 else 0) ∧
    (∀ n ∈ [0x804, 0xC04], fld (back n) 2 4 = fld v 2 4 ∧ back n % 4 = s.st.pl.toNat) ∧
    (writeCr s 0x861 v v (some v)).due = s.due ++ [.ictlReq (s.pkr 0x860).toNat (v % 4), .ictlOpp (s.pkr 0x860).toNat (fld v 4 2)] ∧
    (∀ i, i < 76 → (v % 4 = 0 → ictlWord (ictlReq i (v % 4) s) i % 4 = 0)
      ∧ (v % 4 = 3 → ictlWord (ictlReq i (v % 4) s) i % 4 = ictlWord s i % 4)
      ∧ (coreIsland i = true → fld (ictlWord (ictlOpp i (fld v 4 2) s) i) 4 2 = fld v 4 2)) ∧
    (∃ w, (writeCr s 0xC10 v v (some v)).due = s.due ++ [.keytabWrite w] ∧ (readCr (keytabWrite w s) 0xC10).toNat % 32 = min 16 (v % 32)
      ∧ (readCr (keytabWrite w s) 0xC10).toNat / 65536 % 2 ^ 36 = v / 65536 % 2 ^ 36) ∧
    back 0x853 % 2 ^ 40 = max (v % 2 ^ 40) 1000000 ∧
    back 0x291 % 256 = (if v % 256 = 0 then 1 else v % 256) ∧
    back 0x823 % 32 = max 10 (min 30 (v % 32)) ∧ fld (back 0x823) 8 3 = min 4 (fld v 8 3) ∧
    (∀ n ∈ [0x000, 0x001, 0x002, 0x003, 0x004, 0x005, 0x010, 0x011, 0x100, 0x101, 0x102, 0x103, 0x200, 0x201, 0x280, 0x28F, 0x292,
        0x10A, 0x10B, 0x380, 0x3C0, 0x3C2, 0x440, 0x838, 0x839, 0x83A, 0x83B], writeCr s n v v (some v) = s) ∧
    (∀ n, 0x300 ≤ n → n < 0x330 → writeCr s n v v (some v) = s) ∧
    ∀ i, i < 6 → bitOf (back 0x109) i = (bitOf (s.st.cr 0x109).toNat i && !bitOf v i)

/-! ### The vector queue (R18, R193 to R208, R219 to R222) -/

/-- R18, R167, R200, R219 to R253: the configuration, arithmetic, comparison, conversion, move, reduction and permutation instructions
enter the vector queue: the strand goes on, and the entry captures its operands, `VL`, `TL`, `VSTART` and the lent prefix; a scalar result is
awaited in the read queue. What they do is their event's matter (the model's `defer`, log 7). -/
def Obligations.VectorInstructionsEnterTheQueue : Prop :=
  ∀ (s : State) (d a b : BitVec 5) (h : BitVec 2) (m r : BitVec 3) (t q : BitVec 4) (u : BitVec 1),
    s.defer = true →
    ∀ p ∈ [([Instr.setmf d a, .setrm d a],
          ({ reads := [(.x, a.toNat)], dest := some (.x, d.toNat) } : Info), s.st.rx a, 0, true),
        ([Instr.vsave d a],
          { reads := [(.x, d.toNat), (.x, a.toNat)], priv := true }, s.st.rx d, s.st.rx a, true),
        ([Instr.vrst d],
          { reads := [(.x, d.toNat)], priv := true }, s.st.rx d, 0, true),
        ([Instr.vaddInt d a b m t, .vsubInt d a b m t, .vmulInt d a b m t, .vmulh d a b m t, .vminInt d a b m t,
          .vmaxInt d a b m t, .vsatadd d a b m t, .vsatsub d a b m t, .vshl d a b m t, .vshr d a b m t, .vsra d a b m t,
          .vand d a b m t, .vor d a b m t, .vxor d a b m t, .vaddFp d a b m t, .vsubFp d a b m t, .vmulFp d a b m t,
          .vdiv d a b m t, .vminFp d a b m t, .vmaxFp d a b m t, .vscale d a b m t],
          { reads := [(.v, a.toNat), (.v, b.toNat)], dest := some (.v, d.toNat), mask := some m.toNat }, 0, 0, false),
        ([Instr.vabsInt d a m t, .vnegInt d a m t, .vsqrt d a m t, .vrcp d a m t, .vrsq d a m t, .vabsFp d a m t,
          .vnegFp d a m t],
          { reads := [(.v, a.toNat)], dest := some (.v, d.toNat), mask := some m.toNat }, 0, 0, false),
        ([Instr.vfma d a b m t, .vfms d a b m t, .vfnma d a b m t],
          { reads := [(.v, d.toNat), (.v, a.toNat), (.v, b.toNat)], dest := some (.v, d.toNat), mask := some m.toNat }, 0, 0, false),
        ([Instr.vrnd d a m r t],
          { reads := [(.v, a.toNat)], dest := some (.v, d.toNat), mask := some r.toNat }, 0, 0, false),
        ([Instr.vcmpEq d a b m t, .vcmpNe d a b m t, .vcmpLt d a b m t, .vcmpLe d a b m t, .vcmpUn d a b m t],
          { reads := [(.v, a.toNat), (.v, b.toNat)], dest := some (.m, d.toNat), mask := some m.toNat }, 0, 0, false),
        ([Instr.vsel d a b m t],
          { reads := [(.v, a.toNat), (.v, b.toNat)], dest := some (.v, d.toNat), mask := some m.toNat }, 0, 0, false),
        ([Instr.mand d a b m, .mor d a b m, .mxor d a b m],
          { reads := [(.m, a.toNat), (.m, b.toNat)], dest := some (.m, d.toNat), mask := some m.toNat }, 0, 0, false),
        ([Instr.mnot d a m],
          { reads := [(.m, a.toNat)], dest := some (.m, d.toNat), mask := some m.toNat }, 0, 0, false),
        ([Instr.mset d m, .mclr d m],
          { dest := some (.m, d.toNat), mask := some m.toNat }, 0, 0, false),
        ([Instr.vpopc d a m, .vfirst d a m],
          { reads := [(.m, a.toNat)], dest := some (.x, d.toNat), mask := some m.toNat }, 0, 0, true),
        ([Instr.vcvt d a u t m q, .vfrac d a m t, .vclass d a m t, .vmvV d a m t],
          { reads := [(.v, a.toNat)], dest := some (.v, d.toNat), mask := some m.toNat }, 0, 0, false),
        ([Instr.vmvX d a m t],
          { reads := [(.x, a.toNat)], dest := some (.v, d.toNat), mask := some m.toNat }, s.st.rx a, 0, false),
        ([Instr.vid d m t],
          { dest := some (.v, d.toNat), mask := some m.toNat }, 0, 0, false),
        ([Instr.viota d a m t],
          { reads := [(.m, a.toNat)], dest := some (.v, d.toNat), mask := some m.toNat }, 0, 0, false),
        ([Instr.vredo d h m t, .vredt d h m t, .vredmax d h m t, .vredmin d h m t, .vredand d h m t, .vredor d h m t,
          .vredxor d h m t],
          { reads := [(.v, d.toNat)], mask := some m.toNat }, 0, 0, false),
        ([Instr.vscan d a h m t, .vscanx d a h m t, .vcompress d a m t, .vexpand d a m t],
          { reads := [(.v, a.toNat)], dest := some (.v, d.toNat), mask := some m.toNat }, 0, 0, false),
        ([Instr.vhrd d h t],
          { dest := some (.x, d.toNat) }, 0, 0, true),
        ([Instr.vhclr h],
          {}, 0, 0, true),
        ([Instr.vslideup d a b m t, .vslidedn d a b m t, .vreshape d a b m t],
          { reads := [(.v, a.toNat), (.x, b.toNat)], dest := some (.v, d.toNat), mask := some m.toNat }, s.st.rx b, 0, false),
        ([Instr.vperm d a b m t],
          { reads := [(.v, a.toNat), (.v, b.toNat)], dest := some (.v, d.toNat), mask := some m.toNat }, 0, 0, false),
        ([Instr.vmovx d a b t],
          { reads := [(.v, a.toNat), (.x, b.toNat)], dest := some (.x, d.toNat) }, s.st.rx b, 0, true),
        ([Instr.vins d a b m t],
          { reads := [(.x, a.toNat), (.x, b.toNat)], dest := some (.v, d.toNat), mask := some m.toNat }, s.st.rx a, s.st.rx b, true)],
      s.st.canCommit (takesRead s.st.latch p.2.1) = true → ∀ i ∈ p.1, s.Ready p.2.1 (wordOf i) →
        ∃ t, exec i s = .next t.served ∧ s.Queued i p.2.2.1 p.2.2.2.1 p.2.2.2.2 t ∧ s.Awaits p.2.1 t

/-- R18, R167, R200, R255 to R275, R286 to R290, R410 to R439: the memory, matrix, tap and sampler instructions enter the vector
queue with their base and their scalar operands; one that writes its base back awaits it in the read queue. What they do is their event's
matter (the model's `defer`, log 7). -/
def Obligations.MemoryAndMatrixInstructionsEnterTheQueue : Prop :=
  ∀ (s : State) (d a b : BitVec 5) (h : BitVec 2) (m : BitVec 3) (t : BitVec 4) (u f g : BitVec 1),
    s.defer = true →
    ∀ p ∈ [([Instr.vldUnit d a m u f g h, .vldConvert d a t m u f g h],
          ({ reads := [(.x, a.toNat)], dest := some (.v, d.toNat), mask := some m.toNat } : Info), s.st.rx a, 0, false),
        ([Instr.vldStrided d a b m u f g h],
          { reads := [(.x, a.toNat), (.x, b.toNat)], dest := some (.v, d.toNat), mask := some m.toNat }, s.st.rx a, s.st.rx b, false),
        ([Instr.vldIndexed d a b m u f g h],
          { reads := [(.x, a.toNat), (.v, b.toNat)], dest := some (.v, d.toNat), mask := some m.toNat }, s.st.rx a, 0, false),
        ([Instr.vldz d a u f h],
          { reads := [(.x, a.toNat)], dest := some (.v, d.toNat), back := some a.toNat }, s.st.rx a, 0, false),
        ([Instr.vlds d a],
          { dest := some (.v, d.toNat) }, 0, 0, false),
        ([Instr.vstUnit d a m u f h, .vstConvert d a t m u f h, .vcpst d a h m u],
          { reads := [(.v, d.toNat), (.x, a.toNat)], mask := some m.toNat }, s.st.rx a, 0, false),
        ([Instr.vstStrided d a b m u f h],
          { reads := [(.v, d.toNat), (.x, a.toNat), (.x, b.toNat)], mask := some m.toNat }, s.st.rx a, s.st.rx b, false),
        ([Instr.vstIndexed d a b m u f h],
          { reads := [(.v, d.toNat), (.x, a.toNat), (.v, b.toNat)], mask := some m.toNat }, s.st.rx a, 0, false),
        ([Instr.vstz d a u h],
          { reads := [(.v, d.toNat), (.x, a.toNat)], back := some a.toNat }, s.st.rx a, 0, false),
        ([Instr.vamoAdd d a b m h u, .vamoMax d a b m h u, .vamoMin d a b m h u],
          { reads := (.v, d.toNat) :: (.x, a.toNat) :: vamoReads h b, mask := some m.toNat }, s.st.rx a, vamoStride h b s.st, false),
        ([Instr.msetm d a],
          { reads := [(.x, d.toNat), (.x, a.toNat)] }, s.st.rx d, s.st.rx a, true),
        ([Instr.mzero h],
          {}, 0, 0, true),
        ([Instr.opacc h d a m t, .opsub h d a m t],
          { reads := [(.v, d.toNat), (.v, a.toNat)], mask := some m.toNat }, 0, 0, false),
        ([Instr.mextr h d a m t u, .mextc h d a m t u],
          { reads := [(.x, a.toNat)], mask := some m.toNat }, s.st.rx a, 0, false),
        ([Instr.mputr h d a m t],
          { reads := [(.v, d.toNat), (.x, a.toNat)], mask := some m.toNat }, s.st.rx a, 0, false),
        ([Instr.tap d a m t],
          { reads := [(.v, d.toNat), (.x, a.toNat)], mask := some m.toNat }, s.st.rx a, 0, false),
        ([Instr.tapend d],
          { reads := [(.x, d.toNat)] }, s.st.rx d, 0, true),
        ([Instr.tapsteer d a m t],
          { reads := [(.v, d.toNat), (.x, a.toNat)], dest := some (.v, d.toNat), mask := some m.toNat }, s.st.rx a, 0, false),
        ([Instr.urd d a t],
          { reads := [(.x, a.toNat)], dest := some (.x, d.toNat) }, s.st.rx a, 0, true),
        ([Instr.vurd d m t],
          { dest := some (.v, d.toNat), mask := some m.toNat }, 0, 0, false),
        ([Instr.vshort d a b m t],
          { reads := [(.v, a.toNat), (.x, b.toNat)], dest := some (.x, d.toNat), mask := some m.toNat }, s.st.rx b, 0, false),
        ([Instr.vaccept d a m],
          { reads := [(.x, a.toNat)], dest := some (.v, d.toNat), mask := some m.toNat }, s.st.rx a, 0, false),
        ([Instr.scommit d],
          { reads := [(.x, d.toNat)] }, s.st.rx d, 0, false)],
      s.st.canCommit (takesRead s.st.latch p.2.1) = true → ∀ i ∈ p.1, s.Ready p.2.1 (wordOf i) →
        ∃ t, exec i s = .next t.served ∧ s.Queued i p.2.2.1 p.2.2.2.1 p.2.2.2.2 t ∧ s.Awaits p.2.1 t

/-- R122, R198, R219, R221, R222: `SETVL` sets `VL` to the least of `x[a]`, `VLMAX` of its width and `VCEIL`, and `VLMAX.LW` to the width; `SETTL` sets
`TL` to at most 256; both return the value set. `VGRANT` of a strand with lanes returns their number. Their entries are complete at commit (the
model's `defer`, log 7). `VGRANT` of a strand without lanes that asks for none returns 0; one that waits alone is granted the lanes it asks for,
rounded up to eight and at most 64, from the granules that can be granted, with `VL` = 0 and zeroed vector registers: the free and stale granules in the order of log 13, which is the model's choice. Entries that were committed
without lanes trap before lanes come (log 65): none is queued here. `VREL` without lanes goes
on; with lanes it enters the vector queue (the model's `defer`, log 7). -/
def Obligations.LengthsAndLanesAreSet : Prop :=
  (∀ (s : State) (d a : BitVec 5) (t : BitVec 4), s.st.lanes ≠ 0 → s.defer = true → s.st.canCommit false = true →
    let lw := typeLog2 t.toNat
    let n := s.st.lanes * 256 / 2 ^ lw
    let ceil := (s.st.cr 0x10A).toNat % 65536
    let x := (s.st.rx a).toNat
    let vl := min x (if ceil = 0 then n else min n ceil)
    ∀ p ∈ [(Instr.setvl d a t, vl, [(0x100, vl), (0x101, lw * 2 ^ 16)]), (.settl d a, min x 256, [(0x102, min x 256)]),
        (.vgrant d a, s.st.lanes, [])],
      s.Ready (infoDA d a) (wordOf p.1) →
      ∃ u : State, exec p.1 s = .next u.served ∧ s.OnlyStrand u ∧ u.st.pc = s.st.pc + 4 ∧ u.st.latch = 0 ∧ u.st.vstart = 0
        ∧ (∀ r, u.st.xr r = if r ≠ 0 ∧ (r = d.toNat ∨ s.st.copies r = true) then BitVec.ofNat 64 p.2.1 else s.st.xr r)
        ∧ (∀ q ∈ p.2.2, u.st.cr q.1 = BitVec.ofNat 64 q.2)
        ∧ (∀ k, k ≠ 0x104 → k ≠ 0x441 → (∀ q ∈ p.2.2, k ≠ q.1) → u.st.cr k = s.st.cr k)
        ∧ (∃ e, u.st.vq = s.st.vq ++ [e] ∧ e.addr = s.st.pc.toNat ∧ encode p.1 = some e.word ∧ e.finished = true)
        ∧ u.st.readQ = s.st.readQ ∧ u.st.lanes = s.st.lanes
        ∧ u.st.v = s.st.v ∧ u.st.m = s.st.m ∧ u.st.h = s.st.h ∧ u.st.tiles = s.st.tiles) ∧
  (∀ (s : State) (d a : BitVec 5), s.Ready (infoDA d a) (wordOf (.vgrant d a)) → s.st.lanes = 0 →
    let n := (s.st.rx a).toNat
    let cl := clusterOf s.cur
    let k := min 64 ((n + 7) / 8 * 8)
    let got := (grantable s cl).take (k / 8)
    (n = 0 → ∃ t, exec (.vgrant d a) s = .next t.served ∧ s.Wrote d.toNat 0 t) ∧
    (n ≠ 0 → s.st.want = none → s.st.vq = [] → waiters s cl = [] → k / 8 ≤ (grantable s cl).length →
      ∃ t : State, exec (.vgrant d a) s = .next t.served ∧ t.st.lanes = k ∧ t.st.want = none ∧ t.st.vl = 0 ∧ t.st.v = [] ∧ t.st.m = []
        ∧ t.st.h = [] ∧ t.st.pc = s.st.pc + 4 ∧ t.st.latch = 0
        ∧ (∀ r, t.st.xr r = if r ≠ 0 ∧ (r = d.toNat ∨ s.st.copies r = true) then BitVec.ofNat 64 k else s.st.xr r)
        ∧ (∀ c, c ≠ 0x100 → c ≠ 0x101 → c ≠ 0x441 → t.st.cr c = s.st.cr c)
        ∧ (∀ g, g < 8 → t.gran cl g =
            if g ∈ got then
              (match s.gran cl g with
                | .stale p => if p = s.st.owner then .held s.st.owner else .lent s.st.owner p
                | _ => .held s.st.owner)
            else s.gran cl g)
        ∧ (∀ c, c ≠ s.cur → t.strandAt c = s.strandAt c) ∧ t.mem = s.mem ∧ t.pk = s.pk)) ∧
  ∀ s : State, s.Ready {} (wordOf .vrel) →
    (s.st.lanes = 0 → s.st.vq = [] → ∃ t, exec .vrel s = .next t.served ∧ s.WentTo (s.st.pc + 4) t) ∧
    (s.st.lanes ≠ 0 → s.defer = true → s.st.canCommit false = true →
      ∃ t, exec .vrel s = .next t.served ∧ s.Queued .vrel 0 0 true t ∧ s.Awaits {} t)


/-- R18, R130, R167, R200, R219, R220, R226, R259: an instruction of the vector queue, `SETVL`, `SETTL` and `VREL` with lanes among them, that meets a
full vector queue, a full read queue that it needs, or an entry that sets its count or the configuration and has not yet done so, does not issue. Without
lanes, an entry traps VGRANT at the head with its word in `EVAL` and nothing of it done, and `SETVL` and `SETTL`, which act at their commit, trap then (which of the
two takes it where is read from R219 and R226: log 30). -/
def Obligations.VectorInstructionsWaitOrTrap : Prop :=
  (∀ (s : State) (d a b : BitVec 5) (h : BitVec 2) (m r : BitVec 3) (t q : BitVec 4) (u f g : BitVec 1),
    ∀ p ∈ [([Instr.setmf d a, .setrm d a],
          ({ reads := [(.x, a.toNat)], dest := some (.x, d.toNat) } : Info)),
        ([.vsave d a],
          { reads := [(.x, d.toNat), (.x, a.toNat)], priv := true }),
        ([.vrst d],
          { reads := [(.x, d.toNat)], priv := true }),
        ([.vaddInt d a b m t, .vsubInt d a b m t, .vmulInt d a b m t, .vmulh d a b m t, .vminInt d a b m t, .vmaxInt d a b m t,
          .vsatadd d a b m t, .vsatsub d a b m t, .vshl d a b m t, .vshr d a b m t, .vsra d a b m t, .vand d a b m t, .vor d a b m t,
          .vxor d a b m t, .vaddFp d a b m t, .vsubFp d a b m t, .vmulFp d a b m t, .vdiv d a b m t, .vminFp d a b m t, .vmaxFp d a b m t,
          .vscale d a b m t],
          { reads := [(.v, a.toNat), (.v, b.toNat)], dest := some (.v, d.toNat), mask := some m.toNat }),
        ([.vabsInt d a m t, .vnegInt d a m t, .vsqrt d a m t, .vrcp d a m t, .vrsq d a m t, .vabsFp d a m t, .vnegFp d a m t],
          { reads := [(.v, a.toNat)], dest := some (.v, d.toNat), mask := some m.toNat }),
        ([.vfma d a b m t, .vfms d a b m t, .vfnma d a b m t],
          { reads := [(.v, d.toNat), (.v, a.toNat), (.v, b.toNat)], dest := some (.v, d.toNat), mask := some m.toNat }),
        ([.vrnd d a m r t],
          { reads := [(.v, a.toNat)], dest := some (.v, d.toNat), mask := some r.toNat }),
        ([.vcmpEq d a b m t, .vcmpNe d a b m t, .vcmpLt d a b m t, .vcmpLe d a b m t, .vcmpUn d a b m t],
          { reads := [(.v, a.toNat), (.v, b.toNat)], dest := some (.m, d.toNat), mask := some m.toNat }),
        ([.vsel d a b m t],
          { reads := [(.v, a.toNat), (.v, b.toNat)], dest := some (.v, d.toNat), mask := some m.toNat }),
        ([.mand d a b m, .mor d a b m, .mxor d a b m],
          { reads := [(.m, a.toNat), (.m, b.toNat)], dest := some (.m, d.toNat), mask := some m.toNat }),
        ([.mnot d a m],
          { reads := [(.m, a.toNat)], dest := some (.m, d.toNat), mask := some m.toNat }),
        ([.mset d m, .mclr d m],
          { dest := some (.m, d.toNat), mask := some m.toNat }),
        ([.vpopc d a m, .vfirst d a m],
          { reads := [(.m, a.toNat)], dest := some (.x, d.toNat), mask := some m.toNat }),
        ([.vcvt d a u t m q, .vfrac d a m t, .vclass d a m t, .vmvV d a m t],
          { reads := [(.v, a.toNat)], dest := some (.v, d.toNat), mask := some m.toNat }),
        ([.vmvX d a m t],
          { reads := [(.x, a.toNat)], dest := some (.v, d.toNat), mask := some m.toNat }),
        ([.vid d m t],
          { dest := some (.v, d.toNat), mask := some m.toNat }),
        ([.viota d a m t],
          { reads := [(.m, a.toNat)], dest := some (.v, d.toNat), mask := some m.toNat }),
        ([.vredo d h m t, .vredt d h m t, .vredmax d h m t, .vredmin d h m t, .vredand d h m t, .vredor d h m t, .vredxor d h m t],
          { reads := [(.v, d.toNat)], mask := some m.toNat }),
        ([.vscan d a h m t, .vscanx d a h m t, .vcompress d a m t, .vexpand d a m t],
          { reads := [(.v, a.toNat)], dest := some (.v, d.toNat), mask := some m.toNat }),
        ([.vhrd d h t],
          { dest := some (.x, d.toNat) }),
        ([.vhclr h],
          {}),
        ([.vslideup d a b m t, .vslidedn d a b m t, .vreshape d a b m t],
          { reads := [(.v, a.toNat), (.x, b.toNat)], dest := some (.v, d.toNat), mask := some m.toNat }),
        ([.vperm d a b m t],
          { reads := [(.v, a.toNat), (.v, b.toNat)], dest := some (.v, d.toNat), mask := some m.toNat }),
        ([.vmovx d a b t],
          { reads := [(.v, a.toNat), (.x, b.toNat)], dest := some (.x, d.toNat) }),
        ([.vins d a b m t],
          { reads := [(.x, a.toNat), (.x, b.toNat)], dest := some (.v, d.toNat), mask := some m.toNat }),
        ([.vldUnit d a m u f g h, .vldConvert d a t m u f g h],
          { reads := [(.x, a.toNat)], dest := some (.v, d.toNat), mask := some m.toNat }),
        ([.vldStrided d a b m u f g h],
          { reads := [(.x, a.toNat), (.x, b.toNat)], dest := some (.v, d.toNat), mask := some m.toNat }),
        ([.vldIndexed d a b m u f g h],
          { reads := [(.x, a.toNat), (.v, b.toNat)], dest := some (.v, d.toNat), mask := some m.toNat }),
        ([.vldz d a u f h],
          { reads := [(.x, a.toNat)], dest := some (.v, d.toNat), back := some a.toNat }),
        ([.vlds d a],
          { dest := some (.v, d.toNat) }),
        ([.vstUnit d a m u f h, .vstConvert d a t m u f h, .vcpst d a h m u],
          { reads := [(.v, d.toNat), (.x, a.toNat)], mask := some m.toNat }),
        ([.vstStrided d a b m u f h],
          { reads := [(.v, d.toNat), (.x, a.toNat), (.x, b.toNat)], mask := some m.toNat }),
        ([.vstIndexed d a b m u f h],
          { reads := [(.v, d.toNat), (.x, a.toNat), (.v, b.toNat)], mask := some m.toNat }),
        ([.vstz d a u h],
          { reads := [(.v, d.toNat), (.x, a.toNat)], back := some a.toNat }),
        ([.vamoAdd d a b m h u, .vamoMax d a b m h u, .vamoMin d a b m h u],
          { reads := (.v, d.toNat) :: (.x, a.toNat) :: vamoReads h b, mask := some m.toNat }),
        ([.msetm d a],
          { reads := [(.x, d.toNat), (.x, a.toNat)] }),
        ([.mzero h],
          {}),
        ([.opacc h d a m t, .opsub h d a m t],
          { reads := [(.v, d.toNat), (.v, a.toNat)], mask := some m.toNat }),
        ([.mextr h d a m t u, .mextc h d a m t u],
          { reads := [(.x, a.toNat)], mask := some m.toNat }),
        ([.mputr h d a m t],
          { reads := [(.v, d.toNat), (.x, a.toNat)], mask := some m.toNat }),
        ([.tap d a m t],
          { reads := [(.v, d.toNat), (.x, a.toNat)], mask := some m.toNat }),
        ([.tapend d],
          { reads := [(.x, d.toNat)] }),
        ([.tapsteer d a m t],
          { reads := [(.v, d.toNat), (.x, a.toNat)], dest := some (.v, d.toNat), mask := some m.toNat }),
        ([.urd d a t],
          { reads := [(.x, a.toNat)], dest := some (.x, d.toNat) }),
        ([.vurd d m t],
          { dest := some (.v, d.toNat), mask := some m.toNat }),
        ([.vshort d a b m t],
          { reads := [(.v, a.toNat), (.x, b.toNat)], dest := some (.x, d.toNat), mask := some m.toNat }),
        ([.vaccept d a m],
          { reads := [(.x, a.toNat)], dest := some (.v, d.toNat), mask := some m.toNat }),
        ([.scommit d],
          { reads := [(.x, d.toNat)] })],
      ∀ i ∈ p.1, s.Ready p.2 (wordOf i) →
        (32 ≤ s.st.vq.length ∨ (takesRead s.st.latch p.2 = true ∧ 8 ≤ s.st.readQ.length)
          ∨ (∃ e ∈ s.st.vq, e.countOpen = true ∨ e.blocks = true)) →
        exec i s = .next (s.begun p.2)) ∧
  (∀ (s : State) (d a : BitVec 5) (t : BitVec 4), s.st.lanes ≠ 0 →
    (32 ≤ s.st.vq.length ∨ ∃ e ∈ s.st.vq, e.countOpen = true ∨ e.blocks = true) →
    (∀ i ∈ [Instr.setvl d a t, .settl d a, .vgrant d a], s.Ready (infoDA d a) (wordOf i) → exec i s = .next (s.begun (infoDA d a))) ∧
    (s.Ready {} (wordOf .vrel) → exec .vrel s = .next (s.begun {}))) ∧
  (∀ (s : State) (d a : BitVec 5) (t : BitVec 4), s.st.lanes = 0 → ∀ i ∈ [Instr.setvl d a t, .settl d a],
    s.Ready (infoDA d a) (wordOf i) → exec i s = .next (s.trapped (s.begun (infoDA d a)) cVGRANT (wordOf i) 0)) ∧
  ∀ (s : State) (c : BitVec 8) (n : BitVec 16) (k : BitVec 5) (i : Instr) (e : VEntry) (q : List VEntry),
    let b := { s with cur := c.toNat }
    b.st.vq = e :: q → e.finished = false → decode e.word = .ok i → (vopOf e i).isSome = true → b.st.lanes = 0 →
    exec (.vqGroupWrite c ⟨0, n, k⟩) s = .next { trapOr b (b.setSt b.st)
      { cause := cVGRANT, eval := e.word.toNat, entry := some e.addr } with cur := s.cur }

/-- R58, R193, R194, R201, R231, R232, R238: the next element group of an integer instruction, a move or a sign change at the head of a vector queue becomes visible in its
destination, and in the lent copy, where its elements are active; every other element, and an inactive one, stays. The progress index moves to
the end of the group. With its last element the entry is complete. -/
def Obligations.IntegerElementsAreComputed : Prop :=
  ∀ (s : State) (c : BitVec 8) (e : VEntry) (q : List VEntry) (d a b : BitVec 5) (m : BitVec 3) (t : BitVec 4),
    let st := s.strandAt c.toNat
    let w := 2 ^ typeLog2 t.toNat
    let z := 8 * w
    let n := min e.vl (st.lanes * 256 / w)
    let g := max 1 (32 / w)
    let stop := min ((e.p / g + 1) * g) n
    let x := fun k => asInt t.toNat (st.velem a.toNat w k)
    let y := fun k => asInt t.toNat (st.velem b.toNat w k)
    let bx := fun k => st.velem a.toNat w k
    let bv := fun k => st.velem b.toNat w k
    let lo := if isSigned t.toNat then -(2 ^ (z - 1) : Int) else 0
    let hi := if isSigned t.toNat then (2 ^ (z - 1) - 1 : Int) else 2 ^ z - 1
    let active := fun k => if latchV e.lent = true ∧ latchMask e.lent ≠ 0 then st.mbit (latchMask e.lent) k != latchInv e.lent
      else st.mbit m.toNat k
    st.vq = e :: q → e.finished = false → e.flags % 64 = 0 → st.lanes ≠ 0 → st.lanes ≤ 64 → e.p < n →
    (∀ g ∈ s.granulesOf (clusterOf c.toNat) st.owner, ∃ o, g.2 = .held o) →
    ∀ p ∈ [(Instr.vaddInt d a b m t, fun k => x k + y k), (.vsubInt d a b m t, fun k => x k - y k),
        (.vmulInt d a b m t, fun k => x k * y k), (.vmulh d a b m t, fun k => x k * y k / 2 ^ z),
        (.vminInt d a b m t, fun k => min (x k) (y k)), (.vmaxInt d a b m t, fun k => max (x k) (y k)),
        (.vsatadd d a b m t, fun k => max lo (min hi (x k + y k))), (.vsatsub d a b m t, fun k => max lo (min hi (x k - y k))),
        (.vshl d a b m t, fun k => (bx k : Int) * 2 ^ (bv k % z)), (.vshr d a b m t, fun k => (bx k : Int) / 2 ^ (bv k % z)),
        (.vsra d a b m t, fun k => toSigned z (bx k) / 2 ^ (bv k % z)), (.vand d a b m t, fun k => ((bx k &&& bv k : Nat) : Int)),
        (.vor d a b m t, fun k => ((bx k ||| bv k : Nat) : Int)), (.vxor d a b m t, fun k => ((bx k ^^^ bv k : Nat) : Int)),
        (.vabsInt d a m t, fun k => if x k < 0 then -x k else x k), (.vnegInt d a m t, fun k => -x k),
        (.vmvV d a m t, fun k => (bx k : Int)), (.vmvX d a m t, fun _ => (e.op1.toNat : Int)), (.vid d m t, fun k => ((st.ebase + k : Nat) : Int)),
        (.vabsFp d a m t, fun k => ((bx k % 2 ^ (z - 1) : Nat) : Int)), (.vnegFp d a m t, fun k => ((bx k + 2 ^ (z - 1) : Nat) : Int)),
        (.viota d a m t, fun k => (((List.range k).countP (fun j => st.mbit a.toNat j) : Nat) : Int))],
      decode e.word = .ok p.1 →
      ∃ u, exec (.vqGroupWrite c ⟨0, 1, 0⟩) s = .next u ∧
        let ut := u.strandAt c.toNat
        (∀ r k, ut.velem r w k =
            if e.p ≤ k ∧ k < stop ∧ active k = true ∧ (r = d.toNat ∨ (latchV e.lent = true ∧ latchDup e.lent = true ∧ r = latchCopy e.lent))
            then (p.2 k % 2 ^ z).toNat else st.velem r w k)
        ∧ ut.vq = (if n ≤ stop then { e with p := stop, finished := true, pages := [], faultAt := none, blks := [] }
            else { e with p := stop }) :: q
        ∧ (∀ k, k ≠ 0x109 → ut.cr k = st.cr k) ∧ ut.fflags = st.fflags ∧ ut.x = st.x ∧ ut.m = st.m ∧ ut.h = st.h ∧ ut.tiles = st.tiles
        ∧ ut.pc = st.pc ∧ ut.latch = st.latch ∧ (∀ j, j ≠ c.toNat → u.strandAt j = s.strandAt j) ∧ u.cur = s.cur ∧ u.mem = s.mem
        ∧ u.lines = s.lines ∧ u.pk = s.pk

/-- R58, R194, R195, R201, R214, R228, R232, R235, R237, R249, R251 to R253: the next element group of a comparison of integers or of a mask
operation at the head of a vector queue writes its mask bits; that of a floating-point sum, difference or product of finite values
writes the exact result, rounded once under `RM` (the sign of a zero is not spoken of); that of a permutation writes the elements that it names;
`VPOPC`, `VFIRST` and `VMOVX` give their result to the read queue. -/
def Obligations.VectorElementsAreComputed : Prop :=
  ∀ (s : State) (c : BitVec 8) (e : VEntry) (q : List VEntry) (d a b : BitVec 5) (m : BitVec 3) (t : BitVec 4),
    let st := s.strandAt c.toNat
    let w := 2 ^ typeLog2 t.toNat
    let z := 8 * w
    let n := min e.vl (st.lanes * 256 / w)
    let g := max 1 (32 / w)
    let stop := min ((e.p / g + 1) * g) n
    let rows := min ((e.p / 256 + 1) * 256) e.vl
    let active := fun k => if latchV e.lent = true ∧ latchMask e.lent ≠ 0 then st.mbit (latchMask e.lent) k != latchInv e.lent
      else st.mbit m.toNat k
    let dup := latchV e.lent = true ∧ latchDup e.lent = true
    let x := fun k => asInt t.toNat (st.velem a.toNat w k)
    let y := fun k => asInt t.toNat (st.velem b.toNat w k)
    let num := fun (v : FVal) (sc : Nat) => match v with
      | .fin neg k ex => (if neg then -1 else 1) * (k : Int) * 2 ^ (ex + sc).toNat
      | _ => 0
    let f := fun (r : BitVec 5) k => decodeF (fmtOf t.toNat) (st.velem r.toNat w k)
    let front := fun (u : State) (p : Nat) (fin : Bool) => (u.strandAt c.toNat).vq
      = (if fin then { e with p := p, finished := true, pages := [], faultAt := none, blks := [] } else { e with p := p }) :: q
    st.vq = e :: q → e.finished = false → e.flags % 64 = 0 → st.lanes ≠ 0 → st.lanes ≤ 64 →
    (∀ g ∈ s.granulesOf (clusterOf c.toNat) st.owner, ∃ o, g.2 = .held o) →
    (∀ p ∈ [([(Instr.vcmpEq d a b m t, fun k => decide (x k = y k)), (.vcmpNe d a b m t, fun k => decide (x k ≠ y k)),
            (.vcmpLt d a b m t, fun k => decide (x k < y k)), (.vcmpLe d a b m t, fun k => decide (x k ≤ y k))], n, stop),
          ([(.mand d a b m, fun k => st.mbit a.toNat k && st.mbit b.toNat k), (.mor d a b m, fun k => st.mbit a.toNat k || st.mbit b.toNat k),
            (.mxor d a b m, fun k => st.mbit a.toNat k != st.mbit b.toNat k), (.mnot d a m, fun k => !st.mbit a.toNat k),
            (.mset d m, fun _ => true), (.mclr d m, fun _ => false)], e.vl, rows)],
      e.p < p.2.1 → p.2.1 ≤ 16384 → ∀ i ∈ p.1, decode e.word = .ok i.1 → isFloat t.toNat = false →
      ∃ u, exec (.vqGroupWrite c ⟨0, 1, 0⟩) s = .next u ∧ front u p.2.2 (decide (p.2.1 ≤ p.2.2))
        ∧ (∀ r k, (u.strandAt c.toNat).mbit r k =
            if e.p ≤ k ∧ k < p.2.2 ∧ active k = true ∧ r ≠ 0 ∧ (r = d.toNat ∨ (dup ∧ r = latchCopy e.lent)) then i.2 k else st.mbit r k)
        ∧ (u.strandAt c.toNat).v = st.v ∧ (u.strandAt c.toNat).x = st.x ∧ (∀ j, j ≠ c.toNat → u.strandAt j = s.strandAt j) ∧ u.mem = s.mem) ∧
    (e.p < n → st.trapEnable = 0 → isFloat t.toNat = true →
      (∀ r ∈ [a, b], ∀ k, e.p ≤ k → k < stop → ∃ neg i ex, f r k = .fin neg i ex) →
      ∀ p ∈ [(Instr.vaddFp d a b m t, fun (sc : Nat) (x y : Int) => (x + y) * 2 ^ sc), (.vsubFp d a b m t, fun sc x y => (x - y) * 2 ^ sc),
          (.vmulFp d a b m t, fun _ x y => x * y)],
      decode e.word = .ok p.1 →
      ∃ u, exec (.vqGroupWrite c ⟨0, 1, 0⟩) s = .next u ∧ front u stop (decide (n ≤ stop))
        ∧ (∀ k, e.p ≤ k → k < stop → active k = true →
            ∃ neg i ex, let r := FVal.fin neg i ex
              (∀ sc : Nat, 2200 ≤ sc → num r sc * 2 ^ sc = p.2 sc (num (f a k) sc) (num (f b k) sc))
              ∧ (u.strandAt c.toNat).velem d.toNat w k = (roundTo (fmtOf t.toNat) (rmRnd st e (st.ebase + k)) false r).1)
        ∧ (∀ r k, ¬(e.p ≤ k ∧ k < stop ∧ active k = true ∧ (r = d.toNat ∨ (dup ∧ r = latchCopy e.lent))) →
            (u.strandAt c.toNat).velem r w k = st.velem r w k)
        ∧ (u.strandAt c.toNat).x = st.x ∧ (u.strandAt c.toNat).m = st.m ∧ (∀ j, j ≠ c.toNat → u.strandAt j = s.strandAt j) ∧ u.mem = s.mem) ∧
    (e.p < n → ¬dup → d ≠ a → d ≠ b →
      let top := st.lanes * 256 / w
      let k0 := e.op1.toNat
      let el := fun k => st.velem a.toNat w k
      let rc := n / k0
      ∀ p ∈ [(Instr.vperm d a b m t, fun k => if st.velem b.toNat w k < top then el (st.velem b.toNat w k) else 0),
          (.vslideup d a b m t, fun k => if k0 ≤ k then el (k - k0) else st.velem d.toNat w k),
          (.vslidedn d a b m t, fun k => if k + k0 < top then el (k + k0) else 0),
          (.vreshape d a b m t, fun k => if k0 = 0 ∨ n ≤ k0 ∨ rc * k0 ≤ k then el k else el (k % rc * k0 + k / rc)),
          (.vexpand d a m t, fun k => el ((List.range k).countP active))],
      decode e.word = .ok p.1 →
      ∃ u, exec (.vqGroupWrite c ⟨0, 1, 0⟩) s = .next u ∧ front u stop (decide (n ≤ stop))
        ∧ (∀ r k, (u.strandAt c.toNat).velem r w k =
            if e.p ≤ k ∧ k < stop ∧ active k = true ∧ r = d.toNat then p.2 k else st.velem r w k)
        ∧ (u.strandAt c.toNat).x = st.x ∧ (u.strandAt c.toNat).m = st.m ∧ (∀ j, j ≠ c.toNat → u.strandAt j = s.strandAt j) ∧ u.mem = s.mem) ∧
    (e.p = 0 → s.defer = true →
      let counts := fun k => decide (e.vstart ≤ k) && active k && st.mbit a.toNat k
      let k0 := e.op1.toNat
      ∀ p ∈ [(Instr.vpopc d a m, fun (v : Dword) => v = BitVec.ofNat 64 ((List.range e.vl).countP counts)),
          (.vfirst d a m, fun v => (∀ k, k < e.vl → counts k = true → (∀ j, j < k → counts j = false) → v = BitVec.ofNat 64 k)
            ∧ ((∀ k, k < e.vl → counts k = false) → v = BitVec.allOnes 64)),
          (.vmovx d a b t, fun v => v = if k0 < n then
              (if isSigned t.toNat then BitVec.ofInt 64 (toSigned z (st.velem a.toNat w k0)) else BitVec.ofNat 64 (st.velem a.toNat w k0))
            else 0)],
      decode e.word = .ok p.1 →
      ∃ u v, exec (.vqGroupWrite c ⟨0, 1, 0⟩) s = .next u ∧ front u 1 true ∧ p.2 v
        ∧ (u.strandAt c.toNat).readQ = st.readQ.map (fun r => if r.src = e.seq ∧ r.val = none then { r with val := some v } else r)
        ∧ (u.strandAt c.toNat).v = st.v ∧ (u.strandAt c.toNat).x = st.x ∧ (u.strandAt c.toNat).m = st.m
        ∧ (∀ j, j ≠ c.toNat → u.strandAt j = s.strandAt j) ∧ u.mem = s.mem)

/-- R242, R245, R246: the next element group of an integer reduction at the head of a vector queue combines its active elements into
slot 0 of its hold register, and moves `NEXT` on; that of a scan writes the running sums. R260, R275: an element of `VLD` reads
its bytes, one of `VST` writes them, and one of `VAMO` its new value. R286 to R290: a depth step of `OPACC` or `OPSUB` on an exact tile adds or takes off
the products of integers; `MPUTR` puts an integer into such a tile, and `MEXTR` takes one out; `MZERO` zeroes its tile. R412, R432 to R434: `TAPEND`
whose probes are not crossed counts every live row, and otherwise traps SEQTRAP; `URD` and `VURD` give the uniforms that they read. -/
def Obligations.EntriesActOnTheirUnits : Prop :=
  (∀ (s : State) (c : BitVec 8) (e : VEntry) (q : List VEntry) (d a : BitVec 5) (h : BitVec 2) (m : BitVec 3) (t : BitVec 4) (v0 : Nat),
    let st := s.strandAt c.toNat
    let w := 2 ^ typeLog2 t.toNat
    let n := min e.vl (st.lanes * 256 / w)
    let g := max 1 (32 / w)
    let stop := min ((e.p / g + 1) * g) n
    let active := fun k => if latchV e.lent = true ∧ latchMask e.lent ≠ 0 then st.mbit (latchMask e.lent) k != latchInv e.lent
      else st.mbit m.toNat k
    let leaf := fun r k => (asInt t.toNat (st.velem r w k) % 2 ^ 64).toNat
    let mine := fun (r : Nat) (k : Nat) => ((List.range k).filter (fun j => decide (e.p ≤ j) && active j)).map (leaf r)
    let le := fun (x y : Nat) => if isSigned t.toNat then decide (toSigned 64 x ≤ toSigned 64 y) else decide (x ≤ y)
    let hold := st.hold h.toNat
    st.vq = e :: q → e.finished = false → e.flags % 64 = 0 → st.lanes ≠ 0 → st.lanes ≤ 64 → e.p < n → isFloat t.toNat = false →
    (∀ g ∈ s.granulesOf (clusterOf c.toNat) st.owner, ∃ o, g.2 = .held o) →
    hold.type = t.toNat → hold.next = (st.ebase + e.p) % 2 ^ 64 → hold.slot 0 = some v0 →
    (∀ p ∈ [(Instr.vredo d h m t, 1, fun (x y : Nat) => (x + y) % 2 ^ 64), (.vredmax d h m t, 3, fun x y => if le x y then y else x),
        (.vredmin d h m t, 4, fun x y => if le x y then x else y), (.vredand d h m t, 5, fun x y => x &&& y),
        (.vredor d h m t, 6, fun x y => x ||| y), (.vredxor d h m t, 7, fun x y => x ^^^ y)],
      decode e.word = .ok p.1 → hold.ord = p.2.1 →
      ∃ u, exec (.vqGroupWrite c ⟨0, 1, 0⟩) s = .next u
        ∧ ((u.strandAt c.toNat).hold h.toNat).slot 0 = some ((mine d.toNat stop).foldl p.2.2 v0)
        ∧ ((u.strandAt c.toNat).hold h.toNat).next = (st.ebase + stop) % 2 ^ 64
        ∧ (u.strandAt c.toNat).v = st.v ∧ (u.strandAt c.toNat).m = st.m ∧ (∀ j, j ≠ c.toNat → u.strandAt j = s.strandAt j)) ∧
    (d ≠ a → ¬(latchV e.lent = true ∧ latchDup e.lent = true) →
      ∀ p ∈ [(Instr.vscan d a h m t, 8, 1), (.vscanx d a h m t, 9, 0)], decode e.word = .ok p.1 → hold.ord = p.2.1 →
      ∃ u, exec (.vqGroupWrite c ⟨0, 1, 0⟩) s = .next u
        ∧ (∀ r k, (u.strandAt c.toNat).velem r w k =
            if e.p ≤ k ∧ k < stop ∧ active k = true ∧ r = d.toNat then (v0 + (mine a.toNat (k + p.2.2)).sum) % 2 ^ (8 * w) else st.velem r w k)
        ∧ ((u.strandAt c.toNat).hold h.toNat).slot 0 = some ((mine a.toNat stop).foldl (fun x y => (x + y) % 2 ^ 64) v0)
        ∧ ((u.strandAt c.toNat).hold h.toNat).next = (st.ebase + stop) % 2 ^ 64)) ∧
  (∀ (s v : State) (e : VEntry) (q : List VEntry) (d a b : BitVec 5) (h : BitVec 2) (m : BitVec 3) (u f g : BitVec 1) (p : Nat) (x : Xl),
    s.st.vq = e :: q → v.st.loads = [] → v.st.stores = [] → (∀ k ∈ v.txns, k.late = none) →
    x.place = .home → isDram x.pa = true → v.goodAt .home x.pa = true →
    let w := 2 ^ h.toNat
    let at_ := fun (o : Int) => (((e.op1.toNat : Int) + o) % 2 ^ 64).toNat
    (x.pa % w = 0 →
      ∀ i ∈ [(((p * w : Nat) : Int), Instr.vldUnit d a m u f g h, Instr.vstUnit d a m u g h),
          ((p : Int) * e.op2.toInt, .vldStrided d a b m u f g h, .vstStrided d a b m u g h),
          (toSigned (8 * w) (s.st.velem b.toNat w p), .vldIndexed d a b m u f g h, .vstIndexed d a b m u g h)],
        (∀ mo, (vopOf e i.2.1).bind VOp.mem = some mo → vXlate (vAcc .vload (g == 1) s) w (at_ i.1) w p 0 s = .ok [(x, w)] v →
          mo.reg = some d.toNat ∧ ∃ t, mo.go p s = .ok (v.bytesAt .home x.pa w, 0) t ∧ t.st = v.st ∧ v.OthersKept t ∧ v.SameBytes t) ∧
        (∀ mo, (vopOf e i.2.2).bind VOp.mem = some mo → vXlate (vAcc .vstore (g == 1) s) w (at_ i.1) w p 0 s = .ok [(x, w)] v →
          ∃ r t, mo.go p s = .ok r t ∧ t.st = v.st ∧ v.OthersKept t ∧ v.PutBytes x.pa w (s.st.velem d.toNat w p) t)) ∧
    ∀ k, (k = 2 ∨ k = 3) → e.lw = some k → x.pa % 2 ^ k = 0 → at_ ((p * 2 ^ k : Nat) : Int) % 2 ^ k = 0 →
      vXlate (vAcc .vamo false s) (2 ^ k) (at_ ((p * 2 ^ k : Nat) : Int)) (2 ^ k) p 0 s = .ok [(x, 2 ^ k)] v →
      let z := 8 * 2 ^ k
      let old := v.bytesAt .home x.pa (2 ^ k)
      let y := s.st.velem d.toNat (2 ^ k) p
      ∀ i ∈ [(Instr.vamoAdd d a b m 0 u, (old + y) % 2 ^ z), (.vamoMax d a b m 0 u, if toSigned z old < toSigned z y then y else old),
          (.vamoMin d a b m 0 u, if toSigned z old < toSigned z y then old else y)],
        ∀ mo, (vopOf e i.1).bind VOp.mem = some mo →
          ∃ r t, mo.go p s = .ok r t ∧ t.st = v.st ∧ v.OthersKept t ∧ v.PutBytes x.pa (2 ^ k) i.2 t) ∧
  (∀ (s : State) (e : VEntry) (q : List VEntry) (d a b : BitVec 5) (k : BitVec 2) (m : BitVec 3) (t : BitVec 4) (z : BitVec 1) (p : Nat) (op : VOp),
    let st := s.st
    let w := 2 ^ typeLog2 t.toNat
    let depth := 256 / w
    let n := min e.vl (st.lanes * 256 / w)
    let c := e.op1.toNat
    let active := fun j => if latchV e.lent = true ∧ latchMask e.lent ≠ 0 then st.mbit (latchMask e.lent) j != latchInv e.lent
      else st.mbit m.toNat j
    let el := fun (r : BitVec 5) j => asInt t.toNat (st.velem r.toNat w j)
    let clamp := fun (i : Int) => max (-(2 ^ 127 - 1)) (min (2 ^ 127 - 1) i)
    st.vq = e :: q → e.mf = m.toNat → st.mvl ≤ 64 → st.tileType k.toNat = 1 → isFloat t.toNat = false →
    (∀ i ∈ [(Instr.opacc k a b m t, (1 : Int)), (.opsub k a b m t, -1)], vopOf e i.1 = some op → p < depth →
      ∃ u, op.body p s = .ok (p + 1) u ∧ s.OthersKept u ∧ u.mem = s.mem ∧ u.st.v = st.v
        ∧ ∀ t' i' j', t' < 4 → i' < 64 → j' < 64 → u.st.tile t' i' j' =
          if t' = k.toNat ∧ i' < st.mvl ∧ j' < st.mvl ∧ i' * depth + p < n ∧ j' * depth + p < n ∧ active (i' * depth + p) = true
              ∧ active (j' * depth + p) = true ∧ (st.tile t' i' j').tag = 0
          then { (st.tile t' i' j') with val := clamp ((st.tile t' i' j').val + i.2 * 2 ^ 60 * el a (i' * depth + p) * el b (j' * depth + p)) }
          else st.tile t' i' j') ∧
    (vopOf e (.mputr k d a m t) = some op → c < 64 → p < 64 → active p = true →
      ∃ u, op.body p s = .ok (p + 1) u ∧ u.st.tile k.toNat c p = { val := 2 ^ 60 * el d p, tag := 0 }
        ∧ ∀ t' i' j', t' < 4 → i' < 64 → j' < 64 → ¬(t' = k.toNat ∧ i' = c ∧ j' = p) → u.st.tile t' i' j' = st.tile t' i' j') ∧
    (∀ v : Int, vopOf e (.mextr k d a m t z) = some op → c < 64 → p < 64 → active p = true →
      st.tile k.toNat c p = { val := 2 ^ 60 * v, tag := 0 } →
      (if isSigned t.toNat then -(2 ^ (8 * w - 1)) ≤ v ∧ v < 2 ^ (8 * w - 1) else 0 ≤ v ∧ v < 2 ^ (8 * w)) →
      ∃ u, op.body p s = .ok (p + 1) u ∧ u.st.velem d.toNat w p = (v % 2 ^ (8 * w)).toNat
        ∧ u.st.tile k.toNat c p = (if z = 1 then { val := 0, tag := 0 } else st.tile k.toNat c p)) ∧
    (vopOf e (.mzero k) = some op → st.mvl ≠ 0 →
      ∃ u, op.body 0 s = .ok 1 u ∧ ∀ t' i' j', t' < 4 → i' < 64 → j' < 64 →
        u.st.tile t' i' j' = if t' = k.toNat then { val := 0, tag := 0 } else st.tile t' i' j')) ∧
  ∀ (s u v : State) (e : VEntry) (q : List VEntry) (d a : BitVec 5) (m : BitVec 3) (t : BitVec 4) (op : VOp) (p r n : Nat),
    s.st.vq = e :: q → s.defer = true → e.mf = m.toNat → p < 4096 →
    (vopOf e (.urd d a t) = some op → r = e.op1.toNat →
      (s.st.live e.tl r = true → uniformRead r 0 s = .ok n u →
        ∃ y, op.body 0 s = .ok 1 y ∧ y.st.readQ = u.st.readQ.map (fun o =>
          if o.src = u.st.head.seq ∧ o.val = none then { o with val := some (BitVec.ofNat 64 (uniformAs t.toNat n)) } else o)) ∧
      (s.st.live e.tl r = false →
        ∃ y, op.body 0 s = .ok 1 y ∧ y.st.readQ = s.st.readQ.map (fun o =>
          if o.src = e.seq ∧ o.val = none then { o with val := some 0 } else o))) ∧
    (vopOf e (.vurd d m t) = some op →
      (rowAct e s.st p = true → uniformRead p p s = .ok n u →
        ∃ y, op.body p s = .ok (p + 1) y ∧ y.st.velem d.toNat 4 p = uniformAs t.toNat n % 2 ^ 32) ∧
      (rowAct e s.st p = false → op.body p s = .ok (p + 1) s)) ∧
    ∀ (tb : TapBind) (l : List (Nat × PlanEntry × Nat)), vopOf e (.tapend d) = some op → boundPlan s = some tb →
      let live := s.st.liveRows e.tl
      badRows (some tb) (e.op1.toNat % 65536) (fld e.op1.toNat 16 1) live s = .ok [] u → crossRows tb live u = .ok l v →
      ((∀ x ∈ l, x.2.2 = 0) →
        ∃ y, op.body 0 s = .ok 1 y ∧ (∀ k, y.st.tapRow k =
          if k ∈ live then { v.st.tapRow k with count := (v.st.tapRow k).count + 1, scores := [] } else v.st.tapRow k)) ∧
      (∀ x ∈ l.head?, x.2.2 ≠ 0 → x.2.2 < 256 → ∃ y tr b, op.body 0 s = .error (.trap tr) y ∧ tr.cause = cSEQTRAP ∧ tr.entry = some v.st.head.addr
        ∧ bitOf x.2.2 b = true ∧ (∀ j, j < b → bitOf x.2.2 j = false) ∧ tr.eval = x.2.1.pfirst + b)

/-- R167, R200, R208, R362: a complete entry at the head of a vector queue whose enabled flags have trapped leaves it, and changes nothing else
where it holds no claim; the oldest produced result of a read queue reaches its register, and its copy register, and leaves the queue. -/
def Obligations.VectorEntriesRetire : Prop :=
  (∀ (s : State) (c : BitVec 8) (e : VEntry) (q : List VEntry), (s.strandAt c.toNat).vq = e :: q → e.finished = true → e.flags % 64 = 0 →
    e.claim = none →
    exec (.vqEntryRetire c) s = .next (s.setStrand c.toNat { s.strandAt c.toNat with vq := q })) ∧
  ∀ (s : State) (c : BitVec 8) (l r : List ReadEntry) (e : ReadEntry) (v : Dword),
    (s.strandAt c.toNat).readQ = l ++ e :: r → (∀ o ∈ l, o.val = none) → e.val = some v →
    ∃ t, exec (.readQueueWriteback c) s = .next (s.setStrand c.toNat t) ∧ t = { s.strandAt c.toNat with readQ := l ++ r, x := t.x }
      ∧ ∀ k, t.xr k = if k ≠ 0 ∧ (k = e.dst ∨ (e.cv = true ∧ k = e.cpy)) then v else (s.strandAt c.toNat).xr k


/-! ### The lookup stacks (R301 to R347) -/

/-- R18, R315, R324: an instruction of the bank queue whose checks succeed enters a queue that has room, with the next tag, its address, its
word and its operands; the strand goes on, and no register and no byte of memory changes. One that names a region that is not valid traps ILL
with reason 0xF and the number 1 of the check. R337, R338: `LKX` enters the bank queue, and its marker, with the entry's tag, the vector queue, and
captures `RM`, `EBASE` and `LANES`; a strand without lanes traps VGRANT at its commit. What an entry does there is its event's matter (the
model's `defer`, log 7). -/
def Obligations.BankInstructionsEnterTheirQueue : Prop :=
  (∀ (s : State) (g : BitVec 3) (a b c : BitVec 5) (o : BitVec 4), s.st.bankQ.length < 16 → s.defer = true →
    ∀ p ∈ [(Instr.cbld g a c, infoCbld g a), (.tbld g a b c o, infoTbld g a b o), (.lkz g, infoLkz g), (.lka g b c, infoLka g b c),
        (.lkab g a b c o, infoLkab g a b o), (.bdot a b c, infoBdot a b c), (.baxpy a b c, infoBaxpy a b c), (.bcopy a c, infoBcopy a c),
        (.bbit a b c o, infoBbit a b c o), (.bfill b c, infoBfill b c)],
      let info : Info := { reads := p.2.regs.map (fun r => (RegKind.x, r)) }
      s.Ready info (wordOf p.1) →
      (∀ e u, bankEntryOf (wordOf p.1) p.2 (s.begun info) = .ok e u →
        ∃ t : State, exec p.1 s = .next t.served ∧ t.st.bankQ = s.st.bankQ ++ [e] ∧ e.tag = s.st.bankTag ∧ e.pc = s.st.pc.toNat
          ∧ encode p.1 = some e.word ∧ e.op1 = s.st.xr p.2.xa ∧ e.op2 = s.st.xr p.2.xb ∧ e.op3 = s.st.xr p.2.xc
          ∧ e.nblen = (s.st.cr 0x290).toNat % 65536 ∧ e.rm = (s.st.cr 0x107).toNat
          ∧ e.early = (p.2.counted && e.nblen == 0) ∧ e.complete = e.early
          ∧ (∀ k, p.2.region = some k → e.gb = s.st.cr (0x280 + 2 * k) ∧ e.gs = s.st.cr (0x281 + 2 * k))
          ∧ Strand.ControlsKept s.st t.st
          ∧ t.st = { s.st with
              bankQ := s.st.bankQ ++ [e], bankTag := (s.st.bankTag + 1) % 65536, pc := s.st.pc + 4, latch := 0, resumed := false, behind := none,
              csr := t.st.csr }
          ∧ s.OthersKept t ∧ s.SameBytes t ∧ t.mem = u.mem) ∧
      ∀ k, p.2.region = some k → bitOf (s.st.cr (0x281 + 2 * k)).toNat 63 = false →
        exec p.1 s = .next (trapOr s (s.begun info) { cause := cILL, eval := wordOf p.1, w0 := 0xF, w1 := 1 })) ∧
  ∀ (s u : State) (g : BitVec 3) (a v : BitVec 5) (o : BitVec 4) (e : BankEntry),
    let info : Info := { reads := [(.x, a.toNat)] }
    let word := wordOf (.lkx g a v o)
    s.st.bankQ.length < 16 → s.defer = true → s.Ready info word →
    (s.st.lanes = 0 → exec (.lkx g a v o) s = .next (s.trapped (s.begun info) cVGRANT word 0)) ∧
    (s.st.lanes ≠ 0 → s.st.canCommit false = true →
    (∀ q ∈ s.granulesOf (clusterOf s.cur) s.st.owner, ∃ w, q.2 = .held w) →
    bankEntryOf word { regs := [a.toNat], region := some g.toNat, xa := a.toNat } (s.begun info) = .ok e u →
    ∃ (t : State) (m : VEntry), exec (.lkx g a v o) s = .next t.served ∧ t.st.bankQ = s.st.bankQ ++ [e] ∧ t.st.vq = s.st.vq ++ [m]
      ∧ m.marker = some e.tag ∧ e.rm = (s.st.cr 0x107).toNat ∧ e.ebase = s.st.ebase ∧ e.lanes = s.st.lanes
      ∧ e.tag = s.st.bankTag ∧ t.st.bankTag = (s.st.bankTag + 1) % 65536 ∧ m.op1 = s.st.rx a ∧ m.addr = s.st.pc.toNat
      ∧ m.vl = s.st.vl ∧ m.p = s.st.vstart ∧ encode (.lkx g a v o) = some m.word ∧ m.word = e.word ∧ t.st.vstart = 0
      ∧ t.st.pc = s.st.pc + 4 ∧ t.st.latch = 0 ∧ t.st.x = s.st.x ∧ t.st.v = s.st.v ∧ (∀ n, n ≠ 0x104 → n ≠ 0x441 → t.st.cr n = s.st.cr n)
      ∧ s.OthersKept t ∧ s.SameBytes t)

/-- R327, R328: `BREG` with `x[b]` = 0 makes its region invalid; with a shape in which no reserved bit is set, an aligned address that
translates, and banks that exist, it sets the base and the shape with bit 63; reserved bits trap ILL with reason 0xF and the number 2 of the
check, and an address that is no multiple of 1,024 traps ALIGN. Its entry is complete at commit (the model's `defer`, log 7). -/
def Obligations.RegionsAreSet : Prop :=
  ∀ (s : State) (g : BitVec 3) (a b : BitVec 5),
    let info : Info := { reads := [(.x, a.toNat), (.x, b.toNat)] }
    let xa := (s.st.rx a).toNat
    let xb := (s.st.rx b).toNat
    let reserved := bitOf xb 3 = true ∨ fld xb 13 3 ≠ 0 ∨ fld xb 18 2 ≠ 0 ∨ bitOf xb 23 = true ∨ fld xb 56 8 ≠ 0
    let sets := fun (gb gs : Nat) => ∃ t : State, exec (.breg g a b) s = .next t.served
      ∧ t.st.cr (0x280 + 2 * g.toNat) = BitVec.ofNat 64 gb ∧ t.st.cr (0x281 + 2 * g.toNat) = BitVec.ofNat 64 gs
      ∧ (∀ n, n ≠ 0x441 → n ≠ 0x280 + 2 * g.toNat → n ≠ 0x281 + 2 * g.toNat → t.st.cr n = s.st.cr n)
      ∧ (∃ e, t.st.bankQ = s.st.bankQ ++ [e] ∧ e.early = true ∧ e.complete = true ∧ e.tag = s.st.bankTag)
      ∧ t.st.bankTag = (s.st.bankTag + 1) % 65536
      ∧ t.st.pc = s.st.pc + 4 ∧ t.st.latch = 0 ∧ t.st.x = s.st.x ∧ t.st.v = s.st.v ∧ s.OthersKept t ∧ s.SameBytes t
    s.st.bankQ.length < 16 → s.defer = true → s.Ready info (wordOf (.breg g a b)) →
    (xb = 0 → sets 0 0) ∧
    (xb ≠ 0 → reserved → exec (.breg g a b) s = .next (trapOr s (s.begun info)
      { cause := cILL, eval := wordOf (.breg g a b), w0 := 0xF, w1 := 2 })) ∧
    (xb ≠ 0 → ¬reserved → xa % 1024 ≠ 0 → exec (.breg g a b) s = .next (s.trapped (s.begun info) cALIGN xa 0)) ∧
    ∀ x u, xb ≠ 0 → ¬reserved → xa % 1024 = 0 → xlate1 (bankAcc true false (s.begun info)) xa (s.begun info) = .ok x u →
      fld x.pa 36 3 + (fld xb 0 3 + 1) ≤ 8 → fld x.pa 15 4 + (fld xb 4 4 + 1) ≤ 16 → fld x.pa 10 5 + (fld xb 8 5 + 1) ≤ 32 →
      fld x.pa 19 17 + (fld xb 32 8 + 1) * (fld xb 40 16 + 1) ≤ 131072 → sets (fld xa 10 45 * 1024) (xb + 2 ^ 63)

/-- R18, R343, R345, R346: `BSYNC` takes a tag and an entry of the bank queue, and with nothing older outstanding or queued the entry is complete;
with no record pending the strand goes on, and otherwise it traps for the oldest record: BANKERR, or FPX, with the record's tag, its
instruction's address and its banks. -/
def Obligations.BankRecordsAreDelivered : Prop :=
  ∀ s : State, s.Quiet → s.st.bsync = none → s.Ready {} (wordOf .bsync) →
    let tagged := fun (st : Strand) => { st with bankTag := (st.bankTag + 1) % 65536 }
    (s.st.bankErrs = [] → ∃ t, exec .bsync s = .next t.served ∧ (s.mapSt tagged).WentTo (s.st.pc + 4) t) ∧
    ∀ r l, s.st.bankErrs = r :: l →
      exec .bsync s = .next (trapOr s ((s.begun {}).mapSt (fun st => { tagged st with bankErrs := l }))
        (if r.fpx then { cause := cFPX, eval := r.flags, w0 := if r.merged then 1 else 0, w1 := r.tag, w3 := r.pc }
         else { cause := cBANKERR, eval := r.tag, w0 := if r.merged then 1 else 0, w1 := r.low, w2 := r.banks % 65536 + r.flags * 2 ^ 16,
                w3 := r.pc }))

/-- R312, R314, R333, R339 to R342: an entry at the head of a bank queue that is complete leaves it, and so do those complete behind it. The part of
an `LKZ` in one stack leaves every accumulator of its region's banks there zero and unpoisoned, and no other bank changed; with the last part
the entry is complete and leaves the queue. A `BCOPY` or a `BBIT` of one row leaves in the destination row the source row, or what its operation
makes of the source rows; a `BFILL` of one strip repeats its element; a `BAXPY` of one strip leaves in each element of y the sum rounded once, with
its flags; and a `BDOT` of one strip of finite elements leaves the exact sum rounded once, of which only NX is raised. Their words hold no error, and
every other byte of the stacks is as it was. An entry works once every earlier access of its strand is performed (R105) and no other strand
holds its banks (R313). -/
def Obligations.BankEntriesComplete : Prop :=
  ∀ (s : State) (c : BitVec 8) (e : BankEntry) (q : List BankEntry) (stack : BitVec 3) (n : BitVec 16),
    (s.strandAt c.toNat).bankQ = e :: q →
    let sid := (s.strandAt c.toNat).owner
    let ev := Instr.bankEntryComplete ⟨c.setWidth 13, 0, stack, n⟩
    let part : BankPart := { stack := stack.toNat, done := 1, arrived := s.arrival c.toNat }
    let codes := e.codes.filter (fun d => d / 256 == stack.toNat)
    let left := fun (fl : Nat) (t : State) =>
      (t.strandAt c.toNat) = { s.strandAt c.toNat with bankQ := q.dropWhile (fun e => e.complete), csr := (t.strandAt c.toNat).csr }
      ∧ (∀ n, n ≠ 0x109 → (t.strandAt c.toNat).cr n = (s.strandAt c.toNat).cr n)
      ∧ (t.strandAt c.toNat).fflags = (s.strandAt c.toNat).fflags ||| fl ∧ (∀ j, j ≠ c.toNat → t.strandAt j = s.strandAt j)
    let works := e.complete = false ∧ e.parts = [] ∧ e.err = [] ∧ e.fl = 0 ∧ n ≠ 0 ∧ stack.toNat ∈ e.inStacks
      ∧ earlierDone s c.toNat e.seq = true ∧ heldBefore s sid stack.toNat (e.holds stack.toNat) codes part.arrived = false
    let clean := fun (pa k : Nat) => (∀ w, pa / 32 ≤ w → w ≤ (pa + k - 1) / 32 → Tab.find s.wordErr w = none) ∧ (s.bank (bankOf pa)).held = none
    let puts := fun (fl pa k : Nat) (v : Nat → Nat) => ∃ t, exec ev s = .next t ∧ left fl t ∧ t.banks = s.banks ∧ t.lines = s.lines
      ∧ (∀ i, i < k → (Mem.read t.mem (pa + i)).toNat = v i)
      ∧ (∀ p, (p < pa ∨ pa + k ≤ p) → Mem.read t.mem p = Mem.read s.mem p)
      ∧ ∀ w, pa / 32 ≤ w → w ≤ (pa + k - 1) / 32 → Tab.find t.wordErr w = none
    let byte := fun (pa : Nat) => (Mem.read s.mem pa).toNat
    let oneRow := fun (pa k : Nat) => 0 < k ∧ pa % 2 = 0 ∧ pa % 1024 + k ≤ 1024
    let half := fun (pa i : Nat) => Mem.readLE s.mem (pa + 2 * i) 2
    (e.complete = true → ∃ t, exec ev s = .next t ∧ left 0 t ∧ t.mem = s.mem ∧ t.banks = s.banks) ∧
    (∀ g, works → encode (.lkz g) = some e.word → e.ops = [] →
      ∃ t, exec ev s = .next t ∧ t.mem = s.mem
        ∧ (e.inStacks = [stack.toNat] → left 0 t)
        ∧ (e.inStacks ≠ [stack.toNat] → t.strandAt c.toNat = { s.strandAt c.toNat with bankQ := { e with parts := [part], begun := true } :: q })
        ∧ (∀ b ∈ e.banksIn stack.toNat, (t.bank b.1).acc = [] ∧ (t.bank b.1).poison = [] ∧ (t.bank b.1).tables = (s.bank b.1).tables)
        ∧ ∀ k, (∀ b ∈ e.banksIn stack.toNat, k ≠ b.1) → Tab.find t.banks k = Tab.find s.banks k) ∧
    (∀ x y pa pc, works → encode (.bcopy x y) = some e.word → e.nblen = 1 → e.ops = [[(pa, 1024)], [(pc, 1024)]] →
      pa % 1024 = 0 → pc % 1024 = 0 → clean pa 1024 → (s.bank (bankOf pc)).held = none → puts 0 pc 1024 (fun i => byte (pa + i))) ∧
    (∀ x y z (o : BitVec 4) pa pb pc, works → encode (.bbit x y z o) = some e.word → e.nblen = 1 →
      e.ops = (if o = 4 then [[(pa, 1024)], [(pc, 1024)]] else [[(pa, 1024)], [(pb, 1024)], [(pc, 1024)]]) → o.toNat ≤ 4 →
      pa % 1024 = 0 → pb % 1024 = 0 → pc % 1024 = 0 → clean pa 1024 → (o ≠ 4 → clean pb 1024) → (s.bank (bankOf pc)).held = none →
      puts 0 pc 1024 (fun i =>
        let a := byte (pa + i)
        let b := byte (pb + i)
        if o = 0 then a &&& b else if o = 1 then a ||| b else if o = 2 then a ^^^ b else if o = 3 then a &&& (255 - b) else 255 - a)) ∧
    (∀ x y pa, works → encode (.bfill x y) = some e.word → e.ops = [[(pa, 2 * e.nblen)]] → oneRow pa (2 * e.nblen) → clean pa (2 * e.nblen) →
      puts 0 pa (2 * e.nblen) (fun i => e.op2.toNat / 256 ^ (i % 2) % 256)) ∧
    (∀ x y z px py, works → encode (.baxpy x y z) = some e.word → e.ops = [[(px, 2 * e.nblen)], [(py, 2 * e.nblen)]] → oneRow px (2 * e.nblen) →
      oneRow py (2 * e.nblen) → clean px (2 * e.nblen) → clean py (2 * e.nblen) → fld e.rm 8 6 = 0 →
      let r : Rnd := { mode := e.rm % 8 }
      let sum := fun (i : Nat) => fFma r false (decodeF fmtF16 (half py i)) (decodeF fmtF16 (e.op2.toNat % 65536)) (decodeF fmtF16 (half px i))
      let rounded := fun (i : Nat) => roundTo fmtF16 r false (sum i).1
      puts ((List.range e.nblen).foldl (fun f i => f ||| (sum i).2 ||| (rounded i).2) 0) py (2 * e.nblen)
        (fun i => (rounded (i / 2)).1 / 256 ^ (i % 2) % 256)) ∧
    ∀ x y z px py pc, works → encode (.bdot x y z) = some e.word → e.ops = [[(px, 2 * e.nblen)], [(py, 2 * e.nblen)], [(pc, 4)]] →
      oneRow px (2 * e.nblen) → oneRow py (2 * e.nblen) → pc % 4 = 0 → clean px (2 * e.nblen) → clean py (2 * e.nblen) → clean pc 4 →
      fld e.rm 8 6 = 0 → e.dot = {} →
      ∀ v w : Nat → Bool × Nat, (∀ i, i < e.nblen → ∃ j k, decodeF fmtF16 (half px i) = .fin (v i).1 j k ∧ j * 2 ^ (k + 24).toNat = (v i).2) →
        (∀ i, i < e.nblen → ∃ j k, decodeF fmtF16 (half py i) = .fin (w i).1 j k ∧ j * 2 ^ (k + 24).toNat = (w i).2) →
        let neg := fun (i : Nat) => (v i).1 != (w i).1
        let sum := (List.range e.nblen).foldl (fun (a : Int) i => a + (if neg i then -1 else 1) * (((v i).2 * (w i).2 : Nat) : Int)) 0
        let minus := e.rm % 8 = 2 ∨ ∀ i, i < e.nblen → (v i).2 * (w i).2 = 0 ∧ neg i = true
        let rounded := roundTo fmtF32 { mode := e.rm % 8 } false (.fin (decide (sum < 0)) sum.natAbs (-48))
        (sum ≠ 0 → puts (rounded.2 &&& fNX) pc 4 (fun i => rounded.1 / 256 ^ i % 256)) ∧
        (sum = 0 → minus → puts 0 pc 4 (fun i => if i = 3 then 0x80 else 0)) ∧
        (sum = 0 → ¬minus → puts 0 pc 4 (fun _ => 0))

/-- R309, R311, R330, R332, R335: in one stack, `CBLD` leaves in its slot of the codebook of every die of the region the low 24 bits of its sixteen
words; `TBLD` leaves in each bank's table slots the tables that R309 builds of the die's codebook and the activations it has read, batch row by
batch row; `LKA` adds to every accumulator of the window the entry that the row's byte selects in its batch row's table, saturated to 64 bits, and a
poison entry poisons the accumulator and adds nothing; `LKAB` of one k-group does the same with the tables that it builds, which stay, and every other
slot holds zeros. The words read hold no error; every other bank is as it was. -/
def Obligations.PassesBuildAndAddTheirTables : Prop :=
  ∀ (s : State) (c : BitVec 8) (e : BankEntry) (q : List BankEntry) (stack : BitVec 3) (n : BitVec 16),
    (s.strandAt c.toNat).bankQ = e :: q →
    let st := s.strandAt c.toNat
    let ev := Instr.bankEntryComplete ⟨c.setWidth 13, 0, stack, n⟩
    let codes := e.codes.filter (fun d => d / 256 == stack.toNat)
    let left := fun (fl : Nat) (t : State) => t.mem = s.mem ∧ (∀ j, j ≠ c.toNat → t.strandAt j = s.strandAt j) ∧
      (e.inStacks = [stack.toNat] →
        (t.strandAt c.toNat) = { st with bankQ := q.dropWhile (fun e => e.complete), csr := (t.strandAt c.toNat).csr }
        ∧ (∀ n, n ≠ 0x109 → (t.strandAt c.toNat).cr n = st.cr n) ∧ (t.strandAt c.toNat).fflags = st.fflags ||| fl)
    let works := e.complete = false ∧ e.parts = [] ∧ e.err = [] ∧ e.fl = 0 ∧ fld e.rm 8 6 = 0 ∧ n ≠ 0 ∧ stack.toNat ∈ e.inStacks
      ∧ earlierDone s c.toNat e.seq = true ∧ heldBefore s st.owner stack.toNat (e.holds stack.toNat) codes (s.arrival c.toNat) = false
      ∧ (∀ b ∈ e.banksIn stack.toNat, (s.bank b.1).held = none)
    let g := e.geo
    let w := e.op2.toNat
    let inRegion := fun (k : Nat) => ∃ b ∈ e.banksIn stack.toNat, b.1 = k
    let built := fun (data bank r : Nat) =>
      (buildTable g ((List.range (2 ^ g.b)).map (fun v => Tab.get s.codebooks (bank / 32 * 256 + e.slot * 16 + v)))
        ((List.range g.g).map (fun i => actAt e.mode data [] ((r * g.g + i) * typeW e.mode)))).1
    let byteOf := fun (b : Nat × Nat) (k m : Nat) =>
      (Mem.read s.mem (b.2 + (fld w 0 8 * g.kg + k) * 2 ^ 19 + fld w 8 2 * g.cw + m)).toNat % 2 ^ g.p
    let streams := fun (k : Nat) => e.pa0 % 1024 = 0 ∧ ((e.banksIn stack.toNat).map (fun b => b.1)).Nodup ∧
      ∀ b ∈ e.banksIn stack.toNat, Tab.wf (s.bank b.1).acc = true ∧ Tab.wf (s.bank b.1).poison = true
        ∧ ∀ i, i < g.cw / 32 → Tab.find s.wordErr ((b.2 + (fld w 0 8 * g.kg + k) * 2 ^ 19 + fld w 8 2 * g.cw) / 32 + i) = none
    let total := fun (bank i entry : Nat) => (Tab.get (s.bank bank).acc i : Int) + toSigned 24 entry
    let adds := fun (t : State) (bank i entry : Nat) =>
      Tab.get (t.bank bank).acc i = (if bitOf entry 24 then Tab.get (s.bank bank).acc i else saturate true 64 (total bank i entry))
      ∧ Tab.get (t.bank bank).poison i = (Tab.get (s.bank bank).poison i || bitOf entry 24)
    let fits := fun (bank i entry : Nat) => bitOf entry 24 = true ∨ (-(2 ^ 63) ≤ total bank i entry ∧ total bank i entry < 2 ^ 63)
    (∀ g' a' j pa, works → encode (.cbld g' a' j) = some e.word → e.data = none → e.ops = [[(pa, 64)]] → pa % 64 = 0 →
      (s.bank (bankOf pa)).held = none → Tab.find s.wordErr (pa / 32) = none → Tab.find s.wordErr (pa / 32 + 1) = none →
      ∃ t, exec ev s = .next t ∧ left 0 t ∧ t.banks = s.banks ∧
        ∀ d v, v < 16 → Tab.get t.codebooks (d * 256 + e.slot * 16 + v) =
          if d ∈ e.diesIn stack.toNat then Mem.readLE s.mem (pa + 4 * v) 3 else Tab.get s.codebooks (d * 256 + e.slot * 16 + v)) ∧
    (∀ g' a' b' j o data, works → encode (.tbld g' a' b' j o) = some e.word → e.data = some (data, []) →
      ∃ t fl, exec ev s = .next t ∧ left fl t ∧ t.codebooks = s.codebooks ∧ (∀ k, ¬inRegion k → Tab.find t.banks k = Tab.find s.banks k) ∧
        ∀ b ∈ e.banksIn stack.toNat, (∀ r p, r < g.bm → p < 2 ^ g.p → Tab.get (t.bank b.1).tables ((fld w 16 3 + r) * 256 + p) = (built data b.1 r).getD p 0)
          ∧ (∀ k, (k < fld w 16 3 * 256 ∨ (fld w 16 3 + g.bm) * 256 ≤ k) → Tab.get (t.bank b.1).tables k = Tab.get (s.bank b.1).tables k)
          ∧ (t.bank b.1).acc = (s.bank b.1).acc ∧ (t.bank b.1).poison = (s.bank b.1).poison) ∧
    (∀ g' b' j, works → encode (.lka g' b' j) = some e.word → e.ops = [] → streams (fld w 16 16) →
      let entry := fun (b : Nat × Nat) (r m : Nat) => Tab.get (s.bank b.1).tables ((e.slot + r) * 256 + byteOf b (fld w 16 16) m)
      ∃ t fl, exec ev s = .next t ∧ left fl t ∧ t.codebooks = s.codebooks ∧ (∀ k, ¬inRegion k → Tab.find t.banks k = Tab.find s.banks k) ∧
        (let fit := ∀ b ∈ e.banksIn stack.toNat, ∀ r m, r < g.bm → m < g.cw → fits b.1 (r * g.cw + m) (entry b r m)
         (fit → fl = 0) ∧ (¬fit → fl = fOF)) ∧
        ∀ b ∈ e.banksIn stack.toNat, (t.bank b.1).tables = (s.bank b.1).tables
          ∧ (∀ r m, r < g.bm → m < g.cw → adds t b.1 (r * g.cw + m) (entry b r m))
          ∧ ∀ i, g.bm * g.cw ≤ i → i < 2048 → Tab.get (t.bank b.1).acc i = Tab.get (s.bank b.1).acc i) ∧
    ∀ g' a' b' j o data, works → encode (.lkab g' a' b' j o) = some e.word → e.data = some (data, []) → fld w 32 16 = 0 → streams (fld w 16 16) →
      ∃ t fl, exec ev s = .next t ∧ left fl t ∧ t.codebooks = s.codebooks ∧ (∀ k, ¬inRegion k → Tab.find t.banks k = Tab.find s.banks k) ∧
        ∀ b ∈ e.banksIn stack.toNat, (∀ r p, r < g.bm → p < 2 ^ g.p → Tab.get (t.bank b.1).tables (r * 256 + p) = (built data b.1 r).getD p 0)
          ∧ (∀ k, g.bm * 256 ≤ k → Tab.get (t.bank b.1).tables k = 0)
          ∧ ∀ r m, r < g.bm → m < g.cw → adds t b.1 (r * g.cw + m) ((built data b.1 r).getD (byteOf b (fld w 16 16) m) 0)


/-! ### The copy engines (R355 to R378) -/

/-- R359, R360, R367, R368: `CPDECL` of a valid record on an unbound stream register takes the lowest Free slot of the cluster's engine and
fills it from the record; on a bound register it traps STREAM with reason 3, with a record that breaks the map with reason 6 and the field's
offset. `CPLINK` makes one stream feed another, or traps with reason 8. `CPCANCEL` frees the slots of a read chain with no fetch in flight, and
leaves those of a write chain to drain (the model's `defer`, log 7). -/
def Obligations.StreamsAreDeclaredLinkedAndCancelled : Prop :=
  ∀ (s : State) (k j : BitVec 4), s.Quiet → openBefore s s.st s.seqNow = false → s.defer = true → Tab.wf s.slots = true →
    let cl := clusterOf s.cur
    let bound := fun (n : Nat) => s.slotOf cl s.st.owner n
    (∀ (a : BitVec 5) u y (l : List (Xl × Nat)) (r : Nat),
      let info : Info := { reads := [(.x, a.toNat)] }
      let va := (s.st.rx a).toNat
      let byte := fun (o n : Nat) => fld r (8 * o) (8 * n)
      s.Ready info (wordOf (.cpdecl a k)) → va % 64 = 0 → xlate (Acc.copyRead.forStrand (s.begun info)) va 64 (s.begun info) = .ok l u →
      (bound k.toNat ≠ none → exec (.cpdecl a k) s = .next (s.trapped u cSTREAM k.toNat 3)) ∧
      (bound k.toNat = none → readPieces (Acc.copyRead.forStrand (s.begun info)).dom (splitPieces l) va u = .ok (.ok r) y →
        (∀ o, badRecord r = some o → exec (.cpdecl a k) s = .next (trapOr s y { cause := cSTREAM, eval := k.toNat, w0 := 6, w1 := o })) ∧
        (badRecord r = none → ∀ key, freeSlot s cl = some key →
          ∃ (t : State) (p : Slot), exec (.cpdecl a k) s = .next t.served ∧ s.Advanced t ∧ s.SameBytes t
            ∧ Tab.find t.slots key = some p ∧ (∀ q, q ≠ key → Tab.find t.slots q = Tab.find s.slots q)
            ∧ p.owner = some (s.st.owner, k.toNat) ∧ p.write = (byte 0 1 == 2) ∧ p.xf = byte 1 1 ∧ p.mfmt = byte 2 1 ∧ p.etype = byte 3 1
            ∧ p.strip = byte 4 4 ∧ p.len = byte 8 8 ∧ p.src = byte 0x10 8 ∧ p.dst = byte 0x18 8 ∧ p.runb = byte 0x20 4 ∧ p.rnd = byte 0x24 1
            ∧ p.lim = byte 0x28 8 ∧ p.asid = s.st.asid ∧ p.pl = s.st.pl.toNat ∧ p.ddom = s.st.ddom ∧ p.draining = false ∧ p.up = none
            ∧ p.down = none ∧ p.seq = s.seqNow ∧ p.claimed = 0 ∧ p.strips = 0 ∧ p.tickets = 0 ∧ p.pos = 0 ∧ p.ops = [] ∧ p.fault = none))) ∧
    (∀ jk pj kk pk, s.Ready {} (wordOf (.cplink j k)) → bound j.toNat = some (jk, pj) → bound k.toNat = some (kk, pk) →
      (linkRefused s jk kk = true →
        exec (.cplink j k) s = .next (s.trapped (s.begun {}) cSTREAM k.toNat 8)) ∧
      (linkRefused s jk kk = false →
        ∃ t : State, exec (.cplink j k) s = .next t.served ∧ s.Advanced t ∧ t.mem = s.mem ∧ t.lines = s.lines
          ∧ Tab.find t.slots kk = some { pk with up := some jk }
          ∧ (pj.write = true → Tab.find t.slots jk = some { pj with down := some kk, fault := none, retry := false })
          ∧ (pj.write = false → ∃ p, Tab.find t.slots jk = some p ∧ p.down = some kk ∧ p.fault = none ∧ p.strips = 0 ∧ p.half0 = .empty
              ∧ p.half1 = .empty ∧ p.inbuf = pj.stripBytes ++ pj.inbuf ∧ p.len = pj.len ∧ p.src = pj.src)
          ∧ ∀ q, q ≠ jk → q ≠ kk → Tab.find t.slots q = Tab.find s.slots q)) ∧
    ∀ key p, s.Ready {} (wordOf (.cpcancel k)) → bound k.toNat = some (key, p) →
      chainAll s (((chainUp s 4 key).getLast?).getD key) = chainAll s key → (p.write = false → chainOpen s (chainAll s key) = false) →
      (∀ q ∈ chainAll s key, ∃ o, Tab.find s.slots q = some o ∧ o.write = p.write ∧ (o.write = false → o.ops = [])) →
      ∃ t : State, exec (.cpcancel k) s = .next t.served ∧ s.Advanced t ∧ t.mem = s.mem ∧ t.lines = s.lines
        ∧ (∀ q, q ∉ chainAll s key → Tab.find t.slots q = Tab.find s.slots q)
        ∧ (p.write = false → ∀ q ∈ chainAll s key, Tab.find t.slots q = none)
        ∧ (p.write = true → ∀ q ∈ chainAll s key, ∀ o, Tab.find s.slots q = some o →
            Tab.find t.slots q = some { o with draining := true, fault := none, retry := false })

/-- R361 to R363, R369, R371, R374: `CPSTORE` hands its elements to the write stream and returns the ticket, or traps STREAM with reason 9
beyond the stream's length; `CPWAIT` goes on when the operations it covers are released, or visible; `SRD` claims and returns the next
available element, whose strip's half is Empty when all of its elements are released, or traps with reason 4 when the stream is exhausted; `SAVAIL` returns what is available, or what a write stream has still to
read. A queued `VLDS` of the stream has made its claim. An unbound register traps with reason 1, and a stream of the wrong kind with reason 2. What the engine does with the work is its events' matter (the model's `defer`, log 7). -/
def Obligations.StreamsAreReadAndWritten : Prop :=
  ∀ (s : State) (k : BitVec 4), s.defer = true → Tab.wf s.slots = true →
    (∀ e ∈ s.st.vq, namesStream [k.toNat] e = true → e.claim ≠ none ∨ e.finished = true) →
    let bound := s.slotOf (clusterOf s.cur) s.st.owner k.toNat
    (∀ (d a b : BitVec 5) key p,
      let n := (s.st.rx b).toNat
      let va := (s.st.rx a).toNat
      s.Ready (infoDAB d a b) (wordOf (.cpstore d a b k)) → bound = some (key, p) → p.write = true → p.up = none →
      (p.len < p.pos + n → exec (.cpstore d a b k) s =
        .next (trapOr s (s.begun (infoDAB d a b)) { cause := cSTREAM, eval := k.toNat, w0 := 9, w1 := n })) ∧
      (p.pos + n ≤ p.len → (p.xf = 0 → va % p.w = 0) →
        ∃ (t : State) (o : CopyOp), exec (.cpstore d a b k) s = .next t.served ∧ s.Got d.toNat (BitVec.ofNat 64 p.tickets) t
          ∧ t.mem = s.mem ∧ t.lines = s.lines
          ∧ Tab.find t.slots key = some { p with tickets := p.tickets + 1, pos := p.pos + n, ops := p.ops ++ [o] }
          ∧ o.ticket = p.tickets ∧ o.src = va ∧ o.n = n ∧ o.seq = s.seqNow ∧ o.released = false
          ∧ ∀ q, q ≠ key → Tab.find t.slots q = Tab.find s.slots q)) ∧
    (∀ (a : BitVec 5) (c : BitVec 3) key p, bound = some (key, p) → p.write = true → p.up = none →
      (∀ f, p.fault = some f → (s.st.rx a).toNat < f.w1) → s.Ready { reads := [(.x, a.toNat)] } (wordOf (.cpwaitR a k)) →
      let covered := fun (o : CopyOp) => o ∈ p.ops ∧ o.ticket ≤ (s.st.rx a).toNat
      ((∀ o, covered o → o.released = true) → ∃ t, exec (.cpwaitR a k) s = .next t.served ∧ s.WentTo (s.st.pc + 4) t) ∧
      ((∀ o, ¬covered o) → ∃ t, exec (.cpwaitV a c k) s = .next t.served ∧ s.WentTo (s.st.pc + 4) t)) ∧
    (∀ (d : BitVec 5) key p, s.Ready { dest := some (.x, d.toNat) } (wordOf (.srd d k)) → bound = some (key, p) →
      let w := 8 * 2 ^ typeLog2 p.etype
      (p.write = false → p.down = none → p.claimed = p.len →
        exec (.srd d k) s = .next (s.trapped (s.begun { dest := some (.x, d.toNat) }) cSTREAM k.toNat 4)) ∧
      (∀ data, p.write = false → p.down = none → p.claimed < min (p.strips * p.strip) p.len →
        let j := p.claimed / p.strip
        let gone := fun (q : Slot) => if j % 2 = 0 then q.rel0 else q.rel1
        p.half j = .full j data →
        let v := fld data.toNat (w * (p.claimed % p.strip)) w
        ∃ t : State, exec (.srd d k) s = .next t.served
          ∧ s.Got d.toNat (if isSigned p.etype then BitVec.ofInt 64 (toSigned w v) else BitVec.ofNat 64 v) t ∧ t.mem = s.mem
          ∧ (∃ q, Tab.find t.slots key = some q ∧ q.claimed = p.claimed + 1 ∧ q.strips = p.strips ∧ q.len = p.len
              ∧ (gone p + 1 < min p.strip (p.len - j * p.strip) → q.half j = .full j data ∧ gone q = gone p + 1)
              ∧ (min p.strip (p.len - j * p.strip) ≤ gone p + 1 → q.half j = .empty))
          ∧ ∀ q, q ≠ key → Tab.find t.slots q = Tab.find s.slots q) ∧
      let left := if p.write then ((p.ops.filter (fun o => !o.released)).map (fun o => o.n)).sum
        else min (p.strips * p.strip) p.len - p.claimed
      ∃ t : State, exec (.savail d k) s = .next t.served
        ∧ s.Wrote d.toNat (BitVec.ofNat 64 (left % 2 ^ 48
            + (if p.write = false ∧ p.claimed = p.len then 2 ^ 62 else 0) + (if p.fault = none ∧ p.retry = false then 0 else 2 ^ 63))) t) ∧
    ∀ d a b : BitVec 5, ∀ c : BitVec 3,
      ∀ p ∈ [(Instr.cpstore d a b k, infoDAB d a b, true), (.cpwaitR a k, { reads := [(.x, a.toNat)] }, true),
          (.cpwaitV a c k, { reads := [(.x, a.toNat)] }, true), (.srd d k, { dest := some (.x, d.toNat) }, false)],
        s.Ready p.2.1 (wordOf p.1) →
        (bound = none → exec p.1 s = .next (s.trapped (s.begun p.2.1) cSTREAM k.toNat 1)) ∧
        ∀ key o, bound = some (key, o) → o.write ≠ p.2.2 → exec p.1 s = .next (s.trapped (s.begun p.2.1) cSTREAM k.toNat 2)

/-! ### The shared cache (R380 to R398) -/

/-- R395 to R397: a cache instruction of no byte goes on; one whose bytes lie in one line of WB stack DRAM of this package acts on that line
at its home: `CFLUSH` leaves no dirty copy, `CFLUSH.inv` none at all, `CINVAL` discards the copy, `CZERO` writes zeros, and `CSEAL` seals a
line in state U; no other byte reads differently. A line elsewhere traps PROT, with W0 = 4 at another package and 3 otherwise. -/
def Obligations.CacheInstructionsActOnTheirLines : Prop :=
  ∀ (s : State) (a b : BitVec 5) (iv : BitVec 1), s.Ready { reads := [(.x, a.toNat), (.x, b.toNat)] } (wordOf (.cflush a b iv)) →
    let at0 := s.begun { reads := [(.x, a.toNat), (.x, b.toNat)] }
    let va := (s.st.rx a).toNat
    let n := (s.st.rx b).toNat
    (n = 0 → ∀ i ∈ [Instr.cflush a b iv, .cinval a b, .czero a b, .cseal a b],
      ∃ t, exec i s = .next t.served ∧ s.WentTo (s.st.pc + 4) t) ∧
    (n ≠ 0 → s.Quiet → (va + n - 1) / 64 = va / 64 →
      (∀ x u, xlate1 (Acc.load.forStrand at0) (va / 64 * 64) at0 = .ok x u → x.place = .home → isDram (x.pa / 64 * 64) = true →
        let line := x.pa / 64
        (∃ t, exec (.cflush a b iv) s = .next t.served ∧ s.Advanced t ∧ s.SameBytes t
          ∧ (iv = 1 → Tab.find t.lines line = none) ∧ ∀ ln, Tab.find t.lines line = some ln → ln.dirty = false) ∧
        ∃ t, exec (.cseal a b) s = .next t.served ∧ s.Advanced t ∧ s.SameBytes t
          ∧ ∀ ln, Tab.find u.lines line = some ln → ln.st = 1 → ln.ue = 0 → (∀ k, Tab.find u.domKeys ln.dom = some k → k.wait = false) →
              ∃ m, Tab.find t.lines line = some m ∧ (m.st = 2 ∨ m.st = 3) ∧ m.data = ln.data) ∧
      (∀ x u, xlate1 (Acc.store.forStrand at0) (va / 64 * 64) at0 = .ok x u → x.place = .home → isDram (x.pa / 64 * 64) = true →
        let line := x.pa / 64
        (∃ t, exec (.cinval a b) s = .next t.served ∧ s.Advanced t ∧ Tab.find t.lines line = none ∧ t.mem = u.mem
          ∧ (s.coherent → t.coherent ∧ (∀ k, k < 64 → u.wordBad ((64 * line + k) / 32) = false →
                t.peek (64 * line + k) = BitVec.ofNat 8 (u.dramRead (64 * line + k) 1))
              ∧ ∀ p, p / 64 ≠ line → t.peek p = s.peek p)) ∧
        ∃ t, exec (.czero a b) s = .next t.served ∧ s.Advanced t ∧ s.PutBytes (64 * line) 64 0 t) ∧
      ∀ x u, ∀ p ∈ [(Instr.cflush a b iv, Acc.load), (.cseal a b, Acc.load), (.cinval a b, Acc.store), (.czero a b, Acc.store)],
        xlate1 (p.2.forStrand at0) (va / 64 * 64) at0 = .ok x u →
        (∀ h, x.place = .remote h → exec p.1 s = .next (s.trapped u cPROT (va / 64 * 64) 4)) ∧
        (x.place = .bank ∨ x.place = .localStore ∨ x.place = .io → exec p.1 s = .next (s.trapped u cPROT (va / 64 * 64) 3)))

/-- R386, R389: a fill, an eviction and a seal change no byte that any agent reads: a fill leaves a copy at the home and an eviction none,
whatever the cache holds; they change no strand and no register. -/
def Obligations.CacheEventsKeepEveryByte : Prop :=
  ∀ (s : State) (line : BitVec 46) (dom : BitVec 16),
    (∃ t, exec (.cacheFill line dom) s = .next t ∧ s.SameBytes t ∧ t.strands = s.strands ∧ t.pk = s.pk
      ∧ (isDram (line.toNat * 64) = true → ∃ ln, Tab.find t.lines line.toNat = some ln)) ∧
    (∃ t, exec (.cacheEviction line) s = .next t ∧ s.SameBytes t ∧ t.strands = s.strands ∧ t.pk = s.pk
      ∧ Tab.find t.lines line.toNat = none) ∧
    ∃ t, exec (.seal line) s = .next t ∧ s.SameBytes t ∧ t.strands = s.strands ∧ t.pk = s.pk
      ∧ ∀ ln, Tab.find s.lines line.toNat = some ln → ln.st = 1 → ln.wt + 4096 ≤ s.cyclesOf (16 + quadOf line.toNat) → ln.ue = 0 →
          (∀ k, Tab.find s.domKeys ln.dom = some k → k.wait = false) →
          ∃ m, Tab.find t.lines line.toNat = some m ∧ (m.st = 2 ∨ m.st = 3) ∧ m.data = ln.data

/-! ### Remote atomics (R459 to R461) -/

/-- R456, R459, R460: `RAMO` at a location of another package goes on at once with the home's number and its tag in `x[d]`, and leaves a
posted transaction; at a location of its own package it performs the atomic of R173 and returns the same pair; a page outside the global
windows traps PROT with W0 = 8. No other register changes. -/
def Obligations.PostedAtomicsReturnTheirTag : Prop :=
  ∀ (s u : State) (d a b : BitVec 5) (z q : BitVec 1) (x : Xl),
    let info : Info := { reads := [(.x, a.toNat), (.x, b.toNat)], dest := some (.x, d.toNat), tagged := true }
    let size := if z = 1 then 8 else 4
    let w := 8 * size
    let ea := (s.st.rx a).toNat
    let y := (s.st.rx b).toNat % 2 ^ w
    let old := u.bytesAt x.place x.pa size
    let lt := toSigned w old < toSigned w y
    let own := (s.pkr 0x440).toNat % 128
    let tag := fun (h : Nat) => Tab.get s.nextTag h % 65536
    let free := fun (h : Nat) => ∀ t ∈ s.txns, t.home = h → t.tag = (tag h + 65536 - 4096) % 65536 → t.done ≠ none
    s.Ready info (wordOf (.ramoAdd d a b z q)) → s.Quiet → s.st.resumed = false → ea % size = 0 → postedCount s < 64 →
    (q = 1 → openBefore s s.st s.seqNow = false) →
    xlate1 (Acc.amo.forStrand (s.begun info)) ea (s.begun info) = .ok x u →
    ∀ p ∈ [(Instr.ramoAdd d a b z q, 2, (old + y) % 2 ^ w), (.ramoAnd d a b z q, 3, old &&& y), (.ramoOr d a b z q, 4, old ||| y),
        (.ramoXor d a b z q, 5, old ^^^ y), (.ramoMin d a b z q, 6, if lt then old else y), (.ramoMax d a b z q, 7, if lt then y else old),
        (.ramoMinn d a b z q, 8, min old y), (.ramoMaxn d a b z q, 9, max old y), (.ramoSwap d a b z q, 10, y)],
      (x.glob = false → exec p.1 s = .next (s.trapped u cPROT ea 8)) ∧
      (∀ h, x.glob = true → x.place = .remote h → free h →
        ∃ (t : State) (tx : Txn), exec p.1 s = .next t.served ∧ s.Got d.toNat (BitVec.ofNat 64 (h * 65536 + tag h)) t ∧ s.SameBytes t
          ∧ t.txns = s.txns ++ [tx] ∧ tx.home = h ∧ tx.tag = tag h ∧ tx.op = p.2.1 ∧ tx.pa = x.pa ∧ tx.size = size ∧ tx.data = y
          ∧ tx.va = ea ∧ tx.sid = s.st.owner ∧ tx.posted = true ∧ tx.done = none
          ∧ Tab.get t.nextTag h = (tag h + 1) % 65536) ∧
      (x.glob = true → x.place ≠ .bank → x.place.holds x.pa = true → u.goodAt x.place x.pa = true → x.pa % size = 0 → free own →
        ∃ t : State, exec p.1 s = .next t.served ∧ s.Got d.toNat (BitVec.ofNat 64 (own * 65536 + tag own)) t
          ∧ s.PutBytes x.pa size p.2.2 t ∧ Tab.get t.nextTag own = (tag own + 1) % 65536)


/-! ### The steps that no instruction word names (an event whose conditions do not hold leaves the state as it is: log 54) -/

/-- R113 to R118, R127, R134, R183: a write of `QEN` that sets one bit enables its queue from a descriptor that follows R113, and otherwise
leaves the bit clear and sets `QSTAT`; one that clears a bit leaves no queue there. A written line wakes the strands that wait on it and the
Ford. The head slot that is full next in the order of R116: with a misaligned `COMPL` it is released with an event of kind 9; one whose checks
fail has its completion written; one whose checks succeed is admitted, or held for the host. A gang that is done has its completion record written, body first. A waiting host event
is written into its free slot, and an occupied slot is tried again after 10,000 ns, not before (logs 16, 18 and 44). -/
def Obligations.TheFordServesItsQueues : Prop :=
  (∀ (s : State) (q : BitVec 6), s.coherent → s.queues = [] → q.toNat ≤ (s.pkr 0x820).toNat % 64 →
    let a := fld (s.pkr 0x820).toNat 12 40 * 4096 + 64 * q.toNat
    let d := s.peekLE a 64
    isDram a = true → s.goodAt .home a = true → s.goodAt .home (a + 32) = true →
    ∃ t, exec (.qenWrite (1 <<< q.toNat)) s = .next t ∧ s.SameBytes t ∧ t.strands = s.strands
      ∧ (descriptorOk d = true → ∃ u, Tab.find t.queues q.toNat = some u ∧ u.base = fld d 0 64 ∧ u.logn = fld d 64 8 ∧ u.kind = fld d 72 8
          ∧ u.pmax = fld d 80 8 ∧ u.aslo = fld d 96 16 ∧ u.ashi = fld d 112 16 ∧ u.head = fld d 192 64 ∧ u.tail = fld d 256 64
          ∧ t.pkr 0x821 = 1 <<< q.toNat)
      ∧ (descriptorOk d = false → Tab.find t.queues q.toNat = none ∧ t.pkr 0x821 = 0 ∧ t.qstat = BitVec.ofNat 64 (q.toNat + 64))) ∧
  (∀ s : State, ∃ t, exec (.qenWrite 0) s = .next t ∧ t.strands = s.strands ∧ t.pkr 0x821 = 0 ∧ ∀ q, q < 64 → Tab.find t.queues q = none) ∧
  (∀ (s : State) (line : BitVec 46),
    ∃ t, exec (.lineMonitorFire line) s = .next t ∧ t.mem = s.mem ∧ t.lines = s.lines ∧ t.queues = s.queues ∧ t.pk = s.pk
      ∧ (∀ c, (s.strandAt c).run = .waitLine line.toNat → t.strandAt c = { s.strandAt c with run := .run })
      ∧ (∀ c, (s.strandAt c).run ≠ .waitLine line.toNat → t.strandAt c = s.strandAt c)
      ∧ ∀ p ∈ s.queues, p.2.kind ≠ 3 → (p.2.base + 64 * (p.2.head % 2 ^ p.2.logn)) / 64 = line.toNat → Task.admission p.1 ∈ t.due) ∧
  (∀ (s : State) (q : BitVec 6) (u : Queue),
    let slot := u.base + 64 * (u.head % 2 ^ u.logn)
    let r := s.peekLE slot 64
    s.coherent → Tab.find s.queues q.toNat = some u → u.kind < 2 → nextFull s = some q.toNat →
    u.base % 64 = 0 → isDram slot = true → s.goodAt .home slot = true → s.goodAt .home (slot + 32) = true → fld r 0 64 = u.head + 2 ^ 63 →
    (fld r 320 64 % 32 ≠ 0 →
      ∃ t, exec (.startRecordAdmission q) s = .next t ∧ s.PutBytes slot 8 (u.head + 2 ^ u.logn) t ∧ t.strands = s.strands
        ∧ Tab.find t.queues q.toNat = some { u with head := u.head + 1 }
        ∧ { kind := 9, queue := q.toNat, subject := 0, ecause := u.head, eval := fld r 384 64, trec := 0 } ∈ t.hostEvents) ∧
    ∀ pa s2 s3,
      let s1 := (physRead (physRead s slot 32).1 (slot + 32) 32).1
      fld r 320 64 % 32 = 0 → fordPa (fordStore (fld r 240 16)) (fld r 320 64) 32 s1 = .ok (some pa) s2 →
      (∀ st d, admitChecks u r none s2 = .ok (.error (st, d)) s3 →
        ∃ t g, exec (.startRecordAdmission q) s = .next t ∧ Tab.find t.gangs (2 ^ 32 + q.toNat) = some g ∧ g.failed = some (st, d)
          ∧ g.ticket = u.head ∧ g.queue = q.toNat ∧ Task.completionWrite (2 ^ 32 + q.toNat) ∈ t.due ∧ t.strands = s3.strands) ∧
      ∀ ad, admitChecks u r none s2 = .ok (.ok ad) s3 → Tab.wf s3.gangs = true →
        (bitOf (s3.pkr 0x800).toNat 1 = true →
          ∃ t, exec (.startRecordAdmission q) s = .next t ∧ t.held = s3.held ++ [{ queue := q.toNat, ticket := u.head, gang := admitted s3 q.toNat u.head r ad }] ∧ t.strands = s3.strands
            ∧ { kind := 1, queue := q.toNat, subject := 0, ecause := u.head, eval := fld r 384 64, trec := 0 } ∈ t.hostEvents) ∧
        (bitOf (s3.pkr 0x800).toNat 1 = false →
          ∃ t gid g, exec (.startRecordAdmission q) s = .next t ∧ t = admitGang (admitted s3 q.toNat u.head r ad) s3 ∧ Tab.find t.gangs gid = some g
            ∧ g.queue = q.toNat ∧ g.ticket = u.head ∧ g.size = ad.size ∧ g.lanes = ad.lanes ∧ g.asid = fld r 240 16 ∧ g.ddom = fld r 224 16
            ∧ g.cls = fld r 152 8 % 8)) ∧
  (∀ (s w u : State) (gid : BitVec 32) (g : Gang),
    let acc : Acc := { fordStore g.asid with who := 12290 + g.queue }
    let status := if g.killed = none then 0 else 4
    let body := g.utag.toNat + status * 2 ^ 64 + g.lanes * 2 ^ 80 + g.cluster * 2 ^ 88 + g.killed.getD 0 % 2 ^ 32 * 2 ^ 96 + s.time.toNat * 2 ^ 128
    Tab.find s.gangs gid.toNat = some g → g.failed = none → g.started = true → (∀ k, k < g.size → bitOf g.stopped k = true) →
    gangBusy s g = false → unplaced { u with gangs := Tab.erase u.gangs gid.toNat } = [] →
    writeRange acc (g.compl.toNat + 8) 24 body false s = .ok (.ok ()) w → writeRange acc g.compl.toNat 8 g.ticket false w = .ok (.ok ()) u →
    ∃ t, exec (.completionWrite gid) s = .next t ∧ Tab.find t.gangs gid.toNat = none ∧ t.strands = u.strands ∧ t.mem = u.mem ∧ t.lines = u.lines
      ∧ (g.evt = true →
          { kind := 8, queue := g.queue, subject := 0, ecause := g.ticket, eval := g.utag.toNat, trec := 0 } ∈ t.hostEvents)) ∧
  ∀ (s : State) (n : Nat) (q : Nat) (v : Queue) (e : HostEvent) (rest : List HostEvent), n ≤ s.time.toNat → s.evRetry = none →
    eventQueue s = some (q, v) → s.hostEvents = e :: rest →
    let slot := v.base + 64 * (v.head % 2 ^ v.logn)
    let body := e.kind % 2 ^ 16 + e.queue % 2 ^ 16 * 2 ^ 16 + e.subject % 2 ^ 32 * 2 ^ 32 + e.ecause % 2 ^ 64 * 2 ^ 64
      + e.eval % 2 ^ 64 * 2 ^ 128 + e.trec % 2 ^ 64 * 2 ^ 192 + s.time.toNat * 2 ^ 256
    (∀ m, s.time.toNat < m → exec .hostEventPost { s with evRetry := some m } = .next { s with evRetry := some m }) ∧
    ∀ p ∈ [(Instr.hostEventPost, s), (.hostEventRetry, { s with evRetry := some n })], ∀ k w,
      readRange (fordHost Acc.load) slot 8 s = .ok (.ok k) w →
      (k ≠ v.head → ∃ t, exec p.1 p.2 = .next t ∧ t.evRetry = some (s.time.toNat + 10000) ∧ t.hostEvents = w.hostEvents ∧ t.mem = w.mem) ∧
      ∀ x y, k = v.head → writeRange (fordHost Acc.store) (slot + 8) 56 body false w = .ok (.ok ()) x →
        writeRange (fordHost Acc.store) slot 8 (v.head + 2 ^ 63) false x = .ok (.ok ()) y →
        ∃ t, exec p.1 p.2 = .next t ∧ t.hostEvents = rest ∧ Tab.find t.queues q = some { v with head := v.head + 1 } ∧ t.mem = y.mem
          ∧ t.lines = y.lines ∧ t.strands = y.strands

/-- R27, R122, R126, R134, R157, R383, R392, R451: the host's answers. RESUME makes a parked strand go on as by `ERET` from its trap record, at
once or, where it is pre-empted, with its next lanes; KILL ends its gang: every strand of it is gone, on its context or pre-empted, the gang keeps
the accesses and bank-queue entries that they leave unfinished, and the completion is to be written; ADMIT goes on with the held admission as its
checks have left it, and releases the slot; REJECT gives it the status DENIED; PROCEED releases a port or lets a domain rotate its key; an answer with no
subject is counted and does nothing else (logs 44, 52 and 60). -/
def Obligations.HostAnswersAreCarriedOut : Prop :=
  (∀ (s : State) (sid : BitVec 12) (c : Nat),
    let st := s.strandAt c
    let a := st.recordAt 0x805
    let word := fun (o : Nat) => s.peekLE (a + o) 8
    let target := if bitOf (word 0x18) 5 = true then word 0x50 else word 0
    s.coherent → parkedCtx s sid.toNat = some c → st.pl = 0 → isDram a = true → fld (word 0x18) 2 2 = 0 → target % 4 = 0 →
    (s.defer = true ∨ ∀ h ∈ st.shadow.head?, ∀ e ∈ h.2, e.claim = none) →
    ∃ t, exec (.answerResume sid) s = .next t ∧ s.SameBytes t ∧ s.Restored a (t.strandAt c) ∧ (t.strandAt c).run = .run
      ∧ (t.strandAt c).pc = BitVec.ofNat 64 target ∧ (t.strandAt c).pl = 0 ∧ (t.strandAt c).resumed = true
      ∧ (t.strandAt c).cr 0x801 = BitVec.ofNat 64 (word 0) ∧ (t.strandAt c).cr 0x804 = 0
      ∧ (∀ n, n ≠ 0x104 → n ≠ 0x801 → n ≠ 0x804 → (t.strandAt c).cr n = st.cr n)
      ∧ (t.strandAt c).v = st.v ∧ (t.strandAt c).m = st.m ∧ (t.strandAt c).h = st.h ∧ (t.strandAt c).lanes = st.lanes
      ∧ (∀ j, j ≠ c → t.strandAt j = s.strandAt j) ∧ t.cur = s.cur ∧ t.pk = s.pk) ∧
  (∀ (s : State) (sid : BitVec 12) (k : Nat) (p : Preempted), parkedCtx s sid.toNat = none → parkedBack s sid.toNat = some k →
    s.preempted[k]? = some p →
    exec (.answerResume sid) s = .next { s with
      preempted := s.preempted.set k { p with strand := { p.strand with run := .run }, eret := true }
      due := s.due ++ [.laneGrant p.cluster] }) ∧
  (∀ (s : State) (sid : BitVec 12) (st : Strand) (gid : Nat) (g : Gang),
    ((∃ c, parkedCtx s sid.toNat = some c ∧ st = s.strandAt c)
      ∨ (parkedCtx s sid.toNat = none ∧ ∃ k p, parkedBack s sid.toNat = some k ∧ s.preempted[k]? = some p ∧ st = p.strand)) →
    let members := ((s.strands.map (fun p => p.2)) ++ s.preempted.map (fun p => p.strand)).filter (fun k => k.run != .free && k.gang == some gid)
    st.gang = some gid → Tab.find s.gangs gid = some g → Tab.wf s.strands = true →
    ∃ t, exec (.answerKill sid) s = .next t
      ∧ (∃ r, Tab.find t.gangs gid = some { g with
            killed := some (g.killed.getD ((st.cr 0x802).toNat % 256)), stopped := 2 ^ g.size - 1, rest := g.rest ++ r }
          ∧ (∀ k ∈ r, k.loads ≠ [] ∨ k.stores ≠ [] ∨ k.bankQ ≠ [])
          ∧ ((∀ k ∈ members, k.loads = [] ∧ k.stores = [] ∧ k.bankQ = []) → r = []))
      ∧ (∀ j, (s.strandAt j).run ≠ .free → (s.strandAt j).gang = some gid → (t.strandAt j).run = .free)
      ∧ (∀ j, (s.strandAt j).gang ≠ some gid → t.strandAt j = { s.strandAt j with csr := (t.strandAt j).csr })
      ∧ (∀ p ∈ t.preempted, p.strand.gang ≠ some gid) ∧ Task.completionWrite gid ∈ t.due ∧ t.pk = s.pk ∧ t.cur = s.cur) ∧
  (∀ (s : State) (q : BitVec 16) (n : BitVec 64) (u : Queue) (h : HeldSlot), heldSlot s q.toNat n.toNat = some h →
    Tab.find s.queues q.toNat = some u → h.gang.queue = q.toNat →
    (∃ t, exec (.answerAdmit q n) s = .next t ∧ t = admitGang { h.gang with age := s.fordNow } s
      ∧ Tab.find t.queues q.toNat = some { u with head := u.head + 1, taken := false } ∧ ∀ k ∈ t.held, k.queue ≠ q.toNat) ∧
    ∃ t g, exec (.answerReject q n) s = .next t ∧ Tab.find t.gangs (2 ^ 32 + q.toNat) = some g ∧ g.failed = some (3, 0)
      ∧ g.ticket = h.gang.ticket ∧ g.queue = q.toNat ∧ g.compl = h.gang.compl ∧ g.utag = h.gang.utag
      ∧ Tab.find t.queues q.toNat = some { u with taken := true } ∧ (∀ k ∈ t.held, k.queue ≠ q.toNat)
      ∧ Task.completionWrite (2 ^ 32 + q.toNat) ∈ t.due ∧ s.SameBytes t ∧ t.strands = s.strands ∧ t.pk = s.pk) ∧
  (∀ (s : State) (j : BitVec 64),
    (∀ p, Tab.find s.ports j.toNat = some p → p.st = 4 →
      exec (.answerProceed 5 j) s = .next { s with ports := Tab.set s.ports j.toNat { p with st := 3, since := s.time.toNat } }) ∧
    ∀ k, Tab.find s.domKeys j.toNat = some k → k.wait = true → hasDomains s = true →
      let a := domainAt s j.toNat
      let gen := ((domainEntry s j.toNat).gen + 1) % 2 ^ 32
      ∃ t m, exec (.answerProceed 6 j) s = .next t ∧ Tab.find t.domKeys j.toNat = some m ∧ m.wait = false ∧ t.strands = s.strands
        ∧ t.pk = s.pk ∧ (s.coherent → isDram a = true → s.goodAt .home (a + 32) = true →
            s.PutBytes (a + 0x24) 4 gen t
            ∧ m = { domainEntry s j.toNat with gen := gen, key := domainKey (s.peekLE a 32) j.toNat gen })) ∧
  ∀ (s : State) (sid : BitVec 12) (q : BitVec 16) (j : BitVec 64),
    let parked := parkedCtx s sid.toNat = none ∧ parkedBack s sid.toNat = none
    ∀ p ∈ [(Instr.answerWithoutSubject, True), (.answerResume sid, parked), (.answerKill sid, parked),
        (.answerAdmit q j, heldSlot s q.toNat j.toNat = none), (.answerReject q j, heldSlot s q.toNat j.toNat = none),
        (.answerProceed q j, (q = 5 → ∀ p, Tab.find s.ports j.toNat = some p → p.st ≠ 4)
          ∧ (q = 6 → ∀ k, Tab.find s.domKeys j.toNat = some k → k.wait = false))],
      p.2 → ∃ t, exec p.1 s = .next t ∧ t = { s with counters := t.counters } ∧ Tab.get t.counters 8 = Tab.get s.counters 8 + 1
        ∧ ∀ k, k ≠ 8 → Tab.get t.counters k = Tab.get s.counters k


/-- R80, R84, R121, R122, R131 to R132, R135, R136, R142, R158, R182, R184, R221: what happens to contexts, granules and lanes without an
instruction: a lane allocator grants to the strand that waits alone, whose `VGRANT` is then complete; a zeroed granule becomes Free, or Held; a
trap is delivered; a strand that the Ford pre-empts leaves its state in its record and its context free, and resumes from there with its lanes;
timers and deadlines make strands ready, and a TIMER is taken in `IDLE` at any level; a completed walk fills the cluster's TLB. A trap waits for accesses that
have begun. The choice and the order of granules, the words that a pre-emption saves, TIMER at the other levels and the table walk rest on logs 13, 14, 62 and
50. -/
def Obligations.ContextsChangeWithoutInstructions : Prop :=
  (∀ (s : State) (cl : BitVec 4), unplaced s = [] →
    (waiters s cl.toNat = [] → exec (.laneGrant cl) s = .next s) ∧
    ∀ w c n d, waiters s cl.toNat = [w] → w.who = .strand c → (s.strandAt c).want = some (n, d) → n / 8 ≤ (grantable s cl.toNat).length →
      let st := s.strandAt c
      ∃ t, exec (.laneGrant cl) s = .next t ∧ (t.strandAt c).lanes = n ∧ (t.strandAt c).want = none ∧ (t.strandAt c).vl = 0
        ∧ (t.strandAt c).v = [] ∧ (t.strandAt c).m = [] ∧ (t.strandAt c).h = [] ∧ (t.strandAt c).tiles = []
        ∧ (t.strandAt c).pc = st.pc + 4 ∧ (t.strandAt c).latch = 0
        ∧ (∀ r, (t.strandAt c).xr r = if r ≠ 0 ∧ (r = d ∨ st.copies r = true) then BitVec.ofNat 64 n else st.xr r)
        ∧ (∀ j, j ≠ c → t.strandAt j = s.strandAt j) ∧ t.mem = s.mem
        ∧ ∀ g, g < 8 → t.gran cl.toNat g =
            if g ∈ (grantable s cl.toNat).take (n / 8) then
              (match s.gran cl.toNat g with
                | .stale p => if p = st.owner then .held st.owner else .lent st.owner p
                | _ => .held st.owner)
            else s.gran cl.toNat g) ∧
  (∀ (s : State) (cl : BitVec 4) (g : BitVec 3) (next : Option Nat), s.gran cl.toNat g.toNat = .zeroing next →
    ∃ t, exec (.granuleZeroed cl g) s = .next t ∧ t.gran cl.toNat g.toNat = (match next with | some q => .held q | none => .free)
      ∧ (∀ a b, a * 8 + b ≠ cl.toNat * 8 + g.toNat → t.gran a b = s.gran a b) ∧ Task.laneGrant cl.toNat ∈ t.due ∧ t.strands = s.strands
      ∧ t.mem = s.mem) ∧
  (∀ (s : State) (c cause : BitVec 8) (v : BitVec 64), (s.strandAt c.toNat).run ≠ .free → cause.toNat ≠ 0 → cause.toNat < 0x15 →
    let waits := haltWaits { s with cur := c.toNat } || begunAccess { s with cur := c.toNat }
    (waits = true → exec (.trapDelivery c cause v) s = .next s) ∧
    (waits = false → exec (.trapDelivery c cause v) s
      = .next { deliver { s with cur := c.toNat } { cause := cause.toNat, eval := v.toNat } with cur := s.cur })) ∧
  (∀ (s : State) (c : BitVec 8),
    let st := s.strandAt c.toNat
    let cl := clusterOf c.toNat
    let a := st.recordAt 0x805
    let rows := tapArea s st.sid
    s.coherent → shouldPreempt s c.toNat = true → haltWaits { s with cur := c.toNat } = false →
    begunAccess { s with cur := c.toNat } = false → trapFirst s c.toNat = none →
    (∀ b, st.run ≠ .parked b) → st.loads = [] → st.stores = [] → st.bankQ = [] → st.readQ = [] →
    (∀ e ∈ st.vq, e.held = [] ∧ e.begun = []) → isDram a = true → (a + 4096 ≤ rows ∨ rows + 65536 ≤ a) →
    ∃ t p, exec (.preemption c) s = .next t ∧ (t.strandAt c.toNat).run = .free ∧ t.preempted = s.preempted ++ [p]
      ∧ p.cluster = cl ∧ p.strand.pool = st.pool ∧ p.strand.x = st.x ∧ p.strand.lanes = st.lanes ∧ p.strand.run = .run ∧ p.eret = false
      ∧ p.grans = grantedTo s cl st.owner ∧ (∀ j, j ≠ c.toNat → t.strandAt j = s.strandAt j)
      ∧ t.peekLE a 8 = st.pc.toNat ∧ t.peekLE (a + 8) 8 = 0x15 ∧ t.peekLE (a + 0x20) 8 = 0x15
      ∧ (∀ r, r < 32 → t.peekLE (a + 0x100 + 8 * r) 8 = (st.xr r).toNat)
      ∧ (∀ q, (q < a ∨ a + 4096 ≤ q) → (q < rows ∨ rows + 65536 ≤ q) → t.peek q = s.peek q)
      ∧ ∀ g, g < 8 → t.gran cl g = (match s.gran cl g with
          | .held k => if k = st.owner then .stale st.owner else .held k
          | .lent k o => if k = st.owner then .stale o else .lent k o
          | .zeroing (some k) => if k = st.owner then .stale st.owner else .zeroing (some k)
          | x => x)) ∧
  (∀ (s : State) (c : BitVec 8), shouldPreempt s c.toNat = false → exec (.preemption c) s = .next s) ∧
  (∀ (s : State) (sid : BitVec 12) (k c : Nat) (cs l : List Nat) (p : Preempted) (w : Waiter),
    let a := p.strand.recordAt 0x805
    let word := fun (o : Nat) => s.peekLE (a + o) 8
    s.coherent → unplaced s = [] → preemptedAt s sid.toNat = some k → s.preempted[k]? = some p → waiters s p.cluster = [w] →
    w.who = .back k → freeContexts s p.cluster = c :: cs → resumeGrans s p = some l → bitOf (p.strand.cr 0x10B).toNat 1 = false →
    p.eret = false → isDram a = true →
    ∃ t, exec (.strandResume sid) s = .next t ∧ s.SameBytes t ∧ t.preempted = s.preempted.eraseIdx k
      ∧ (t.strandAt c).run = .run ∧ (t.strandAt c).pool = p.strand.pool ∧ (t.strandAt c).pl = p.strand.pl ∧ (t.strandAt c).lanes = 8 * l.length
      ∧ (t.strandAt c).pc = BitVec.ofNat 64 ((if bitOf (word 0x18) 5 = true then word 0x50 else word 0) / 4 * 4)
      ∧ (∀ r, 1 ≤ r → r < 32 → (t.strandAt c).xr r = BitVec.ofNat 64 (word (0x100 + 8 * r)))
      ∧ (∀ j, j ≠ c → t.strandAt j = s.strandAt j)
      ∧ ∀ g, g < 8 → t.gran p.cluster g =
          if g ∈ l then (match s.gran p.cluster g with
            | .free => .held p.strand.owner
            | .stale q => if q = p.strand.owner then .held p.strand.owner else .lent p.strand.owner q
            | x => x)
          else s.gran p.cluster g) ∧
  (∀ (s : State) (c : BitVec 8),
    let st := s.strandAt c.toNat
    let taken := st.pl = 0 ∨ (st.pl = 1 ∧ bitOf (st.stat 0x804) 4 = false)
    let goes := fun (i : Instr) (u : Strand) => exec i s = .next (s.setStrand c.toNat u)
    let ended := { st with run := .run, pc := st.pc + 4, latch := 0, resumed := false, behind := none }
    (st.cr 0x807 ≤ s.time → st.run = .run → goes (.timerTrap c) { st with timer := true }) ∧
    (∀ d, st.cr 0x807 ≤ s.time → st.run = .idle d → taken → goes (.timerTrap c) { ended with timer := true }) ∧
    (∀ d, st.cr 0x807 ≤ s.time → st.run = .waitLine d → taken →
      goes (.timerTrap c) { st with run := .run, deadline := none, timer := true }) ∧
    (∀ d, st.cr 0x807 ≤ s.time → st.run = .waitLine d → ¬taken → goes (.timerTrap c) { st with timer := true }) ∧
    (∀ d, st.cr 0x807 ≤ s.time → st.run = .idle d → ¬taken → exec (.timerTrap c) s
      = .next (onCtx c.toNat (fun s => trapOr s s { cause := cTIMER, eval := s.time.toNat }) (s.setStrand c.toNat { st with timer := true }))) ∧
    (s.time < st.cr 0x807 ∨ st.run = .free → exec (.timerTrap c) s = .next s) ∧
    (∀ d, st.run = .idle (some d) → d ≤ s.time.toNat → goes (.idleDeadline c) ended) ∧
    ∀ line d, st.run = .waitLine line → st.deadline = some d → d ≤ s.cyclesOf (clusterOf c.toNat) →
      goes (.waitTimeout c) { st with run := .run }) ∧
  ∀ (s u : State) (c : BitVec 8) (va : BitVec 64) (kind : BitVec 4) (e : TlbEntry), va.toNat < 2 ^ 55 →
    walk (s.strandAt c.toNat).asid va.toNat kind.toNat s = .ok e u →
    checkRegion ((u.pkr 0x440).toNat % 128) va.toNat kind.toNat e u = .ok () u →
    ∃ t, exec (.tableWalk c va kind) s = .next t ∧ s.SameBytes t ∧ t = { u with tlb := tlbInsert u.tlb (clusterOf c.toNat) e }

/-- R33, R313, R316 to R319, R383, R392, R394: clearing `BERR`; refresh and alerts, which change no result; the visit that a held bank opens for
the centre, once in four rows; a patrol scrub, which rewrites the corrected words of a row and leaves the uncorrectable ones; the rotation of a
domain's key, at once or by the host's leave; and the reload of a domain's entry, whose indexed data leave the hash index, while a rotation that waits for the host goes on
waiting. -/
def Obligations.StacksAndKeysChangeWithoutInstructions : Prop :=
  (∀ (s : State) (b : BitVec 12) (v : BitVec 64),
    ∃ t, exec (.berrWrite b v) s = .next t ∧ t = { s with banks := t.banks }
      ∧ (∀ i, i < 128 → (t.bank b.toNat).berr.getLsbD i = ((s.bank b.toNat).berr.getLsbD i && !(decide (i < 2) && v.getLsbD i)))
      ∧ (t.bank b.toNat).acc = (s.bank b.toNat).acc ∧ (t.bank b.toNat).tables = (s.bank b.toNat).tables
      ∧ ∀ k, k ≠ b.toNat → t.bank k = s.bank k) ∧
  (∀ (s : State) (b : BitVec 12), ∀ p ∈ [(Instr.refresh b, 0), (.activationCountMitigation b, 1)],
    ∃ t, exec p.1 s = .next t ∧ t = { s with counters := t.counters } ∧ Tab.get t.counters p.2 = Tab.get s.counters p.2 + 1
      ∧ ∀ k, k ≠ p.2 → Tab.get t.counters k = Tab.get s.counters k) ∧
  (∀ (s : State) (b : BitVec 12),
    let x := s.bank b.toNat
    let opened := fun (k : Nat) => exec (.centreVisit b) s = .next (s.setBank b.toNat { x with visit := some (k, none) })
    (x.held = none → exec (.centreVisit b) s = .next s) ∧
    ∀ k, x.held = some k →
      (x.visit = none → opened k) ∧
      ∀ j r, x.visit = some (j, r) → (j / 4 < k / 4 → opened k) ∧ (k / 4 ≤ j / 4 → exec (.centreVisit b) s = .next s)) ∧
  (∀ (s : State) (b : BitVec 12) (row : BitVec 17),
    let first := (b.toNat / 512 * 2 ^ 36 + row.toNat * 2 ^ 19 + b.toNat % 512 * 2 ^ 10) / 32
    let found := fun (c : Nat) => ((range' first 32).filter (fun w => (s.eccOf w).1 == c)).length
    ∃ t, exec (.patrolScrub b row) s = .next t ∧ t.lines = s.lines ∧ t.strands = s.strands
      ∧ (∀ w, if first ≤ w ∧ w < first + 32 ∧ (s.eccOf w).1 = 1 then Tab.find t.wordErr w = none ∧ t.rawWord w = (s.eccOf w).2
          else Tab.find t.wordErr w = Tab.find s.wordErr w ∧ t.rawWord w = s.rawWord w)
      ∧ Tab.get t.counters 2 = Tab.get s.counters 2 + 1 ∧ Tab.get t.counters 3 = Tab.get s.counters 3 + found 1
      ∧ Tab.get t.counters 4 = Tab.get s.counters 4 + found 2) ∧
  (∀ (s : State) (d : BitVec 16) (k : DomKey), Tab.find s.domKeys d.toNat = some k → k.valid = true → k.rotp ≠ 0 → k.wait = false →
    k.due ≤ s.time.toNat → hasDomains s = true →
    (bitOf (s.pkr 0x800).toNat 6 = false →
      let a := domainAt s d.toNat
      let gen := ((domainEntry s d.toNat).gen + 1) % 2 ^ 32
      ∃ t m, exec (.keyRotation d) s = .next t ∧ Tab.find t.domKeys d.toNat = some m ∧ m.wait = false ∧ t.strands = s.strands ∧ t.pk = s.pk
        ∧ (s.coherent → isDram a = true → s.goodAt .home (a + 32) = true →
            s.PutBytes (a + 0x24) 4 gen t
            ∧ m = { domainEntry s d.toNat with gen := gen, key := domainKey (s.peekLE a 32) d.toNat gen })) ∧
    (bitOf (s.pkr 0x800).toNat 6 = true →
      ∃ t, exec (.keyRotation d) s = .next t ∧ Tab.find t.domKeys d.toNat = some { k with wait := true } ∧ t.mem = s.mem
        ∧ ∃ e ∈ t.hostEvents, e.kind = 6 ∧ e.subject = d.toNat)) ∧
  (∀ (s : State) (v : BitVec 64),
    let d := v.toNat % 65536
    s.ddrldBusy = none → Tab.wf s.entries = true →
    ∃ t, exec (.ddrldWrite v) s = .next t ∧ t.ddrldBusy = some d
      ∧ Tab.find t.domKeys d = some { domainEntry s d with wait := ((Tab.find s.domKeys d).map (fun k => k.wait)).getD false } ∧ Task.ddrldDone ∈ t.due
      ∧ s.SameBytes t ∧ t.lines = s.lines ∧ t.strands = s.strands
      ∧ ∀ p ∈ t.entries, p.2.ix = true → p.2.key.1 ≠ if d = 65535 then 65536 else d) ∧
  ∀ s : State, exec .ddrldReloadComplete s = .next { s with ddrldBusy := none }

/-- R141, R361, R363, R370, R372, R408, R418, R426, R428, R468, R475, R478: the copy engines' own steps, and the writes of the tap unit's and the sampler's
registers and of what machine firmware loads: a strip becomes available or fails; an operation's source is read, once the strand's earlier accesses are performed, or it fails;
output bytes are written and their operations become visible; a drained slot is Free; a failed access is held; a row that joins a sampler mask
starts afresh; machine firmware loads `FPKG` and `TIME`, sets the power cap from 600 to 2,400 W and extends a measurement register, under numbers
that are the model's (log 20); and any other register is written as by `CWR`. What an engine does by itself is an event of its own (log 7). -/
def Obligations.EnginesGoOnWithoutInstructions : Prop :=
  (∀ (s u : State) (g : BitVec 4) (k : BitVec 3) (p : Slot),
    let key := slotKey g.toNat k.toNat
    let n := min p.strip (p.len - p.strips * p.strip) * (2 ^ typeLog2 p.etype)
    Tab.find s.slots key = some p → canFetch s key p = true →
    (∀ l x, pullOut 4 key n s = .ok l u → Tab.find u.slots key = some x →
      ∃ t q, exec (.stripFetch g k) s = .next t ∧ Tab.find t.slots key = some q ∧ q.strips = p.strips + 1
        ∧ q.half p.strips = .full p.strips (BitVec.ofNat 262144 (ofBytesLE l)) ∧ q.claimed = x.claimed ∧ q.fed = x.fed ∧ t.mem = u.mem) ∧
    ∀ tr, pullOut 4 key n s = .error (.trap tr) u →
      ∃ t q, exec (.stripFetch g k) s = .next t ∧ Tab.find t.slots key = some q ∧ q.strips = p.strips ∧ q.half p.strips = .failed p.strips
        ∧ q.fault = some { reason := tr.w0, w1 := p.strips * p.strip, va := tr.w2, w3 := tr.w3 } ∧ t.mem = u.mem) ∧
  (∀ (s u : State) (g : BitVec 4) (k sc : BitVec 3) (p : Slot),
    let key := slotKey g.toNat k.toNat
    Tab.find s.slots key = some p → p.write = true → p.up = none → p.fault = none → linked s key = true →
    (∀ o, p.ops.find? (fun o => !o.released) = some o →
      (engineMay s p o.seq = false → exec (.writeOperationReleased g k) s = .next s) ∧
      (engineMay s p o.seq = true → (chainDown s 4 key).Nodup →
        (∀ l, (if o.n = 0 then l = [] ∧ u = s else engReadAll key o.src (o.n * p.w) (o.n * p.w / 4096 + 1) s = .ok l u) →
          Tab.find u.slots key = some p →
          ∃ t q, exec (.writeOperationReleased g k) s = .next t ∧ Tab.find t.slots key = some q ∧ q.fed = p.fed + o.n * p.w
            ∧ (∃ r ∈ q.ops, r.ticket = o.ticket ∧ r.released = true) ∧ t.mem = u.mem
            ∧ (p.down = none → p.xf = 0 → q.inbuf = [] ∧ q.outbuf = p.outbuf ++ p.inbuf ++ l)) ∧
        ∀ tr, o.n ≠ 0 → engReadAll key o.src (o.n * p.w) (o.n * p.w / 4096 + 1) s = .error (.trap tr) u →
          ∃ t, exec (.writeOperationReleased g k) s = .next t ∧ t.mem = u.mem
            ∧ Tab.find t.slots key = some { p with fault := some { reason := tr.w0, w1 := o.ticket, va := tr.w2, w3 := tr.w3 } })) ∧
    (p.down = none → p.outbuf ≠ [] → p.sending = 0 → nextWrite (p.dst + p.sent) p.outbuf = p.outbuf → Tab.find u.slots key = some p →
      engWrite key (p.dst + p.sent) p.outbuf s = .ok () u →
      let sent := p.sent + p.outbuf.length
      ∃ t, exec (.writeOperationVisible g k sc) s = .next t ∧ t.mem = u.mem ∧ t.lines = u.lines
        ∧ Tab.find t.slots key = some { p with
            outbuf := [], sent := sent, retry := false
            ops := p.ops.dropWhile (fun o => o.released && decide (1 ≤ o.level) && decide (o.mark ≤ sent)) })) ∧
  (∀ (s : State) (g : BitVec 4) (k : BitVec 3) (p : Slot),
    let key := slotKey g.toNat k.toNat
    Tab.find s.slots key = some p →
    (p.draining = true → p.up = none → p.down = none → p.ops = [] → p.inbuf = [] → p.outbuf = [] → p.fault = none →
      chainOpen s [key] = false →
      ∃ t, exec (.slotDrained g k) s = .next t ∧ Tab.find t.slots key = none ∧ (∀ q, q ≠ key → Tab.find t.slots q = Tab.find s.slots q)
        ∧ t.mem = s.mem) ∧
    ∀ o r va code, p.draining = false → p.write = true → p.fault = none → p.ops = o :: r →
      exec (.accessFailure g k va code) s = .next { s with
        slots := Tab.set s.slots key { p with fault := some { reason := 10, w1 := o.ticket, va := va.toNat, w3 := code.toNat, out := o.released } } }) ∧
  (∀ (s : State) (n : BitVec 2) (v : BitVec 64),
    let old := s.st.cr (0x402 + n.toNat)
    ∃ t, exec (.sqmWrite n v) s = .next t ∧ s.OnlyStrand t ∧ t.st.cr (0x402 + n.toNat) = v ∧ t.st.x = s.st.x
      ∧ (∀ j, j ≠ 0x402 + n.toNat → t.st.cr j = s.st.cr j)
      ∧ (∀ i, i < 64 → v.getLsbD i = true → old.getLsbD i = false →
          (t.st.tapRow (64 * n.toNat + i)).count = 0 ∧ (t.st.tapRow (64 * n.toNat + i)).scores = []
          ∧ (t.st.tapRow (64 * n.toNat + i)).sel = (s.st.tapRow (64 * n.toNat + i)).sel ∧ Tab.get t.st.uc (64 * n.toNat + i) = 0)
      ∧ ∀ r, (∀ i, i < 64 → r = 64 * n.toNat + i → v.getLsbD i = false ∨ old.getLsbD i = true) →
          t.st.tapRow r = s.st.tapRow r ∧ Tab.get t.st.uc r = Tab.get s.st.uc r) ∧
  (∀ (s : State) (v : BitVec 64),
    let row := (s.st.cr 0x3C1).toNat % 256
    (∃ t, exec (.trswWrite v) s = .next t ∧ s.OnlyStrand t
      ∧ t.st.tapRow row = { count := v.toNat % 256, sel := if 16 < fld v.toNat 8 5 then 0 else fld v.toNat 8 5, scores := [] }
      ∧ (∀ r, r ≠ row → t.st.tapRow r = s.st.tapRow r) ∧ t.st.csr = s.st.csr ∧ t.st.x = s.st.x) ∧
    let srow := (s.st.cr 0x407).toNat % 256
    ∃ t, exec (.sucWrite v) s = .next t ∧ s.OnlyStrand t ∧ Tab.get t.st.uc srow = v.toNat % 65536
      ∧ (∀ r, r ≠ srow → Tab.get t.st.uc r = Tab.get s.st.uc r) ∧ t.st.csr = s.st.csr ∧ t.st.x = s.st.x) ∧
  ∀ (s : State) (n : BitVec 12) (v : BitVec 64),
    (n = 0x440 → exec (.registerWrite n v) s = .next (s.setPk 0x440 (v % 128))) ∧
    (n = 0x011 → exec (.registerWrite n v) s = .next { s with time := v }) ∧
    (n = 0xFF0 → exec (.registerWrite n v) s = .next (if 600 ≤ v.toNat ∧ v.toNat ≤ 2400 then { s with powerCap := v.toNat } else s)) ∧
    (0xFF1 ≤ n.toNat → n.toNat ≤ 0xFF7 → ∃ d : BitVec 256, exec (.registerWrite n v) s
      = .next { s with meas := Tab.set s.meas (n.toNat - 0xFF0) (extendMeas (Tab.get s.meas (n.toNat - 0xFF0)) d) }) ∧
    (n ≠ 0x440 → n ≠ 0x011 → ¬(0xFF0 ≤ n.toNat ∧ n.toNat ≤ 0xFF7) →
      exec (.registerWrite n v) s = .next (writeCr s n.toNat v.toNat v.toNat (some v.toNat)))


/-! ### Ports, packages and the host (R450 to R466) -/

/-- R24, R27, R449 to R451: a port trains when it is enabled, is Up with a partner of the route table that offers a supported format and Down with one
that offers none (log 48), retrains or waits for the host on errors, and
fails when training or retraining takes too long, also where it completes after that time; calibration changes no port. What it sends stays in its replay buffer of 256 flits until it is
acknowledged, and waits while the buffer is full; it accepts the flit with the next sequence number, acknowledges and drops one already accepted,
and asks for replay at a damaged one or a gap; the messages of an accepted flit are then there to be acted on; replay sends again what is not acknowledged. The sequence numbers have 8 bits (the model's choice,
log 59). An event whose conditions do not hold leaves the state as it is (log 54). -/
def Obligations.PortsFollowTheirStates : Prop :=
  ∀ (s : State) (p : BitVec 7),
    let q := s.port p.toNat
    let now := s.time.toNat
    let held := bitOf (s.pkr 0x800).toNat 5
    let fresh := fun (x : Port) => { x with rxSeq := 0, txSeq := 0, replay := [], backlog := [] }
    let becomes := fun (t : State) (x : Port) => t.port p.toNat = x ∧ ∀ k, k ≠ p.toNat → t.port k = s.port k
    let goes := fun (i : Instr) (x : Port) =>
      ∃ t, exec i s = .next t ∧ t = { s with ports := t.ports, due := t.due, counters := t.counters, hostEvents := t.hostEvents } ∧ becomes t x
    (q.st = 0 ∨ q.st = 5 → goes (.portEnable p) { q with st := 1, since := now }) ∧
    (q.st ≠ 0 → q.st ≠ 5 → exec (.portEnable p) s = .next s) ∧
    let trains := q.st = 1 ∧ now < q.since + 10000000
    let failed := fresh { q with st := 5, since := now }
    (∀ peer : BitVec 7, trains → routed s peer.toNat p.toNat = true →
      ∃ t, exec (.trainingComplete p ⟨peer, 1⟩) s = .next t ∧ t = { s with ports := t.ports, due := t.due, banks := t.banks }
        ∧ becomes t (fresh { q with st := 2, since := now, upAt := s.fordNow, peer := peer.toNat })) ∧
    (∀ peer : BitVec 7, trains → goes (.trainingComplete p ⟨peer, 0⟩) { q with st := 0, since := now }) ∧
    (∀ peer : BitVec 7, trains → routed s peer.toNat p.toNat = false → exec (.trainingComplete p ⟨peer, 1⟩) s = .next s) ∧
    (q.st = 1 → q.since + 10000000 ≤ now →
      goes (.trainingTimeout p) failed ∧ ∀ (peer : BitVec 7) offers, goes (.trainingComplete p ⟨peer, offers⟩) failed) ∧
    (q.st ≠ 1 → ∀ (peer : BitVec 7) offers, exec (.trainingComplete p ⟨peer, offers⟩) s = .next s) ∧
    (¬(q.st = 1 ∧ q.since + 10000000 ≤ now) → exec (.trainingTimeout p) s = .next s) ∧
    (q.st = 2 → goes (.linkErrorDetected p) { q with st := if held then 4 else 3, since := now, nrt := min (q.nrt + 1) 65535 }) ∧
    (q.st = 2 → held = true → ∃ t e, exec (.linkErrorDetected p) s = .next t ∧ e ∈ t.hostEvents ∧ e.kind = 5 ∧ e.subject = p.toNat) ∧
    (q.st ≠ 2 → exec (.linkErrorDetected p) s = .next s) ∧
    (q.st = 3 → now < q.since + 2000000 →
      ∃ t, exec (.retrainComplete p) s = .next t ∧ t = { s with ports := t.ports, due := t.due, out := t.out }
        ∧ becomes t { q with st := 2, since := now, upAt := s.fordNow } ∧ t.out = s.out ++ q.replay.map Prod.snd) ∧
    (q.st = 3 → q.since + 2000000 ≤ now → goes (.retrainTimeout p) failed ∧ goes (.retrainComplete p) failed) ∧
    (q.st ≠ 3 → exec (.retrainComplete p) s = .next s) ∧
    (¬(q.st = 3 ∧ q.since + 2000000 ≤ now) → exec (.retrainTimeout p) s = .next s) ∧
    (∃ t, exec (.linkCalibration p) s = .next t ∧ t = { s with counters := t.counters } ∧ Tab.get t.counters 5 = Tab.get s.counters 5 + 1) ∧
    (∀ m, Tab.find s.ports p.toNat = some q →
      let k := (q.txSeq + 1) % 256
      (q.replay.length < 256 → q.backlog = [] → sendFlit p.toNat m s
        = { s with ports := Tab.set s.ports p.toNat { q with txSeq := k, replay := q.replay ++ [(k, m)] }, out := s.out ++ [m] }) ∧
      (256 ≤ q.replay.length ∨ q.backlog ≠ [] → sendFlit p.toNat m s
        = { s with ports := Tab.set s.ports p.toNat { q with backlog := q.backlog ++ [m] } })) ∧
    (∀ seq ok ack nak msgs, q.st ≠ 2 → exec (.flitReceive p seq ⟨ok, ack, nak, msgs⟩) s = .next s) ∧
    (∀ seq ack nak msgs, q.st = 2 → exec (.flitReceive p seq ⟨0, ack, nak, msgs⟩) s = .next (s.send (.flitNak p.toNat q.rxSeq))) ∧
    ∀ (seq ack : BitVec 8) (nak : BitVec 1) (msgs : BitVec 4), q.st = 2 →
      let next := seq.toNat = (q.rxSeq + 1) % 256
      let had := (q.rxSeq + 256 - seq.toNat) % 256 < 128
      let answer : OutMsg := if next then .flitAck p.toNat seq.toNat else if had then .flitAck p.toNat q.rxSeq else .flitNak p.toNat q.rxSeq
      let acked := match q.replay with
        | [] => 0
        | f :: _ => (ack.toNat + 256 - f.1) % 256 + 1
      let kept := if q.replay.length < acked then q.replay else q.replay.drop acked
      let taken := fun (x : Port) => if next then { x with rxSeq := seq.toNat, ready := q.ready + msgs.toNat } else x
      let gets := fun (x : Port) (l : List OutMsg) => ∃ t, exec (.flitReceive p seq ⟨1, ack, nak, msgs⟩) s = .next t
        ∧ t = { s with ports := t.ports, out := s.out ++ l } ∧ becomes t (taken x)
      (q.backlog = [] → gets { q with replay := kept } ((if nak = 1 then kept.map Prod.snd else []) ++ [answer])) ∧
      ∀ m, q.backlog = [m] → q.replay.length = 256 → nak = 0 →
        let k := (q.txSeq + 1) % 256
        gets { q with replay := kept ++ [(k, m)], txSeq := k, backlog := [] } [m, answer]

/-- R313, R388, R452 to R454, R456, R457, R461: a message that an accepted flit has brought to a port is taken, a request while fewer than 256 wait there
(its order, the drop where none is there, and the 65,536 cycles of the Ford's island are the model's: log 49); one for another package number is dropped and counted; a home refuses a request of a package it does not admit;
an admitted one waits behind those of its port, and for a held bank, its slot In progress; the home performs a write or an atomic once under its tag and
repeats the stored completion of one it has performed; a read is answered with the bytes at the home. Answers go out on the port that the tag
selects. A completion, a refusal or an expired wait for a port ends the transaction of its home and tag; a request without a completion is sent
again with the same tag, on the Up port that the tag selects. An arrival waits for its turn where work is left to its events (log 7). -/
def Obligations.TransactionsArePerformedOnce : Prop :=
  (∀ (s0 : State) (dst port src : BitVec 7) (tag : BitVec 16) (op : BitVec 5) (z : BitVec 2) (a : BitVec 52) (mt : BitVec 2) (dom : BitVec 16)
      (data : BitVec 512) (be : BitVec 64),
    let i := Instr.remoteRequestArrival ⟨dst, port, src⟩ tag op z a mt dom data be
    let s := s0.setPort port.toNat { s0.port port.toNat with ready := (s0.port port.toNat).ready - 1 }
    let there := 0 < (s0.port port.toNat).ready ∧ queueFull s0 port.toNat = false
    let pa := a.toNat
    let admitted := bitOf ((s.pkr 0x851).toNat + (s.pkr 0x852).toNat * 2 ^ 64) src.toNat
    let key := src.toNat * 4096 + tag.toNat % 4096
    let back := fun (m : OutMsg) (w : State) =>
      let v := noteRead w (routeAt w src.toNat) 16
      match portFor v src.toNat tag.toNat with
      | some p => Host.Outcome.next (sendFlit p m v)
      | none => .next (v.send m)
    let fresh := ∀ w, Tab.find s.window key = some w → 1 ≤ (tag.toNat + 65536 - w.tag) % 65536 ∧ (tag.toNat + 65536 - w.tag) % 65536 ≤ 32768
    let answered := fun (v : Nat) (w : State) =>
      exec i s0 = back (.completion src.toNat tag.toNat 0 v) w ∧ w.out = s.out ∧ w.strands = s.strands ∧ w.pk = s.pk
    let kept := fun (v : Nat) (w : State) => Tab.find w.window key = some { tag := tag.toNat, fin := true, data := v, err := 0 }
    let req : Req := { src := src.toNat, tag := tag.toNat, op := op.toNat, size := z.toNat, pa := pa, br := mt == 1, dom := dom.toNat
                       data := data.toNat, be := be.toNat }
    let ahead := s.inbox.filter (fun m => m.lane == port.toNat)
    let here := dst.toNat = (s.pkr 0x440).toNat % 128
    let held := s.defer = true ∨ ahead ≠ [] ∨ (mt = 1 ∧ centreOpen s pa = false)
    (¬there → exec i s0 = .next s0) ∧
    (there → ¬here → exec i s0 = .next (s.count 9)) ∧
    (there → here → admitted = false → exec i s0 = back (.refusal src.toNat tag.toNat) s) ∧
    (there → here → isDram pa = false → exec i s0 = back (.refusal src.toNat tag.toNat) s) ∧
    (there → here → admitted = true → isDram pa = true → mt.toNat ≤ 1 → held →
      (op = 0 → exec i s0 = .next { s with inbox := s.inbox ++ [.request port.toNat req] }) ∧
      (op = 1 → fresh →
        exec i s0 = .next { s with
          inbox := s.inbox ++ [.request port.toNat req]
          window := Tab.set s.window key { tag := tag.toNat, fin := false, data := 0, err := 0 } })) ∧
    (∀ w, there → here → admitted = true → isDram pa = true → mt.toNat ≤ 1 → op = 1 → Tab.find s.window key = some w → w.tag = tag.toNat →
      w.fin = false → exec i s0 = .next s) ∧
    (there → here → admitted = true → isDram pa = true → mt = 0 → s.defer = false → ahead = [] → s.coherent →
      (op = 1 → fresh → (∀ k, k < 64 - pa % 64 → s.goodAt .home (pa + k) = true) →
        ∃ w, answered 0 w ∧ kept 0 w ∧ w.coherent
          ∧ ∀ q, w.peek q = if pa ≤ q ∧ q < pa + (64 - pa % 64) ∧ be.getLsbD (q - pa) = true then BitVec.ofNat 8 (data.toNat / 256 ^ (q - pa))
              else s.peek q) ∧
      (∀ n, op = 0 → n ≤ 64 - pa % 64 → be.toNat = 2 ^ n - 1 → (∀ k, k < n → s.goodAt .home (pa + k) = true) →
        ∃ w, answered (s.peekLE pa n) w ∧ w.window = s.window ∧ s.SameBytes w) ∧
      (2 ≤ op.toNat → op.toNat ≤ 11 → 2 ≤ z.toNat → pa % 2 ^ z.toNat = 0 → s.goodAt .home pa = true → fresh →
        let n := 2 ^ z.toNat
        (∀ k : Nat, k < 64 → k % n = 0 → be.getLsbD k = decide (k = 0)) →
        let old := s.peekLE pa n
        ∃ w, answered old w ∧ kept old w
          ∧ s.PutBytes pa n (amoNew (op.toNat - 2) n old (data.toNat % 2 ^ (8 * n)) (data.toNat / 2 ^ (8 * n) % 2 ^ (8 * n))) w)) ∧
    (∀ w, there → here → admitted = true → isDram pa = true → mt = 0 → op = 1 → Tab.find s.window key = some w → w.tag = tag.toNat → w.fin = true →
      exec i s0 = back (.completion src.toNat tag.toNat w.err w.data) s)) ∧
  (∀ (s : State) (p : Nat) (q : Req) (l : List Inbound), s.inbox = .request p q :: l → q.br = false ∨ centreOpen s q.pa = true →
    runTask (.inbound p) s = .next (performRequest q { s with inbox := l })) ∧
  (∀ (s0 : State) (dst port home : BitVec 7) (tag : BitVec 16),
    let s := s0.setPort port.toNat { s0.port port.toNat with ready := (s0.port port.toNat).ready - 1 }
    let done := fun (data : BitVec 512) (err : BitVec 3) => Instr.remoteCompletionArrival ⟨dst, port, home⟩ tag data err
    let refused := Instr.remoteRefusalArrival ⟨dst, port, home⟩ tag
    ((s0.port port.toNat).ready = 0 → exec refused s0 = .next s0 ∧ ∀ data err, exec (done data err) s0 = .next s0) ∧
    (0 < (s0.port port.toNat).ready → dst.toNat ≠ (s.pkr 0x440).toNat % 128 →
      exec refused s0 = .next (s.count 9) ∧ ∀ data err, exec (done data err) s0 = .next (s.count 9)) ∧
    ∀ x, 0 < (s0.port port.toNat).ready → dst.toNat = (s.pkr 0x440).toNat % 128 → outstanding s home.toNat tag.toNat = some x →
      let mine := fun (y : Txn) => y.home == home.toNat && y.tag == tag.toNat
      let ends := fun (i : Instr) (d : Nat × Nat) =>
        ∃ t, exec i s0 = .next t ∧ t = { s with txns := t.txns, due := t.due }
          ∧ t.txns = s.txns.map (fun y => if mine y then { y with done := some d } else y)
      (∀ data err, x.posted = false → ends (done data err) (if err = 0 then 0 else 3, data.toNat)) ∧
      (∀ data, x.posted = true → ∃ t, exec (done data 0) s0 = .next t
        ∧ t = { s with txns := t.txns, due := t.due } ∧ t.txns = s.txns.filter (fun y => !mine y)) ∧
      (x.posted = false → ends refused (1, 0)) ∧
      (x.posted = true → ∃ t, exec refused s0 = .next t ∧ t.txns = s.txns.filter (fun y => !mine y) ∧ t.mem = s.mem
        ∧ ∀ c, (s.strandAt c).run ≠ .free → (s.strandAt c).owner = x.sid → (t.strandAt c).linkErrs = (s.strandAt c).linkErrs
            ++ [{ va := x.va, w0 := 1, home := home.toNat, tag := tag.toNat, w3 := 2 }])) ∧
  ∀ (s : State) (home : BitVec 7) (tag : BitVec 16) (x : Txn), outstanding s home.toNat tag.toNat = some x →
    let mine := fun (y : Txn) => y.home == home.toNat && y.tag == tag.toNat
    let must := x.waitAt.isSome = true ∨ (s.port x.port).st ≠ 2 ∨ (x.st = 1 ∧ max x.since (s.port x.port).upAt + 65536 ≤ s.fordNow)
    (∀ port, home ≠ 127 → portFor s home.toNat tag.toNat = some port → must →
      ∃ t, exec (.tagResend home tag) s = .next t
        ∧ t = { sendFlit port (.request port home.toNat tag.toNat x.op x.pa x.mt (if x.op = 0 then 0 else x.dom) x.size x.data x.be) s with banks := t.banks, txns := t.txns }
        ∧ t.txns = s.txns.map (fun y => if mine y then
            { x with st := if x.st = 0 then 1 else 2, port := port, since := s.fordNow, waitAt := none } else y)) ∧
    (home = 127 ∨ ¬must → exec (.tagResend home tag) s = .next s) ∧
    (∀ w, x.posted = false → x.waitAt = some w → upPorts s home.toNat = [] → w + (s.pkr 0x853).toNat % 2 ^ 40 ≤ s.time.toNat →
      ∃ t, exec (.fltoExpiry home tag) s = .next t ∧ t = { s with txns := t.txns, due := t.due, banks := t.banks }
        ∧ t.txns = s.txns.map (fun y => if mine y then { y with done := some (2, 0) } else y))

/-- R313, R463 to R466: an inbound access that its connection does not admit is answered with a NAK and performs nothing; an admitted write
performs the bytes that it marks and is acknowledged, an admitted read returns its bytes, each behind what waits of its connection;
unsupported requests get a NAK. A packet with a congestion mark is answered with a notification, one in 50,000 ns. The host's
acknowledgement or data complete the oldest outbound access of the connection; a congestion notification halves the connection's rate, which
recovers linearly; `TIME` is slewed by at most 1,000 parts per million. The walk's access and the accessor of an inbound access rest on logs 16 and 50, the
turns of what arrives on log 7. -/
def Obligations.TheHostReadsWritesAndAnswers : Prop :=
  (∀ (s u : State) (conn : BitVec 8) (va : BitVec 64),
    let r := connAt s conn.toNat
    let closed := s.pkr 0x856 / 65536 = 0 ∨ bitOf (s.peekLE (r + 4) 1) 0 = false ∨ bitOf (s.peekLE (r + 4) 1) 1 = false
    let s1 := noteRead s r 64
    let nak := Host.Outcome.next (s1.send (.nak conn.toNat 0))
    let ahead := s.inbox.any (fun m => m.lane == 128 + conn.toNat)
    let free := s.defer = false ∧ ahead = false
    s1 = { s with banks := s1.banks } ∧
    (∀ data be, free → closed → exec (.rdmaWriteInbound ⟨conn, 0⟩ va data be) s = nak) ∧
    (∀ len, free → closed → exec (.rdmaReadInbound ⟨conn, 0⟩ va len) s = nak) ∧
    (∀ data be, ¬free → exec (.rdmaWriteInbound ⟨conn, 0⟩ va data be) s
      = .next { s with inbox := s.inbox ++ [.write conn.toNat va.toNat data.toNat be.toNat] }) ∧
    (∀ len, ¬free → exec (.rdmaReadInbound ⟨conn, 0⟩ va len) s = .next { s with inbox := s.inbox ++ [.read conn.toNat va.toNat len.toNat] }) ∧
    (∀ len, free → inboundOk s conn.toNat va.toNat len.toNat = true →
      readRange (inboundAcc Acc.copyRead s conn.toNat) va.toNat len.toNat s1 = .error .wait u →
      let w := if u.txns.length = s1.txns.length then s1 else u
      exec (.rdmaReadInbound ⟨conn, 0⟩ va len) s = .next { w with inbox := w.inbox ++ [.read conn.toNat va.toNat len.toNat] }) ∧
    (∀ len, free → (va.toNat < s.peekLE (r + 0x10) 8 ∨ s.peekLE (r + 0x18) 8 + 1 < va.toNat + len.toNat) →
      exec (.rdmaReadInbound ⟨conn, 0⟩ va len) s = nak) ∧
    (∀ data (be : BitVec 64) (x : Xl) (lo n : Nat), free → be.getLsbD lo = true → be.getLsbD (lo + n) = true →
      (∀ k, be.getLsbD k = true → lo ≤ k ∧ k ≤ lo + n) → inboundOk s conn.toNat (va.toNat / 64 * 64 + lo) (n + 1) = true →
      xlate1 (inboundAcc Acc.copyWrite s conn.toNat) (va.toNat / 64 * 64) s1 = .ok x u → x.place = .home → x.pa % 64 = 0 →
      isDram x.pa = true → u.coherent → (∀ k, k < 64 → u.goodAt .home (x.pa + k) = true) →
      ∃ t, exec (.rdmaWriteInbound ⟨conn, 0⟩ va data be) s = .next t ∧ t.out = u.out ++ [.rdmaAck conn.toNat] ∧ t.coherent ∧ t.strands = u.strands
        ∧ ∀ q, t.peek q = if x.pa ≤ q ∧ q < x.pa + 64 ∧ be.getLsbD (q - x.pa) = true then BitVec.ofNat 8 (data.toNat / 256 ^ (q - x.pa))
            else u.peek q) ∧
    (∀ len v, free → inboundOk s conn.toNat va.toNat len.toNat = true →
      readRange (inboundAcc Acc.copyRead s conn.toNat) va.toNat len.toNat s1 = .ok (.ok v) u →
      exec (.rdmaReadInbound ⟨conn, 0⟩ va len) s
        = .next ((u.endAccess (12800 + conn.toNat)).send (.rdmaData conn.toNat len.toNat v))) ∧
    exec (.roceUnsupportedRequest ⟨conn, 0⟩) s = .next (s.send (.nak conn.toNat 1))) ∧
  (∀ (s : State) (conn : BitVec 8),
    let c := congested conn.toNat true s
    ((∀ d, Tab.find s.cnpAt conn.toNat = some d → d + 50000 ≤ s.time.toNat) →
      c = { s.send (.cnp conn.toNat) with cnpAt := Tab.set s.cnpAt conn.toNat s.time.toNat }) ∧
    (∀ d, Tab.find s.cnpAt conn.toNat = some d → s.time.toNat < d + 50000 → c = s) ∧
    (∀ va data be, exec (.rdmaWriteInbound ⟨conn, 1⟩ va data be) s = exec (.rdmaWriteInbound ⟨conn, 0⟩ va data be) c) ∧
    (∀ va len, exec (.rdmaReadInbound ⟨conn, 1⟩ va len) s = exec (.rdmaReadInbound ⟨conn, 0⟩ va len) c) ∧
    exec (.roceUnsupportedRequest ⟨conn, 1⟩) s = exec (.roceUnsupportedRequest ⟨conn, 0⟩) c ∧
    exec (.outboundAck ⟨conn, 1⟩) s = exec (.outboundAck ⟨conn, 0⟩) c ∧
    ∀ data, exec (.hostReadResponse ⟨conn, 1⟩ data) s = exec (.hostReadResponse ⟨conn, 0⟩ data) c) ∧
  (∀ (s : State) (conn : BitVec 8) (x : Txn), x.posted = false →
    let ends := fun (i : Instr) (d : Nat × Nat) =>
      ∃ t, exec i s = .next t ∧ t = { s with txns := t.txns, due := t.due }
        ∧ t.txns = s.txns.map (fun y => if y.home == x.home && y.tag == x.tag then { y with done := some d } else y)
    (oldestHost s conn.toNat false = some x → ends (.outboundAck ⟨conn, 0⟩) (0, 0)) ∧
    ∀ data, oldestHost s conn.toNat true = some x → ends (.hostReadResponse ⟨conn, 0⟩ data) (0, data.toNat % 2 ^ (8 * x.size))) ∧
  ∀ s : State,
    (∀ conn : BitVec 8, ∃ t, exec (.cnpReceive conn) s = .next t ∧ t = { s with rates := t.rates }
      ∧ (Tab.find s.rates conn.toNat = none → Tab.find t.rates conn.toNat = some (32768, s.time.toNat))
      ∧ (∀ r d, Tab.find s.rates conn.toNat = some (r, d) → d ≤ s.time.toNat → s.time.toNat ≤ d + 1000000 →
          Tab.find t.rates conn.toNat = some ((r + (65536 - r) * (s.time.toNat - d) / 1000000) / 2, s.time.toNat))
      ∧ ∀ k, k ≠ conn.toNat → Tab.find t.rates k = Tab.find s.rates k) ∧
    ∀ ppm : BitVec 12, ∃ t, exec (.ptpMessage ppm) s = .next t ∧ t = { s with slew := t.slew } ∧ -1000 ≤ t.slew ∧ t.slew ≤ 1000
      ∧ (-1000 ≤ ppm.toInt → ppm.toInt ≤ 1000 → t.slew = ppm.toInt)


/-! ### The package (R44, R130, R471 to R481) -/

/-- R44, R130, R304, R476, R477, R479 to R481: device reset starts the boot context again, or the package stays in reset and its
status shows the stage that failed: stage 0 where the machine firmware in module flash does not verify under the root key, stage 1 where a module does not
train, or the device configuration or the supervisor firmware does not verify; where the bytes of module flash are not given, `bootOk` says whether the
firmware verifies, and its detail is a free value. A write of `GO` stores `ENTRY` and starts a supervisor strand on every free
reserved context; a write of `KEYTAB` reads the table again and drops the verifications whose key it no longer holds or allows; a nonce is answered with a report
that holds it and the measurement registers, signed; a telemetry sample is written when it is due, every 1,000,000 ns; a word that is no instruction traps ILL with its
reason; and an uncontained hardware error is MCHK with its code, at the strand whose turn it is (log 22), at once or when what the strand has begun is done. An event
whose conditions do not hold leaves the state as it is (log 54). An occupied reserved context is skipped (log 38), module flash is log 19's, and the phase of the
samples log 64's. -/
def Obligations.ThePackageStartsAndReports : Prop :=
  (∀ s : State,
    let stays := fun (stage d : Nat) => ∃ t, exec .deviceReset s = .next t ∧ t.strands = [] ∧ t.bootStatus = some (stage, d) ∧ t.out = s.out
      ∧ t.flash = s.flash ∧ t.thermalLog = s.thermalLog ∧ t.meas = []
    let starts := exec .deviceReset s = .next { State.reset with
      out := s.out, flash := s.flash, bootOk := s.bootOk, untrained := s.untrained, thermalLog := s.thermalLog, meas := [(0, extendMeas 0 (firmwareDigestOf s))] }
    let untrained := ∃ m ∈ s.untrained, (∀ k ∈ s.untrained, m ≤ k) ∧ stays 1 m
    (s.flash = none → (s.bootOk = false → stays 0 Config.bootDetail.toNat) ∧ (s.bootOk = true → s.untrained ≠ [] → untrained)
      ∧ (s.bootOk = true → s.untrained = [] → starts)) ∧
    ∀ f, s.flash = some f →
      (∀ d, bootImage f.firmware (rootKeys f) = some d → stays 0 d) ∧
      (bootImage f.firmware (rootKeys f) = none → (s.untrained ≠ [] → untrained) ∧
        (∀ d, s.untrained = [] → bootImage f.config f.keys = some d → stays 1 d) ∧
        (∀ d, s.untrained = [] → bootImage f.config f.keys = none → bootImage f.supervisor f.keys = some d → stays 1 d) ∧
        (s.untrained = [] → bootImage f.config f.keys = none → bootImage f.supervisor f.keys = none → starts))) ∧
  (∀ (s : State) (v : BitVec 64),
    let n := min 4 (fld (s.pkr 0x823).toNat 8 3)
    let reserved := fun (c : Nat) => c < 256 ∧ 16 - n ≤ c % 16
    let entry := BitVec.ofNat 64 (setFld (s.pkr 0xC11).toNat 2 53 (fld v.toNat 2 53))
    (v.getLsbD 0 = false ∨ bitOf (s.pkr 0xC11).toNat 1 = true → exec (.svstartGo v) s = .next (s.setPk 0xC11 entry)) ∧
    (v.getLsbD 0 = true → bitOf (s.pkr 0xC11).toNat 1 = false → 64 ≤ (freeRecords s).length →
      ∃ t, exec (.svstartGo v) s = .next t ∧ bitOf (t.pkr 0xC11).toNat 1 = true ∧ fld (t.pkr 0xC11).toNat 2 53 = fld v.toNat 2 53 ∧ t.mem = s.mem
        ∧ (∀ c, reserved c → (s.strandAt c).run = .free →
            (t.strandAt c).run = .run ∧ (t.strandAt c).pl = 1 ∧ (t.strandAt c).pc = entry / 4 * 4
              ∧ (t.strandAt c).xr 2 = BitVec.ofNat 64 (c / 16) ∧ (t.strandAt c).asid = 0 ∧ (t.strandAt c).ddom = 0
              ∧ (t.strandAt c).lanes = 0)
        ∧ ∀ c, ¬reserved c ∨ (s.strandAt c).run ≠ .free → t.strandAt c = s.strandAt c)) ∧
  (∀ (s : State) (v : BitVec 64), ∃ t, exec (.keytabWrite v) s = .next t
    ∧ t = { s with pk := t.pk, keys := t.keys, images := t.images, banks := t.banks } ∧ t.keys.length = min 16 (v.toNat % 32)
    ∧ (∀ k, k < min 16 (v.toNat % 32) →
        ∃ e, t.keys[k]? = some e ∧ e.x = imgBE (s.peekLE (fld v.toNat 16 36 * 65536 + 96 * k) 96) 0 32
          ∧ e.y = imgBE (s.peekLE (fld v.toNat 16 36 * 65536 + 96 * k) 96) 32 32 ∧ e.id = imgBE (s.peekLE (fld v.toNat 16 36 * 65536 + 96 * k) 96) 64 16
          ∧ e.flags = (s.peek (fld v.toNat 16 36 * 65536 + 96 * k + 80)).toNat % 4)
    ∧ ∀ x, x ∈ t.images ↔ x ∈ s.images ∧ ∃ e ∈ t.keys, e.id = x.key.id ∧ e.x = x.key.x ∧ e.y = x.key.y ∧ bitOf e.flags (if x.probe then 1 else 0) = true) ∧
  (∀ (s : State) (nonce : BitVec 256), ∃ t body sig, exec (.attestationRequest nonce) s = .next t
    ∧ t = { s with banks := t.banks, out := s.out ++ [.report body sig] } ∧ sig = reportSignature body s.tick
    ∧ (∀ k, k < 8 → fld body (8 * (0x40 + 32 * k)) 256 = digestBytes (Tab.get s.meas k))
    ∧ fld body 0 32 = 0x54413953 ∧ fld body (8 * 0x06) 8 = (s.pkr 0x440).toNat % 128 ∧ fld body (8 * 0x18) 256 = nonce.toNat
    ∧ fld body (8 * 0x38) 64 = s.time.toNat ∧ fld body (8 * 0x180) 64 = (s.pkr 0x800).toNat) ∧
  (∀ s : State,
    let a := fld (s.pkr 0x862).toNat 16 36 * 65536 + 256 * (s.sample % 2)
    (bitOf (s.pkr 0x862).toNat 0 = false ∨ s.time.toNat < s.sampleAt → exec .telemetrySample s = .next s) ∧
    (bitOf (s.pkr 0x862).toNat 0 = true → s.sampleAt ≤ s.time.toNat → isDram a = true → s.coherent →
      (∀ j, j < 4 → s.goodAt .home (a + 32 * j) = true) →
      ∃ t : State, exec .telemetrySample s = .next t ∧ t.sample = s.sample + 1 ∧ t.strands = s.strands ∧ t.coherent
        ∧ (∃ j, t.sampleAt = s.sampleAt + 1000000 * (j + 1)) ∧ s.time.toNat < t.sampleAt ∧ t.sampleAt ≤ s.time.toNat + 1000000
        ∧ t.peekLE a 8 = s.time.toNat ∧ t.peekLE (a + 8) 8 = s.sample % 2 ^ 64
        ∧ (∀ i, i < 11 → t.peekLE (a + 0x18 + 8 * i) 8 = Tab.get s.counters i % 2 ^ 64)
        ∧ ∀ q, (q < a ∨ a + 0x80 ≤ q) → t.peek q = s.peek q)) ∧
  (∀ (s u : State) (w f : Word), fetchWord s = .ok f u →
    (∀ r, decode w = .error r → exec (.wordsThatAreNotInstructions w) s = .next (s.trapped u cILL w.toNat r.reason)) ∧
    ∀ i, decode w = .ok i → exec (.wordsThatAreNotInstructions w) s = .next u) ∧
  ∀ (s : State) (code : BitVec 16), s.st.run ≠ .free → code.toNat < 0x200 →
    let x : Trap := { cause := cMCHK, eval := code.toNat, seq := s.seqNow }
    exec (.uncontainedHardwareError code) s
      = .next (if haltWaits s || begunAccess s then s.mapSt (fun st => { st with late := insertLate x st.late }) else { deliver s x with cur := s.cur })

/-- R471 to R475: a request for an island's state is stored as permitted; an operating point is that of the slowest of its limits; an
island is gated only when it holds no work, a quadrant after its dirty lines have gone to memory and a link island with its ports Down; a
temperature lowers the thermal point by at most one step in 1,000,000 ns or releases it, 110 °C raises MCHK and 115 °C removes power, after which no step runs but
a device reset; and the power cap, by one step in 1,000,000 ns, lowers the highest cluster while the average has exceeded it and is not below it, and raises the
lowest while the average is 5 per cent below it (log 21; the times of steps and measurements: log 64). An event whose conditions do not hold leaves the state as it is (log 54). -/
def Obligations.IslandsFollowTheirLimits : Prop :=
  ∀ (s : State) (k : BitVec 7),
    let n := k.toNat
    let x := s.island n
    let now := s.time.toNat
    let becomes := fun (i : Instr) (c : Nat) (y : Island) =>
      ∃ t, exec i s = .next t ∧ t = { s with islands := t.islands, due := t.due, watts := t.watts, wattsAt := t.wattsAt, capping := t.capping } ∧ t.island c = y
        ∧ ∀ j, j ≠ c → t.island j = s.island j
    let stored := fun (req : Nat) =>
      if n < 16 ∨ (20 ≤ n ∧ n < 28) ∨ (68 ≤ n ∧ n < 72) then req
      else if n < 20 then min req 1
      else if 36 ≤ n ∧ n < 68 ∧ req = 2 then 2
      else 0
    (∀ req, req.toNat = 3 ∨ 75 < n → exec (.ictlReqWrite k req) s = .next s) ∧
    (∀ req : BitVec 2, req.toNat ≠ 3 → n ≤ 75 → becomes (.ictlReqWrite k req) n { x with req := stored req.toNat }) ∧
    (∀ opp : BitVec 4, becomes (.ictlOppWrite k opp) n (if coreIsland n then { x with oppReq := opp.toNat % 4 } else x)) ∧
    becomes (.operatingPointChange k) n (if coreIsland n then { x with opp := max x.oppReq (max x.thermal x.cap) } else x) ∧
    (x.req = 0 ∨ (islandBusy s n = true ∧ ¬(16 ≤ n ∧ n < 20)) → exec (.islandGate k) s = .next s) ∧
    (x.req ≠ 0 → n ≤ 75 → islandBusy s n = false → ¬(16 ≤ n ∧ n < 20) → ¬(36 ≤ n ∧ n < 68) →
      becomes (.islandGate k) n { x with st := x.req }) ∧
    (x.req ≠ 0 → 16 ≤ n → n < 20 → Tab.wf s.lines = true →
      ∃ t, exec (.islandGate k) s = .next t ∧ t.island n = { x with st := x.req } ∧ s.SameBytes t
        ∧ ∀ l ∈ t.lines, quadOf l.1 = n - 16 → l.2.dirty = false) ∧
    (x.req ≠ 0 → 36 ≤ n → n < 68 → islandBusy s n = false →
      ∃ t, exec (.islandGate k) s = .next t ∧ t.island n = { x with st := x.req } ∧ t.strands = s.strands ∧ t.mem = s.mem
        ∧ ∀ p, t.port p = if p / 4 = n - 36 then { s.port p with st := 0 } else s.port p) ∧
    (x.req = 0 ∨ islandBusy s n = true → becomes (.islandWake k) n { x with st := 0 }) ∧
    (x.req ≠ 0 → islandBusy s n = false → exec (.islandWake k) s = .next s) ∧
    (∀ temp : BitVec 9,
      let y := { x with
        temp := min temp.toNat 255
        thermal := if temp.toNat < 95 then 0 else if 100 ≤ temp.toNat ∧ coreIsland n ∧ x.stepAt ≤ now then min 3 (x.thermal + 1) else x.thermal
        stepAt := if 100 ≤ temp.toNat ∧ coreIsland n ∧ x.stepAt ≤ now then now + 1000000 else x.stepAt }
      (75 < n → exec (.thermalStep k temp) s = .next s) ∧
      (n ≤ 75 → temp.toNat < 110 → becomes (.thermalStep k temp) n y) ∧
      (∀ c, n ≤ 75 → 110 ≤ temp.toNat → temp.toNat < 115 → supervisors s = [c] →
        let u := (s.setIsland n y).raise (.opPoint n)
        haltWaits { u with cur := c } = false → begunAccess { u with cur := c } = false →
        exec (.thermalStep k temp) s = .next { deliver { u with cur := c } { cause := cMCHK, eval := 0x0101, seq := u.seqNow } with cur := s.cur }) ∧
      (n ≤ 75 → 115 ≤ temp.toNat → ∃ t, exec (.thermalStep k temp) s = .next t ∧ t.thermalLog = (now, n, temp.toNat) :: s.thermalLog
        ∧ t.powered = false ∧ t.strands = [])) ∧
    (s.powered = false → (∀ r, s.agenda ≠ .event .deviceReset :: r) → step s = .fault .powerRemoved) ∧
    ∀ w : BitVec 16,
      let l := (w.toNat :: s.watts).take 10
      let sum := l.foldl (· + ·) 0
      let full := s.powerCap * l.length
      let lowers := full < sum ∨ (s.capping = true ∧ sum = full)
      let raises := ¬lowers ∧ sum * 100 ≤ full * 95
      let timed := fun (t : State) => t.watts = l ∧ now < t.wattsAt ∧ t.wattsAt ≤ now + 1000000 ∧ (∃ j, t.wattsAt = s.wattsAt + 1000000 * (j + 1))
        ∧ (t.capping = true ↔ lowers)
      let stays := ∃ t, exec (.powerCapStep w) s = .next t ∧ timed t ∧ t = { s with watts := t.watts, wattsAt := t.wattsAt, capping := t.capping }
      (now < s.wattsAt → exec (.powerCapStep w) s = .next s) ∧
      (s.wattsAt ≤ now →
        (∀ t, exec (.powerCapStep w) s = .next t → timed t) ∧
        (∀ c, lowers → c < 16 → (s.island c).cap < 3 → (∀ d, c < d → d < 16 → 3 ≤ (s.island d).cap) →
          becomes (.powerCapStep w) c { s.island c with cap := (s.island c).cap + 1 }) ∧
        (lowers → (∀ d, d < 16 → 3 ≤ (s.island d).cap) → stays) ∧
        (∀ c, raises → c < 16 → 0 < (s.island c).cap → (∀ d, d < c → (s.island d).cap = 0) →
          becomes (.powerCapStep w) c { s.island c with cap := (s.island c).cap - 1 }) ∧
        (raises → (∀ d, d < 16 → (s.island d).cap = 0) → stays) ∧
        (¬lowers → ¬raises → stays))


/-! ### Decoding, steps and reset (R35 to R44, R124, R472, R477) -/

/-- R37 to R44: every instruction that has a word is encoded, and its word decodes to it when it is well formed, with every operand at every
value that the encoding admits; the steps and events have no word. -/
def Obligations.EveryWordReadsBack : Prop := ∀ i : Instr, Sys2Proof.Laws.RoundTrip.Statement i

/-- R36, R42, R44, R53: words of the spec's own examples decode to the instructions that they stand for, and words that fail one of the checks
2 to 6 of R44 are refused with its reason. -/
def Obligations.WordsDecode : Prop :=
  (∀ p ∈ [((0x30C5C008 : Word), Instr.ld 6 5 3 0 0 8), (0x0CE7FFFF, .addi 7 7 0xFFFF), (0x44E0FFFE, .bne 7 0 0xFFFE),
      (0xFC000000, .hint 0), (0x06A70000, .pfx 1 2 1 7), (0x08642800, .add 3 4 5), (0x68A00100, .crd 5 0x010),
      (0x654B0096, .spawn 10 11 9), (0x3DAB5019, .waiteq 13 11 10 0 1 1), (0x3CA00006, .gbarA 5), (0x39496040, .amoadd 10 9 12 1 0),
      (0x940108A1, .vredt 1 1 0 10)], decode p.1 = .ok p.2) ∧
  ∀ p ∈ [((0 : Word), 1), (0x00000001, 1), (0x6C000000, 2), (0xF8000000, 2), (0x0800003F, 3), (0x24000100, 4), (0x04000000, 4),
      (0x80000100, 4), (0x800000F0, 5)], ∃ r, decode p.1 = .error r ∧ r.reason = p.2

/-- R35, R36, R44, R124, R142, R143: with nothing raised and nothing due, a step is the turn of the next context that may issue, once the work of
strands that issue nothing has gone on: a trap of its queued work is taken, then a pending TIMER; otherwise the word at its `PC` is fetched, and the step is
`exec` of the instruction it decodes to, followed by what the step adds: its place in the order of issue, the effects of register writes, the waking of islands, the
passing of time. A context whose instruction waits lets the others of its core try (R143). A word that is no instruction is the event of that name. The word is the four
bytes at `PC`, least significant first. An event that the agenda names is the step (logs 3, 4 and 23: turns, the agenda and time are the model's). -/
def Obligations.StepRunsTheDecodedInstruction : Prop :=
  (∀ s : State, s.powered = true →
    let ends := fun (o : Host.Outcome State Fault Refusal) => match o with
      | .next v => Host.Outcome.next (passTime (wakeBusy s (settleWrites v)))
      | .fault f => .fault f
      | .refused r => .refused r
    (∀ i r, s.agenda = .event i :: r → step s = ends (exec i { s with agenda := r })) ∧
    ∀ c pre rest, s.agenda = [] → s.due = [] → timedTask s = none → nextContext (carryAll s) = some c →
      orderOf (carryAll s) (coreOf c) = pre ++ c :: rest → c ∉ pre →
      let b := takeTurn c (carryAll s)
      (∀ x t, settleTurn b = .error (.trap x) t → begunAccess b = false → step s = ends (.next (trapOr b t x))) ∧
      ∀ t, settleTurn b = .ok () t →
        let runs := fun (o : Host.Outcome State Fault Refusal) => match o with
          | .next v => if issued t v = true then ends (.next (tookTurn t.cur v)) else ends (coreTurn rest v)
          | o => ends o
        let timer := t.st.timerDue t.time && !underWay t
        (timer = true → step s = ends (coreTurn rest (trapOr t t { cause := cTIMER, eval := t.time.toNat }))) ∧
        ∀ w u, timer = false → fetchWord t = .ok w u →
          (∀ i, decode w = .ok i → step s = runs (exec i u)) ∧
          ∀ r, decode w = .error r → step s = runs (exec (.wordsThatAreNotInstructions w) u)) ∧
  ∀ (t u : State) (x : Xl), xlate1 (Acc.fetch.forStrand t) t.st.pc.toNat t = .ok x u → x.place = .home → isDram x.pa = true →
    x.pa % 4 = 0 → Tab.find u.icache (codeKey (coreOf u.cur) (x.pa / 64)) = none → u.coherent → u.goodAt .home x.pa = true →
    ∃ v, fetchWord t = .ok (BitVec.ofNat 32 (u.peekLE x.pa 4)) v ∧ u.SameBytes v ∧ v.strands = u.strands

/-- R26, R121, R129, R141, R327, R451, R468, R471, R477, R478: after reset only the boot context holds a strand, at machine level, with its
record at physical address 0; no queue is enabled, every port is Down, every island is On, the firmware has been measured, and the registers hold their reset
values: those that the spec gives, and 0 in `FSPLIT` (0x800) and `FPKG` (0x440), which are loaded later (the model's choices, logs 1 and 2). The package has power,
the order of issue starts at context 0 of every core, and the invariants of the steps hold. -/
def Obligations.ResetStartsTheBootContext : Prop :=
  let s := State.reset
  s.st.run = .run ∧ s.st.pl = 2 ∧ s.cur = 0 ∧ (∀ c, c ≠ 0 → (s.strandAt c).run = .free) ∧ s.st.recordAt 0xC05 = 0
    ∧ readCr s 0x823 = 0x114 ∧ readCr s 0x853 = 100000000 ∧ readCr s 0x291 = 1 ∧ readCr s 0x807 = BitVec.allOnes 64
    ∧ (∀ n ∈ [0x104, 0x105, 0x106, 0x107, 0x108, 0x109, 0x200, 0x290, 0x292, 0x293, 0x300, 0x3C1, 0x400, 0x401, 0x402, 0x406, 0x440, 0x441,
        0x800, 0x810, 0x820, 0x821, 0x822, 0x824, 0x830, 0x831, 0x840, 0x841, 0x850, 0x851, 0x854, 0x855, 0x856, 0x860, 0x861, 0x862, 0xC10,
        0xC11], readCr s n = 0)
    ∧ s.powered = true ∧ (∀ core, core < 64 → orderOf s core = [4 * core, 4 * core + 1, 4 * core + 2, 4 * core + 3])
    ∧ s.queues = [] ∧ s.gangs = [] ∧ s.preempted = [] ∧ s.held = [] ∧ s.txns = [] ∧ s.slots = [] ∧ s.powerCap = 2400 ∧ s.capping = false ∧ s.thermalLog = []
    ∧ (∀ p, (s.port p).st = 0) ∧ (∀ i, (s.island i).st = 0 ∧ (s.island i).point = 0)
    ∧ Tab.find s.meas 0 = some (extendMeas 0 Config.firmwareDigest) ∧ (∀ k, k ≠ 0 → Tab.find s.meas k = none)
    ∧ s.memOk = true ∧ s.levelsOk = true ∧ s.pcsOk = true ∧ s.zerosOk = true ∧ s.islandsOk ∧ s.coherent

/-- R472: after every step from any state, no island that holds work is gated. -/
def Obligations.IslandsWithWorkAreOn : Prop := ∀ s t : State, step s = .next t → t.islandsOk

/-- R35, R128, R129, R139: every step from every state keeps memory in its canonical form, every strand at one of the three levels, every program
counter and every handler's address a multiple of 4, and `x0` out of every register file, whether the strand is on a context or not. The canonical form is
the model's (log 2). -/
def Obligations.StepsKeepTheInvariants : Prop :=
  ∀ s t : State, step s = .next t →
    (s.memOk = true → t.memOk = true) ∧ (s.levelsOk = true → t.levelsOk = true) ∧ (s.pcsOk = true → t.pcsOk = true)
      ∧ (s.zerosOk = true → t.zerosOk = true)
end

