-- ==== Sys2Proof/Laws/Tab.lean ====
section
/-! SUPPORT. The laws of tables and of the byte store: read after write, every other place alone, and the canonical form that every
operation keeps. -/

namespace Sys2Proof.Machine

variable {α : Type}

@[simp] theorem Tab.find_set_self (t : Tab α) (k : Nat) (a : α) : Tab.find (Tab.set t k a) k = some a := by
  induction t with
  | nil => simp [Tab.set, Tab.find]
  | cons p r ih =>
    obtain ⟨j, b⟩ := p
    simp only [Tab.set]
    split
    · simp [Tab.find]
    · split
      · simp [Tab.find]
      · rename_i h
        simp [Tab.find, ih, Ne.symm h]

theorem Tab.find_set_ne (t : Tab α) {k j : Nat} (a : α) (h : j ≠ k) : Tab.find (Tab.set t k a) j = Tab.find t j := by
  induction t with
  | nil => simp [Tab.set, Tab.find, Ne.symm h]
  | cons p r ih =>
    obtain ⟨i, b⟩ := p
    simp only [Tab.set]
    split
    · simp [Tab.find, Ne.symm h]
    · split
      · subst_vars
        simp [Tab.find, Ne.symm h]
      · simp [Tab.find, ih]

/-- Reading a key after a write of any key. -/
theorem Tab.find_set (t : Tab α) (k j : Nat) (a : α) :
    Tab.find (Tab.set t k a) j = if j = k then some a else Tab.find t j := by
  split
  · subst_vars
    simp
  · rename_i h
    exact Tab.find_set_ne t a h

@[simp] theorem Tab.set_set (t : Tab α) (k : Nat) (a b : α) : Tab.set (Tab.set t k a) k b = Tab.set t k b := by
  induction t with
  | nil => simp [Tab.set]
  | cons p r ih =>
    obtain ⟨j, c⟩ := p
    simp only [Tab.set]
    split
    · simp [Tab.set]
    · split
      · simp [Tab.set]
      · simp_all [Tab.set]

@[simp] theorem Tab.getD_set_self (t : Tab α) (k : Nat) (a d : α) : Tab.getD (Tab.set t k a) k d = a := by
  simp [Tab.getD]

theorem Tab.getD_set_ne (t : Tab α) {k j : Nat} (a d : α) (h : j ≠ k) : Tab.getD (Tab.set t k a) j d = Tab.getD t j d := by
  simp [Tab.getD, Tab.find_set_ne t a h]

@[simp] theorem Tab.get_set_self [Inhabited α] (t : Tab α) (k : Nat) (a : α) : Tab.get (Tab.set t k a) k = a := by
  simp [Tab.get]

theorem Tab.get_set_ne [Inhabited α] (t : Tab α) {k j : Nat} (a : α) (h : j ≠ k) :
    Tab.get (Tab.set t k a) j = Tab.get t j := Tab.getD_set_ne t a default h

theorem Tab.find_erase (t : Tab α) (k j : Nat) :
    Tab.find (Tab.erase t k) j = if j = k then none else Tab.find t j := by
  induction t with
  | nil => simp [Tab.erase, Tab.find]
  | cons p r ih =>
    obtain ⟨i, b⟩ := p
    simp only [Tab.erase] at ih
    by_cases hik : i = k
    · subst hik
      simp only [Tab.erase, List.filter, bne_self_eq_false]
      rw [ih]
      by_cases hj : j = i
      · simp [hj]
      · simp [Tab.find, hj, Ne.symm hj]
    · have : (i != k) = true := by simpa using hik
      simp only [Tab.erase, List.filter, this, Tab.find, ih]
      by_cases hij : i = j
      · subst hij
        simp [hik]
      · simp [hij]

/-! ### Rising keys -/

theorem Tab.wf_cons {j : Nat} {a : α} {r : Tab α} :
    Tab.wf ((j, a) :: r) = true ↔ (∀ p ∈ r, j < p.1) ∧ Tab.wf r = true := by
  simp [Tab.wf]

/-- Every member of a table after a write is the new entry or an old one. -/
theorem Tab.mem_set {t : Tab α} {k : Nat} {a : α} {p : Nat × α} (h : p ∈ Tab.set t k a) : p = (k, a) ∨ p ∈ t := by
  induction t with
  | nil => simpa [Tab.set] using h
  | cons q r ih =>
    obtain ⟨j, b⟩ := q
    simp only [Tab.set] at h
    split at h
    · simpa using h
    · split at h
      · rcases List.mem_cons.1 h with h | h
        · exact .inl h
        · exact .inr (List.mem_cons_of_mem _ h)
      · rcases List.mem_cons.1 h with h | h
        · exact .inr (h ▸ List.mem_cons_self ..)
        · rcases ih h with h | h
          · exact .inl h
          · exact .inr (List.mem_cons_of_mem _ h)

theorem Tab.wf_set {t : Tab α} (k : Nat) (a : α) (h : Tab.wf t = true) : Tab.wf (Tab.set t k a) = true := by
  induction t with
  | nil => simp [Tab.set, Tab.wf]
  | cons q r ih =>
    obtain ⟨j, b⟩ := q
    obtain ⟨h1, h2⟩ := Tab.wf_cons.1 h
    simp only [Tab.set]
    split
    · rename_i hk
      refine Tab.wf_cons.2 ⟨fun p hp => ?_, h⟩
      rcases List.mem_cons.1 hp with rfl | hp
      · exact hk
      · exact Nat.lt_trans hk (h1 p hp)
    · split
      · subst_vars
        exact Tab.wf_cons.2 ⟨h1, h2⟩
      · refine Tab.wf_cons.2 ⟨fun p hp => ?_, ih h2⟩
        rcases Tab.mem_set hp with rfl | hp
        · simp only
          omega
        · exact h1 p hp

theorem Tab.wf_filter {t : Tab α} (f : Nat × α → Bool) (h : Tab.wf t = true) : Tab.wf (t.filter f) = true := by
  induction t with
  | nil => simp [Tab.wf]
  | cons q r ih =>
    obtain ⟨j, b⟩ := q
    obtain ⟨h1, h2⟩ := Tab.wf_cons.1 h
    simp only [List.filter]
    split
    · exact Tab.wf_cons.2 ⟨fun p hp => h1 p (List.mem_filter.1 hp).1, ih h2⟩
    · exact ih h2

theorem Tab.wf_erase {t : Tab α} (k : Nat) (h : Tab.wf t = true) : Tab.wf (Tab.erase t k) = true := Tab.wf_filter _ h

/-! ### The byte store -/

theorem Mem.wf_iff {m : Mem} : Mem.wf m = true ↔ Tab.wf m = true ∧ ∀ p ∈ m, p.2 ≠ 0 := by
  simp [Mem.wf]

/-- A write keeps the canonical form. -/
theorem Mem.wf_write {m : Mem} (a : Nat) (b : Byte) (h : Mem.wf m = true) : Mem.wf (Mem.write m a b) = true := by
  obtain ⟨h1, h2⟩ := Mem.wf_iff.1 h
  unfold Mem.write
  split
  · exact Mem.wf_iff.2 ⟨Tab.wf_erase a h1, fun p hp => h2 p (List.mem_filter.1 hp).1⟩
  · refine Mem.wf_iff.2 ⟨Tab.wf_set a b h1, fun p hp => ?_⟩
    rcases Tab.mem_set hp with rfl | hp
    · assumption
    · exact h2 p hp

theorem Mem.wf_writeLE {m : Mem} (a n v : Nat) (h : Mem.wf m = true) : Mem.wf (Mem.writeLE m a n v) = true := by
  induction n generalizing m a v with
  | zero => exact h
  | succ n ih => exact ih (a + 1) (v / 256) (Mem.wf_write a _ h)

/-- Reading a byte after a write of one byte. -/
theorem Mem.read_write (m : Mem) (a c : Nat) (b : Byte) :
    Mem.read (Mem.write m a b) c = if c = a then b else Mem.read m c := by
  unfold Mem.write Mem.read Tab.getD
  split
  · rename_i hb
    rw [Tab.find_erase]
    split <;> simp_all
  · rw [Tab.find_set]
    split <;> simp_all

/-- Reading a byte after a little-endian write: a byte of the value inside, the old byte outside. -/
theorem Mem.read_writeLE (m : Mem) (a n v c : Nat) :
    Mem.read (Mem.writeLE m a n v) c
      = if a ≤ c ∧ c < a + n then BitVec.ofNat 8 (v / 256 ^ (c - a)) else Mem.read m c := by
  induction n generalizing m a v with
  | zero =>
    have : ¬(a ≤ c ∧ c < a + 0) := by omega
    simp only [Mem.writeLE, if_neg this]
  | succ n ih =>
    rw [Mem.writeLE, ih, Mem.read_write]
    by_cases hc : c = a
    · subst hc
      have h1 : ¬(c + 1 ≤ c ∧ c < c + 1 + n) := by omega
      have h2 : c ≤ c ∧ c < c + (n + 1) := by omega
      simp [if_neg h1]
    · by_cases hi : a + 1 ≤ c ∧ c < a + 1 + n
      · have h2 : a ≤ c ∧ c < a + (n + 1) := by omega
        rw [if_pos hi, if_pos h2, Nat.div_div_eq_div_mul]
        have : c - a = (c - (a + 1)) + 1 := by omega
        rw [this, Nat.pow_succ, Nat.mul_comm]
      · have h2 : ¬(a ≤ c ∧ c < a + (n + 1)) := by omega
        rw [if_neg hi, if_neg h2, if_neg hc]

/-- A little-endian write leaves every byte outside it alone. -/
theorem Mem.read_writeLE_of_not_mem {m : Mem} {a n c : Nat} (v : Nat) (h : c < a ∨ a + n ≤ c) :
    Mem.read (Mem.writeLE m a n v) c = Mem.read m c := by
  rw [Mem.read_writeLE, if_neg]
  omega

/-- The number that a little-endian read gives after a write of the same bytes. -/
theorem Mem.readLE_writeLE (m : Mem) (a n v : Nat) : Mem.readLE (Mem.writeLE m a n v) a n = v % 256 ^ n := by
  have key : ∀ (n k : Nat) (m' : Mem), (∀ i, i < n → Mem.read m' (a + k + i) = BitVec.ofNat 8 (v / 256 ^ (k + i))) →
      Mem.readLE m' (a + k) n = v / 256 ^ k % 256 ^ n := by
    intro n
    induction n with
    | zero => intro k m' _; simp [Mem.readLE, Nat.mod_one]
    | succ n ih =>
      intro k m' h
      have h0 := h 0 (by omega)
      simp only [Nat.add_zero] at h0
      have hr := ih (k + 1) m' (fun i hi => by
        have := h (i + 1) (by omega)
        rw [show a + (k + 1) + i = a + k + (i + 1) from by omega, show k + 1 + i = k + (i + 1) from by omega]
        exact this)
      rw [Mem.readLE, h0, show a + k + 1 = a + (k + 1) from by omega, hr]
      simp only [BitVec.toNat_ofNat]
      rw [Nat.pow_succ 256 k, Nat.pow_succ 256 n, ← Nat.div_div_eq_div_mul, Nat.mul_comm (256 ^ n) 256, Nat.mod_mul]
  have := key n 0 (Mem.writeLE m a n v) (fun i hi => by
    rw [Mem.read_writeLE, if_pos (by omega)]
    simp)
  simpa using this

end Sys2Proof.Machine
end

