-- ==== Sys2Proof/Laws/State.lean ====
section
/-! SUPPORT. What each update of the state and of a strand leaves in each field: one lemma per field and update, all by definition. -/

namespace Sys2Proof.Machine

@[simp] theorem State.setStrand_mem (s : State) (c : Nat) (st : Strand) : (s.setStrand c st).mem = s.mem := rfl
@[simp] theorem State.setStrand_wordErr (s : State) (c : Nat) (st : Strand) : (s.setStrand c st).wordErr = s.wordErr := rfl
@[simp] theorem State.setStrand_lines (s : State) (c : Nat) (st : Strand) : (s.setStrand c st).lines = s.lines := rfl
@[simp] theorem State.setStrand_entries (s : State) (c : Nat) (st : Strand) : (s.setStrand c st).entries = s.entries := rfl
@[simp] theorem State.setStrand_buckets (s : State) (c : Nat) (st : Strand) : (s.setStrand c st).buckets = s.buckets := rfl
@[simp] theorem State.setStrand_entNext (s : State) (c : Nat) (st : Strand) : (s.setStrand c st).entNext = s.entNext := rfl
@[simp] theorem State.setStrand_useClock (s : State) (c : Nat) (st : Strand) : (s.setStrand c st).useClock = s.useClock := rfl
@[simp] theorem State.setStrand_kunsh (s : State) (c : Nat) (st : Strand) : (s.setStrand c st).kunsh = s.kunsh := rfl
@[simp] theorem State.setStrand_domKeys (s : State) (c : Nat) (st : Strand) : (s.setStrand c st).domKeys = s.domKeys := rfl
@[simp] theorem State.setStrand_ddrldBusy (s : State) (c : Nat) (st : Strand) : (s.setStrand c st).ddrldBusy = s.ddrldBusy := rfl
@[simp] theorem State.setStrand_icache (s : State) (c : Nat) (st : Strand) : (s.setStrand c st).icache = s.icache := rfl
@[simp] theorem State.setStrand_tlb (s : State) (c : Nat) (st : Strand) : (s.setStrand c st).tlb = s.tlb := rfl
@[simp] theorem State.setStrand_strands (s : State) (c : Nat) (st : Strand) : (s.setStrand c st).strands = Tab.set s.strands c st := rfl
@[simp] theorem State.setStrand_preempted (s : State) (c : Nat) (st : Strand) : (s.setStrand c st).preempted = s.preempted := rfl
@[simp] theorem State.setStrand_gangs (s : State) (c : Nat) (st : Strand) : (s.setStrand c st).gangs = s.gangs := rfl
@[simp] theorem State.setStrand_grans (s : State) (c : Nat) (st : Strand) : (s.setStrand c st).grans = s.grans := rfl
@[simp] theorem State.setStrand_pk (s : State) (c : Nat) (st : Strand) : (s.setStrand c st).pk = s.pk := rfl
@[simp] theorem State.setStrand_queues (s : State) (c : Nat) (st : Strand) : (s.setStrand c st).queues = s.queues := rfl
@[simp] theorem State.setStrand_fulls (s : State) (c : Nat) (st : Strand) : (s.setStrand c st).fulls = s.fulls := rfl
@[simp] theorem State.setStrand_held (s : State) (c : Nat) (st : Strand) : (s.setStrand c st).held = s.held := rfl
@[simp] theorem State.setStrand_images (s : State) (c : Nat) (st : Strand) : (s.setStrand c st).images = s.images := rfl
@[simp] theorem State.setStrand_hostEvents (s : State) (c : Nat) (st : Strand) : (s.setStrand c st).hostEvents = s.hostEvents := rfl
@[simp] theorem State.setStrand_evRetry (s : State) (c : Nat) (st : Strand) : (s.setStrand c st).evRetry = s.evRetry := rfl
@[simp] theorem State.setStrand_qstat (s : State) (c : Nat) (st : Strand) : (s.setStrand c st).qstat = s.qstat := rfl
@[simp] theorem State.setStrand_banks (s : State) (c : Nat) (st : Strand) : (s.setStrand c st).banks = s.banks := rfl
@[simp] theorem State.setStrand_codebooks (s : State) (c : Nat) (st : Strand) : (s.setStrand c st).codebooks = s.codebooks := rfl
@[simp] theorem State.setStrand_slots (s : State) (c : Nat) (st : Strand) : (s.setStrand c st).slots = s.slots := rfl
@[simp] theorem State.setStrand_ports (s : State) (c : Nat) (st : Strand) : (s.setStrand c st).ports = s.ports := rfl
@[simp] theorem State.setStrand_nextTag (s : State) (c : Nat) (st : Strand) : (s.setStrand c st).nextTag = s.nextTag := rfl
@[simp] theorem State.setStrand_txns (s : State) (c : Nat) (st : Strand) : (s.setStrand c st).txns = s.txns := rfl
@[simp] theorem State.setStrand_window (s : State) (c : Nat) (st : Strand) : (s.setStrand c st).window = s.window := rfl
@[simp] theorem State.setStrand_inbox (s : State) (c : Nat) (st : Strand) : (s.setStrand c st).inbox = s.inbox := rfl
@[simp] theorem State.setStrand_islands (s : State) (c : Nat) (st : Strand) : (s.setStrand c st).islands = s.islands := rfl
@[simp] theorem State.setStrand_meas (s : State) (c : Nat) (st : Strand) : (s.setStrand c st).meas = s.meas := rfl
@[simp] theorem State.setStrand_keys (s : State) (c : Nat) (st : Strand) : (s.setStrand c st).keys = s.keys := rfl
@[simp] theorem State.setStrand_counters (s : State) (c : Nat) (st : Strand) : (s.setStrand c st).counters = s.counters := rfl
@[simp] theorem State.setStrand_sample (s : State) (c : Nat) (st : Strand) : (s.setStrand c st).sample = s.sample := rfl
@[simp] theorem State.setStrand_sampleAt (s : State) (c : Nat) (st : Strand) : (s.setStrand c st).sampleAt = s.sampleAt := rfl
@[simp] theorem State.setStrand_watts (s : State) (c : Nat) (st : Strand) : (s.setStrand c st).watts = s.watts := rfl
@[simp] theorem State.setStrand_wattsAt (s : State) (c : Nat) (st : Strand) : (s.setStrand c st).wattsAt = s.wattsAt := rfl
@[simp] theorem State.setStrand_powerCap (s : State) (c : Nat) (st : Strand) : (s.setStrand c st).powerCap = s.powerCap := rfl
@[simp] theorem State.setStrand_rates (s : State) (c : Nat) (st : Strand) : (s.setStrand c st).rates = s.rates := rfl
@[simp] theorem State.setStrand_cnpAt (s : State) (c : Nat) (st : Strand) : (s.setStrand c st).cnpAt = s.cnpAt := rfl
@[simp] theorem State.setStrand_slew (s : State) (c : Nat) (st : Strand) : (s.setStrand c st).slew = s.slew := rfl
@[simp] theorem State.setStrand_bootOk (s : State) (c : Nat) (st : Strand) : (s.setStrand c st).bootOk = s.bootOk := rfl
@[simp] theorem State.setStrand_capping (s : State) (c : Nat) (st : Strand) : (s.setStrand c st).capping = s.capping := rfl
@[simp] theorem State.setStrand_powered (s : State) (c : Nat) (st : Strand) : (s.setStrand c st).powered = s.powered := rfl
@[simp] theorem State.setStrand_thermalLog (s : State) (c : Nat) (st : Strand) : (s.setStrand c st).thermalLog = s.thermalLog := rfl
@[simp] theorem State.setStrand_flash (s : State) (c : Nat) (st : Strand) : (s.setStrand c st).flash = s.flash := rfl
@[simp] theorem State.setStrand_untrained (s : State) (c : Nat) (st : Strand) : (s.setStrand c st).untrained = s.untrained := rfl
@[simp] theorem State.setStrand_bootStatus (s : State) (c : Nat) (st : Strand) : (s.setStrand c st).bootStatus = s.bootStatus := rfl
@[simp] theorem State.setStrand_cycle (s : State) (c : Nat) (st : Strand) : (s.setStrand c st).cycle = s.cycle := rfl
@[simp] theorem State.setStrand_time (s : State) (c : Nat) (st : Strand) : (s.setStrand c st).time = s.time := rfl
@[simp] theorem State.setStrand_out (s : State) (c : Nat) (st : Strand) : (s.setStrand c st).out = s.out := rfl
@[simp] theorem State.setStrand_order (s : State) (c : Nat) (st : Strand) : (s.setStrand c st).order = s.order := rfl
@[simp] theorem State.setStrand_cur (s : State) (c : Nat) (st : Strand) : (s.setStrand c st).cur = s.cur := rfl
@[simp] theorem State.setStrand_tick (s : State) (c : Nat) (st : Strand) : (s.setStrand c st).tick = s.tick := rfl
@[simp] theorem State.setStrand_due (s : State) (c : Nat) (st : Strand) : (s.setStrand c st).due = s.due := rfl
@[simp] theorem State.setStrand_agenda (s : State) (c : Nat) (st : Strand) : (s.setStrand c st).agenda = s.agenda := rfl
@[simp] theorem State.setStrand_defer (s : State) (c : Nat) (st : Strand) : (s.setStrand c st).defer = s.defer := rfl

@[simp] theorem State.setSt_mem (s : State) (st : Strand) : (s.setSt st).mem = s.mem := rfl
@[simp] theorem State.setSt_wordErr (s : State) (st : Strand) : (s.setSt st).wordErr = s.wordErr := rfl
@[simp] theorem State.setSt_lines (s : State) (st : Strand) : (s.setSt st).lines = s.lines := rfl
@[simp] theorem State.setSt_entries (s : State) (st : Strand) : (s.setSt st).entries = s.entries := rfl
@[simp] theorem State.setSt_buckets (s : State) (st : Strand) : (s.setSt st).buckets = s.buckets := rfl
@[simp] theorem State.setSt_entNext (s : State) (st : Strand) : (s.setSt st).entNext = s.entNext := rfl
@[simp] theorem State.setSt_useClock (s : State) (st : Strand) : (s.setSt st).useClock = s.useClock := rfl
@[simp] theorem State.setSt_kunsh (s : State) (st : Strand) : (s.setSt st).kunsh = s.kunsh := rfl
@[simp] theorem State.setSt_domKeys (s : State) (st : Strand) : (s.setSt st).domKeys = s.domKeys := rfl
@[simp] theorem State.setSt_ddrldBusy (s : State) (st : Strand) : (s.setSt st).ddrldBusy = s.ddrldBusy := rfl
@[simp] theorem State.setSt_icache (s : State) (st : Strand) : (s.setSt st).icache = s.icache := rfl
@[simp] theorem State.setSt_tlb (s : State) (st : Strand) : (s.setSt st).tlb = s.tlb := rfl
@[simp] theorem State.setSt_strands (s : State) (st : Strand) : (s.setSt st).strands = Tab.set s.strands s.cur st := rfl
@[simp] theorem State.setSt_preempted (s : State) (st : Strand) : (s.setSt st).preempted = s.preempted := rfl
@[simp] theorem State.setSt_gangs (s : State) (st : Strand) : (s.setSt st).gangs = s.gangs := rfl
@[simp] theorem State.setSt_grans (s : State) (st : Strand) : (s.setSt st).grans = s.grans := rfl
@[simp] theorem State.setSt_pk (s : State) (st : Strand) : (s.setSt st).pk = s.pk := rfl
@[simp] theorem State.setSt_queues (s : State) (st : Strand) : (s.setSt st).queues = s.queues := rfl
@[simp] theorem State.setSt_fulls (s : State) (st : Strand) : (s.setSt st).fulls = s.fulls := rfl
@[simp] theorem State.setSt_held (s : State) (st : Strand) : (s.setSt st).held = s.held := rfl
@[simp] theorem State.setSt_images (s : State) (st : Strand) : (s.setSt st).images = s.images := rfl
@[simp] theorem State.setSt_hostEvents (s : State) (st : Strand) : (s.setSt st).hostEvents = s.hostEvents := rfl
@[simp] theorem State.setSt_evRetry (s : State) (st : Strand) : (s.setSt st).evRetry = s.evRetry := rfl
@[simp] theorem State.setSt_qstat (s : State) (st : Strand) : (s.setSt st).qstat = s.qstat := rfl
@[simp] theorem State.setSt_banks (s : State) (st : Strand) : (s.setSt st).banks = s.banks := rfl
@[simp] theorem State.setSt_codebooks (s : State) (st : Strand) : (s.setSt st).codebooks = s.codebooks := rfl
@[simp] theorem State.setSt_slots (s : State) (st : Strand) : (s.setSt st).slots = s.slots := rfl
@[simp] theorem State.setSt_ports (s : State) (st : Strand) : (s.setSt st).ports = s.ports := rfl
@[simp] theorem State.setSt_nextTag (s : State) (st : Strand) : (s.setSt st).nextTag = s.nextTag := rfl
@[simp] theorem State.setSt_txns (s : State) (st : Strand) : (s.setSt st).txns = s.txns := rfl
@[simp] theorem State.setSt_window (s : State) (st : Strand) : (s.setSt st).window = s.window := rfl
@[simp] theorem State.setSt_inbox (s : State) (st : Strand) : (s.setSt st).inbox = s.inbox := rfl
@[simp] theorem State.setSt_islands (s : State) (st : Strand) : (s.setSt st).islands = s.islands := rfl
@[simp] theorem State.setSt_meas (s : State) (st : Strand) : (s.setSt st).meas = s.meas := rfl
@[simp] theorem State.setSt_keys (s : State) (st : Strand) : (s.setSt st).keys = s.keys := rfl
@[simp] theorem State.setSt_counters (s : State) (st : Strand) : (s.setSt st).counters = s.counters := rfl
@[simp] theorem State.setSt_sample (s : State) (st : Strand) : (s.setSt st).sample = s.sample := rfl
@[simp] theorem State.setSt_sampleAt (s : State) (st : Strand) : (s.setSt st).sampleAt = s.sampleAt := rfl
@[simp] theorem State.setSt_watts (s : State) (st : Strand) : (s.setSt st).watts = s.watts := rfl
@[simp] theorem State.setSt_wattsAt (s : State) (st : Strand) : (s.setSt st).wattsAt = s.wattsAt := rfl
@[simp] theorem State.setSt_powerCap (s : State) (st : Strand) : (s.setSt st).powerCap = s.powerCap := rfl
@[simp] theorem State.setSt_rates (s : State) (st : Strand) : (s.setSt st).rates = s.rates := rfl
@[simp] theorem State.setSt_cnpAt (s : State) (st : Strand) : (s.setSt st).cnpAt = s.cnpAt := rfl
@[simp] theorem State.setSt_slew (s : State) (st : Strand) : (s.setSt st).slew = s.slew := rfl
@[simp] theorem State.setSt_bootOk (s : State) (st : Strand) : (s.setSt st).bootOk = s.bootOk := rfl
@[simp] theorem State.setSt_capping (s : State) (st : Strand) : (s.setSt st).capping = s.capping := rfl
@[simp] theorem State.setSt_powered (s : State) (st : Strand) : (s.setSt st).powered = s.powered := rfl
@[simp] theorem State.setSt_thermalLog (s : State) (st : Strand) : (s.setSt st).thermalLog = s.thermalLog := rfl
@[simp] theorem State.setSt_flash (s : State) (st : Strand) : (s.setSt st).flash = s.flash := rfl
@[simp] theorem State.setSt_untrained (s : State) (st : Strand) : (s.setSt st).untrained = s.untrained := rfl
@[simp] theorem State.setSt_bootStatus (s : State) (st : Strand) : (s.setSt st).bootStatus = s.bootStatus := rfl
@[simp] theorem State.setSt_cycle (s : State) (st : Strand) : (s.setSt st).cycle = s.cycle := rfl
@[simp] theorem State.setSt_time (s : State) (st : Strand) : (s.setSt st).time = s.time := rfl
@[simp] theorem State.setSt_out (s : State) (st : Strand) : (s.setSt st).out = s.out := rfl
@[simp] theorem State.setSt_order (s : State) (st : Strand) : (s.setSt st).order = s.order := rfl
@[simp] theorem State.setSt_cur (s : State) (st : Strand) : (s.setSt st).cur = s.cur := rfl
@[simp] theorem State.setSt_tick (s : State) (st : Strand) : (s.setSt st).tick = s.tick := rfl
@[simp] theorem State.setSt_due (s : State) (st : Strand) : (s.setSt st).due = s.due := rfl
@[simp] theorem State.setSt_agenda (s : State) (st : Strand) : (s.setSt st).agenda = s.agenda := rfl
@[simp] theorem State.setSt_defer (s : State) (st : Strand) : (s.setSt st).defer = s.defer := rfl

@[simp] theorem State.mapSt_mem (s : State) (f : Strand → Strand) : (s.mapSt f).mem = s.mem := rfl
@[simp] theorem State.mapSt_wordErr (s : State) (f : Strand → Strand) : (s.mapSt f).wordErr = s.wordErr := rfl
@[simp] theorem State.mapSt_lines (s : State) (f : Strand → Strand) : (s.mapSt f).lines = s.lines := rfl
@[simp] theorem State.mapSt_entries (s : State) (f : Strand → Strand) : (s.mapSt f).entries = s.entries := rfl
@[simp] theorem State.mapSt_buckets (s : State) (f : Strand → Strand) : (s.mapSt f).buckets = s.buckets := rfl
@[simp] theorem State.mapSt_entNext (s : State) (f : Strand → Strand) : (s.mapSt f).entNext = s.entNext := rfl
@[simp] theorem State.mapSt_useClock (s : State) (f : Strand → Strand) : (s.mapSt f).useClock = s.useClock := rfl
@[simp] theorem State.mapSt_kunsh (s : State) (f : Strand → Strand) : (s.mapSt f).kunsh = s.kunsh := rfl
@[simp] theorem State.mapSt_domKeys (s : State) (f : Strand → Strand) : (s.mapSt f).domKeys = s.domKeys := rfl
@[simp] theorem State.mapSt_ddrldBusy (s : State) (f : Strand → Strand) : (s.mapSt f).ddrldBusy = s.ddrldBusy := rfl
@[simp] theorem State.mapSt_icache (s : State) (f : Strand → Strand) : (s.mapSt f).icache = s.icache := rfl
@[simp] theorem State.mapSt_tlb (s : State) (f : Strand → Strand) : (s.mapSt f).tlb = s.tlb := rfl
@[simp] theorem State.mapSt_strands (s : State) (f : Strand → Strand) : (s.mapSt f).strands = Tab.set s.strands s.cur (f s.st) := rfl
@[simp] theorem State.mapSt_preempted (s : State) (f : Strand → Strand) : (s.mapSt f).preempted = s.preempted := rfl
@[simp] theorem State.mapSt_gangs (s : State) (f : Strand → Strand) : (s.mapSt f).gangs = s.gangs := rfl
@[simp] theorem State.mapSt_grans (s : State) (f : Strand → Strand) : (s.mapSt f).grans = s.grans := rfl
@[simp] theorem State.mapSt_pk (s : State) (f : Strand → Strand) : (s.mapSt f).pk = s.pk := rfl
@[simp] theorem State.mapSt_queues (s : State) (f : Strand → Strand) : (s.mapSt f).queues = s.queues := rfl
@[simp] theorem State.mapSt_fulls (s : State) (f : Strand → Strand) : (s.mapSt f).fulls = s.fulls := rfl
@[simp] theorem State.mapSt_held (s : State) (f : Strand → Strand) : (s.mapSt f).held = s.held := rfl
@[simp] theorem State.mapSt_images (s : State) (f : Strand → Strand) : (s.mapSt f).images = s.images := rfl
@[simp] theorem State.mapSt_hostEvents (s : State) (f : Strand → Strand) : (s.mapSt f).hostEvents = s.hostEvents := rfl
@[simp] theorem State.mapSt_evRetry (s : State) (f : Strand → Strand) : (s.mapSt f).evRetry = s.evRetry := rfl
@[simp] theorem State.mapSt_qstat (s : State) (f : Strand → Strand) : (s.mapSt f).qstat = s.qstat := rfl
@[simp] theorem State.mapSt_banks (s : State) (f : Strand → Strand) : (s.mapSt f).banks = s.banks := rfl
@[simp] theorem State.mapSt_codebooks (s : State) (f : Strand → Strand) : (s.mapSt f).codebooks = s.codebooks := rfl
@[simp] theorem State.mapSt_slots (s : State) (f : Strand → Strand) : (s.mapSt f).slots = s.slots := rfl
@[simp] theorem State.mapSt_ports (s : State) (f : Strand → Strand) : (s.mapSt f).ports = s.ports := rfl
@[simp] theorem State.mapSt_nextTag (s : State) (f : Strand → Strand) : (s.mapSt f).nextTag = s.nextTag := rfl
@[simp] theorem State.mapSt_txns (s : State) (f : Strand → Strand) : (s.mapSt f).txns = s.txns := rfl
@[simp] theorem State.mapSt_window (s : State) (f : Strand → Strand) : (s.mapSt f).window = s.window := rfl
@[simp] theorem State.mapSt_inbox (s : State) (f : Strand → Strand) : (s.mapSt f).inbox = s.inbox := rfl
@[simp] theorem State.mapSt_islands (s : State) (f : Strand → Strand) : (s.mapSt f).islands = s.islands := rfl
@[simp] theorem State.mapSt_meas (s : State) (f : Strand → Strand) : (s.mapSt f).meas = s.meas := rfl
@[simp] theorem State.mapSt_keys (s : State) (f : Strand → Strand) : (s.mapSt f).keys = s.keys := rfl
@[simp] theorem State.mapSt_counters (s : State) (f : Strand → Strand) : (s.mapSt f).counters = s.counters := rfl
@[simp] theorem State.mapSt_sample (s : State) (f : Strand → Strand) : (s.mapSt f).sample = s.sample := rfl
@[simp] theorem State.mapSt_sampleAt (s : State) (f : Strand → Strand) : (s.mapSt f).sampleAt = s.sampleAt := rfl
@[simp] theorem State.mapSt_watts (s : State) (f : Strand → Strand) : (s.mapSt f).watts = s.watts := rfl
@[simp] theorem State.mapSt_wattsAt (s : State) (f : Strand → Strand) : (s.mapSt f).wattsAt = s.wattsAt := rfl
@[simp] theorem State.mapSt_powerCap (s : State) (f : Strand → Strand) : (s.mapSt f).powerCap = s.powerCap := rfl
@[simp] theorem State.mapSt_rates (s : State) (f : Strand → Strand) : (s.mapSt f).rates = s.rates := rfl
@[simp] theorem State.mapSt_cnpAt (s : State) (f : Strand → Strand) : (s.mapSt f).cnpAt = s.cnpAt := rfl
@[simp] theorem State.mapSt_slew (s : State) (f : Strand → Strand) : (s.mapSt f).slew = s.slew := rfl
@[simp] theorem State.mapSt_bootOk (s : State) (f : Strand → Strand) : (s.mapSt f).bootOk = s.bootOk := rfl
@[simp] theorem State.mapSt_capping (s : State) (f : Strand → Strand) : (s.mapSt f).capping = s.capping := rfl
@[simp] theorem State.mapSt_powered (s : State) (f : Strand → Strand) : (s.mapSt f).powered = s.powered := rfl
@[simp] theorem State.mapSt_thermalLog (s : State) (f : Strand → Strand) : (s.mapSt f).thermalLog = s.thermalLog := rfl
@[simp] theorem State.mapSt_flash (s : State) (f : Strand → Strand) : (s.mapSt f).flash = s.flash := rfl
@[simp] theorem State.mapSt_untrained (s : State) (f : Strand → Strand) : (s.mapSt f).untrained = s.untrained := rfl
@[simp] theorem State.mapSt_bootStatus (s : State) (f : Strand → Strand) : (s.mapSt f).bootStatus = s.bootStatus := rfl
@[simp] theorem State.mapSt_cycle (s : State) (f : Strand → Strand) : (s.mapSt f).cycle = s.cycle := rfl
@[simp] theorem State.mapSt_time (s : State) (f : Strand → Strand) : (s.mapSt f).time = s.time := rfl
@[simp] theorem State.mapSt_out (s : State) (f : Strand → Strand) : (s.mapSt f).out = s.out := rfl
@[simp] theorem State.mapSt_order (s : State) (f : Strand → Strand) : (s.mapSt f).order = s.order := rfl
@[simp] theorem State.mapSt_cur (s : State) (f : Strand → Strand) : (s.mapSt f).cur = s.cur := rfl
@[simp] theorem State.mapSt_tick (s : State) (f : Strand → Strand) : (s.mapSt f).tick = s.tick := rfl
@[simp] theorem State.mapSt_due (s : State) (f : Strand → Strand) : (s.mapSt f).due = s.due := rfl
@[simp] theorem State.mapSt_agenda (s : State) (f : Strand → Strand) : (s.mapSt f).agenda = s.agenda := rfl
@[simp] theorem State.mapSt_defer (s : State) (f : Strand → Strand) : (s.mapSt f).defer = s.defer := rfl

@[simp] theorem State.setPk_mem (s : State) (n : Nat) (v : Dword) : (s.setPk n v).mem = s.mem := rfl
@[simp] theorem State.setPk_wordErr (s : State) (n : Nat) (v : Dword) : (s.setPk n v).wordErr = s.wordErr := rfl
@[simp] theorem State.setPk_lines (s : State) (n : Nat) (v : Dword) : (s.setPk n v).lines = s.lines := rfl
@[simp] theorem State.setPk_entries (s : State) (n : Nat) (v : Dword) : (s.setPk n v).entries = s.entries := rfl
@[simp] theorem State.setPk_buckets (s : State) (n : Nat) (v : Dword) : (s.setPk n v).buckets = s.buckets := rfl
@[simp] theorem State.setPk_entNext (s : State) (n : Nat) (v : Dword) : (s.setPk n v).entNext = s.entNext := rfl
@[simp] theorem State.setPk_useClock (s : State) (n : Nat) (v : Dword) : (s.setPk n v).useClock = s.useClock := rfl
@[simp] theorem State.setPk_kunsh (s : State) (n : Nat) (v : Dword) : (s.setPk n v).kunsh = s.kunsh := rfl
@[simp] theorem State.setPk_domKeys (s : State) (n : Nat) (v : Dword) : (s.setPk n v).domKeys = s.domKeys := rfl
@[simp] theorem State.setPk_ddrldBusy (s : State) (n : Nat) (v : Dword) : (s.setPk n v).ddrldBusy = s.ddrldBusy := rfl
@[simp] theorem State.setPk_icache (s : State) (n : Nat) (v : Dword) : (s.setPk n v).icache = s.icache := rfl
@[simp] theorem State.setPk_tlb (s : State) (n : Nat) (v : Dword) : (s.setPk n v).tlb = s.tlb := rfl
@[simp] theorem State.setPk_strands (s : State) (n : Nat) (v : Dword) : (s.setPk n v).strands = s.strands := rfl
@[simp] theorem State.setPk_preempted (s : State) (n : Nat) (v : Dword) : (s.setPk n v).preempted = s.preempted := rfl
@[simp] theorem State.setPk_gangs (s : State) (n : Nat) (v : Dword) : (s.setPk n v).gangs = s.gangs := rfl
@[simp] theorem State.setPk_grans (s : State) (n : Nat) (v : Dword) : (s.setPk n v).grans = s.grans := rfl
@[simp] theorem State.setPk_pk (s : State) (n : Nat) (v : Dword) : (s.setPk n v).pk = Tab.set s.pk n v := rfl
@[simp] theorem State.setPk_queues (s : State) (n : Nat) (v : Dword) : (s.setPk n v).queues = s.queues := rfl
@[simp] theorem State.setPk_fulls (s : State) (n : Nat) (v : Dword) : (s.setPk n v).fulls = s.fulls := rfl
@[simp] theorem State.setPk_held (s : State) (n : Nat) (v : Dword) : (s.setPk n v).held = s.held := rfl
@[simp] theorem State.setPk_images (s : State) (n : Nat) (v : Dword) : (s.setPk n v).images = s.images := rfl
@[simp] theorem State.setPk_hostEvents (s : State) (n : Nat) (v : Dword) : (s.setPk n v).hostEvents = s.hostEvents := rfl
@[simp] theorem State.setPk_evRetry (s : State) (n : Nat) (v : Dword) : (s.setPk n v).evRetry = s.evRetry := rfl
@[simp] theorem State.setPk_qstat (s : State) (n : Nat) (v : Dword) : (s.setPk n v).qstat = s.qstat := rfl
@[simp] theorem State.setPk_banks (s : State) (n : Nat) (v : Dword) : (s.setPk n v).banks = s.banks := rfl
@[simp] theorem State.setPk_codebooks (s : State) (n : Nat) (v : Dword) : (s.setPk n v).codebooks = s.codebooks := rfl
@[simp] theorem State.setPk_slots (s : State) (n : Nat) (v : Dword) : (s.setPk n v).slots = s.slots := rfl
@[simp] theorem State.setPk_ports (s : State) (n : Nat) (v : Dword) : (s.setPk n v).ports = s.ports := rfl
@[simp] theorem State.setPk_nextTag (s : State) (n : Nat) (v : Dword) : (s.setPk n v).nextTag = s.nextTag := rfl
@[simp] theorem State.setPk_txns (s : State) (n : Nat) (v : Dword) : (s.setPk n v).txns = s.txns := rfl
@[simp] theorem State.setPk_window (s : State) (n : Nat) (v : Dword) : (s.setPk n v).window = s.window := rfl
@[simp] theorem State.setPk_inbox (s : State) (n : Nat) (v : Dword) : (s.setPk n v).inbox = s.inbox := rfl
@[simp] theorem State.setPk_islands (s : State) (n : Nat) (v : Dword) : (s.setPk n v).islands = s.islands := rfl
@[simp] theorem State.setPk_meas (s : State) (n : Nat) (v : Dword) : (s.setPk n v).meas = s.meas := rfl
@[simp] theorem State.setPk_keys (s : State) (n : Nat) (v : Dword) : (s.setPk n v).keys = s.keys := rfl
@[simp] theorem State.setPk_counters (s : State) (n : Nat) (v : Dword) : (s.setPk n v).counters = s.counters := rfl
@[simp] theorem State.setPk_sample (s : State) (n : Nat) (v : Dword) : (s.setPk n v).sample = s.sample := rfl
@[simp] theorem State.setPk_sampleAt (s : State) (n : Nat) (v : Dword) : (s.setPk n v).sampleAt = s.sampleAt := rfl
@[simp] theorem State.setPk_watts (s : State) (n : Nat) (v : Dword) : (s.setPk n v).watts = s.watts := rfl
@[simp] theorem State.setPk_wattsAt (s : State) (n : Nat) (v : Dword) : (s.setPk n v).wattsAt = s.wattsAt := rfl
@[simp] theorem State.setPk_powerCap (s : State) (n : Nat) (v : Dword) : (s.setPk n v).powerCap = s.powerCap := rfl
@[simp] theorem State.setPk_rates (s : State) (n : Nat) (v : Dword) : (s.setPk n v).rates = s.rates := rfl
@[simp] theorem State.setPk_cnpAt (s : State) (n : Nat) (v : Dword) : (s.setPk n v).cnpAt = s.cnpAt := rfl
@[simp] theorem State.setPk_slew (s : State) (n : Nat) (v : Dword) : (s.setPk n v).slew = s.slew := rfl
@[simp] theorem State.setPk_bootOk (s : State) (n : Nat) (v : Dword) : (s.setPk n v).bootOk = s.bootOk := rfl
@[simp] theorem State.setPk_capping (s : State) (n : Nat) (v : Dword) : (s.setPk n v).capping = s.capping := rfl
@[simp] theorem State.setPk_powered (s : State) (n : Nat) (v : Dword) : (s.setPk n v).powered = s.powered := rfl
@[simp] theorem State.setPk_thermalLog (s : State) (n : Nat) (v : Dword) : (s.setPk n v).thermalLog = s.thermalLog := rfl
@[simp] theorem State.setPk_flash (s : State) (n : Nat) (v : Dword) : (s.setPk n v).flash = s.flash := rfl
@[simp] theorem State.setPk_untrained (s : State) (n : Nat) (v : Dword) : (s.setPk n v).untrained = s.untrained := rfl
@[simp] theorem State.setPk_bootStatus (s : State) (n : Nat) (v : Dword) : (s.setPk n v).bootStatus = s.bootStatus := rfl
@[simp] theorem State.setPk_cycle (s : State) (n : Nat) (v : Dword) : (s.setPk n v).cycle = s.cycle := rfl
@[simp] theorem State.setPk_time (s : State) (n : Nat) (v : Dword) : (s.setPk n v).time = s.time := rfl
@[simp] theorem State.setPk_out (s : State) (n : Nat) (v : Dword) : (s.setPk n v).out = s.out := rfl
@[simp] theorem State.setPk_order (s : State) (n : Nat) (v : Dword) : (s.setPk n v).order = s.order := rfl
@[simp] theorem State.setPk_cur (s : State) (n : Nat) (v : Dword) : (s.setPk n v).cur = s.cur := rfl
@[simp] theorem State.setPk_tick (s : State) (n : Nat) (v : Dword) : (s.setPk n v).tick = s.tick := rfl
@[simp] theorem State.setPk_due (s : State) (n : Nat) (v : Dword) : (s.setPk n v).due = s.due := rfl
@[simp] theorem State.setPk_agenda (s : State) (n : Nat) (v : Dword) : (s.setPk n v).agenda = s.agenda := rfl
@[simp] theorem State.setPk_defer (s : State) (n : Nat) (v : Dword) : (s.setPk n v).defer = s.defer := rfl

@[simp] theorem State.raise_mem (s : State) (t : Task) : (s.raise t).mem = s.mem := rfl
@[simp] theorem State.raise_wordErr (s : State) (t : Task) : (s.raise t).wordErr = s.wordErr := rfl
@[simp] theorem State.raise_lines (s : State) (t : Task) : (s.raise t).lines = s.lines := rfl
@[simp] theorem State.raise_entries (s : State) (t : Task) : (s.raise t).entries = s.entries := rfl
@[simp] theorem State.raise_buckets (s : State) (t : Task) : (s.raise t).buckets = s.buckets := rfl
@[simp] theorem State.raise_entNext (s : State) (t : Task) : (s.raise t).entNext = s.entNext := rfl
@[simp] theorem State.raise_useClock (s : State) (t : Task) : (s.raise t).useClock = s.useClock := rfl
@[simp] theorem State.raise_kunsh (s : State) (t : Task) : (s.raise t).kunsh = s.kunsh := rfl
@[simp] theorem State.raise_domKeys (s : State) (t : Task) : (s.raise t).domKeys = s.domKeys := rfl
@[simp] theorem State.raise_ddrldBusy (s : State) (t : Task) : (s.raise t).ddrldBusy = s.ddrldBusy := rfl
@[simp] theorem State.raise_icache (s : State) (t : Task) : (s.raise t).icache = s.icache := rfl
@[simp] theorem State.raise_tlb (s : State) (t : Task) : (s.raise t).tlb = s.tlb := rfl
@[simp] theorem State.raise_strands (s : State) (t : Task) : (s.raise t).strands = s.strands := rfl
@[simp] theorem State.raise_preempted (s : State) (t : Task) : (s.raise t).preempted = s.preempted := rfl
@[simp] theorem State.raise_gangs (s : State) (t : Task) : (s.raise t).gangs = s.gangs := rfl
@[simp] theorem State.raise_grans (s : State) (t : Task) : (s.raise t).grans = s.grans := rfl
@[simp] theorem State.raise_pk (s : State) (t : Task) : (s.raise t).pk = s.pk := rfl
@[simp] theorem State.raise_queues (s : State) (t : Task) : (s.raise t).queues = s.queues := rfl
@[simp] theorem State.raise_fulls (s : State) (t : Task) : (s.raise t).fulls = s.fulls := rfl
@[simp] theorem State.raise_held (s : State) (t : Task) : (s.raise t).held = s.held := rfl
@[simp] theorem State.raise_images (s : State) (t : Task) : (s.raise t).images = s.images := rfl
@[simp] theorem State.raise_hostEvents (s : State) (t : Task) : (s.raise t).hostEvents = s.hostEvents := rfl
@[simp] theorem State.raise_evRetry (s : State) (t : Task) : (s.raise t).evRetry = s.evRetry := rfl
@[simp] theorem State.raise_qstat (s : State) (t : Task) : (s.raise t).qstat = s.qstat := rfl
@[simp] theorem State.raise_banks (s : State) (t : Task) : (s.raise t).banks = s.banks := rfl
@[simp] theorem State.raise_codebooks (s : State) (t : Task) : (s.raise t).codebooks = s.codebooks := rfl
@[simp] theorem State.raise_slots (s : State) (t : Task) : (s.raise t).slots = s.slots := rfl
@[simp] theorem State.raise_ports (s : State) (t : Task) : (s.raise t).ports = s.ports := rfl
@[simp] theorem State.raise_nextTag (s : State) (t : Task) : (s.raise t).nextTag = s.nextTag := rfl
@[simp] theorem State.raise_txns (s : State) (t : Task) : (s.raise t).txns = s.txns := rfl
@[simp] theorem State.raise_window (s : State) (t : Task) : (s.raise t).window = s.window := rfl
@[simp] theorem State.raise_inbox (s : State) (t : Task) : (s.raise t).inbox = s.inbox := rfl
@[simp] theorem State.raise_islands (s : State) (t : Task) : (s.raise t).islands = s.islands := rfl
@[simp] theorem State.raise_meas (s : State) (t : Task) : (s.raise t).meas = s.meas := rfl
@[simp] theorem State.raise_keys (s : State) (t : Task) : (s.raise t).keys = s.keys := rfl
@[simp] theorem State.raise_counters (s : State) (t : Task) : (s.raise t).counters = s.counters := rfl
@[simp] theorem State.raise_sample (s : State) (t : Task) : (s.raise t).sample = s.sample := rfl
@[simp] theorem State.raise_sampleAt (s : State) (t : Task) : (s.raise t).sampleAt = s.sampleAt := rfl
@[simp] theorem State.raise_watts (s : State) (t : Task) : (s.raise t).watts = s.watts := rfl
@[simp] theorem State.raise_wattsAt (s : State) (t : Task) : (s.raise t).wattsAt = s.wattsAt := rfl
@[simp] theorem State.raise_powerCap (s : State) (t : Task) : (s.raise t).powerCap = s.powerCap := rfl
@[simp] theorem State.raise_rates (s : State) (t : Task) : (s.raise t).rates = s.rates := rfl
@[simp] theorem State.raise_cnpAt (s : State) (t : Task) : (s.raise t).cnpAt = s.cnpAt := rfl
@[simp] theorem State.raise_slew (s : State) (t : Task) : (s.raise t).slew = s.slew := rfl
@[simp] theorem State.raise_bootOk (s : State) (t : Task) : (s.raise t).bootOk = s.bootOk := rfl
@[simp] theorem State.raise_capping (s : State) (t : Task) : (s.raise t).capping = s.capping := rfl
@[simp] theorem State.raise_powered (s : State) (t : Task) : (s.raise t).powered = s.powered := rfl
@[simp] theorem State.raise_thermalLog (s : State) (t : Task) : (s.raise t).thermalLog = s.thermalLog := rfl
@[simp] theorem State.raise_flash (s : State) (t : Task) : (s.raise t).flash = s.flash := rfl
@[simp] theorem State.raise_untrained (s : State) (t : Task) : (s.raise t).untrained = s.untrained := rfl
@[simp] theorem State.raise_bootStatus (s : State) (t : Task) : (s.raise t).bootStatus = s.bootStatus := rfl
@[simp] theorem State.raise_cycle (s : State) (t : Task) : (s.raise t).cycle = s.cycle := rfl
@[simp] theorem State.raise_time (s : State) (t : Task) : (s.raise t).time = s.time := rfl
@[simp] theorem State.raise_out (s : State) (t : Task) : (s.raise t).out = s.out := rfl
@[simp] theorem State.raise_order (s : State) (t : Task) : (s.raise t).order = s.order := rfl
@[simp] theorem State.raise_cur (s : State) (t : Task) : (s.raise t).cur = s.cur := rfl
@[simp] theorem State.raise_tick (s : State) (t : Task) : (s.raise t).tick = s.tick := rfl
@[simp] theorem State.raise_due (s : State) (t : Task) : (s.raise t).due = s.due ++ [t] := rfl
@[simp] theorem State.raise_agenda (s : State) (t : Task) : (s.raise t).agenda = s.agenda := rfl
@[simp] theorem State.raise_defer (s : State) (t : Task) : (s.raise t).defer = s.defer := rfl

@[simp] theorem State.send_mem (s : State) (m : OutMsg) : (s.send m).mem = s.mem := rfl
@[simp] theorem State.send_wordErr (s : State) (m : OutMsg) : (s.send m).wordErr = s.wordErr := rfl
@[simp] theorem State.send_lines (s : State) (m : OutMsg) : (s.send m).lines = s.lines := rfl
@[simp] theorem State.send_entries (s : State) (m : OutMsg) : (s.send m).entries = s.entries := rfl
@[simp] theorem State.send_buckets (s : State) (m : OutMsg) : (s.send m).buckets = s.buckets := rfl
@[simp] theorem State.send_entNext (s : State) (m : OutMsg) : (s.send m).entNext = s.entNext := rfl
@[simp] theorem State.send_useClock (s : State) (m : OutMsg) : (s.send m).useClock = s.useClock := rfl
@[simp] theorem State.send_kunsh (s : State) (m : OutMsg) : (s.send m).kunsh = s.kunsh := rfl
@[simp] theorem State.send_domKeys (s : State) (m : OutMsg) : (s.send m).domKeys = s.domKeys := rfl
@[simp] theorem State.send_ddrldBusy (s : State) (m : OutMsg) : (s.send m).ddrldBusy = s.ddrldBusy := rfl
@[simp] theorem State.send_icache (s : State) (m : OutMsg) : (s.send m).icache = s.icache := rfl
@[simp] theorem State.send_tlb (s : State) (m : OutMsg) : (s.send m).tlb = s.tlb := rfl
@[simp] theorem State.send_strands (s : State) (m : OutMsg) : (s.send m).strands = s.strands := rfl
@[simp] theorem State.send_preempted (s : State) (m : OutMsg) : (s.send m).preempted = s.preempted := rfl
@[simp] theorem State.send_gangs (s : State) (m : OutMsg) : (s.send m).gangs = s.gangs := rfl
@[simp] theorem State.send_grans (s : State) (m : OutMsg) : (s.send m).grans = s.grans := rfl
@[simp] theorem State.send_pk (s : State) (m : OutMsg) : (s.send m).pk = s.pk := rfl
@[simp] theorem State.send_queues (s : State) (m : OutMsg) : (s.send m).queues = s.queues := rfl
@[simp] theorem State.send_fulls (s : State) (m : OutMsg) : (s.send m).fulls = s.fulls := rfl
@[simp] theorem State.send_held (s : State) (m : OutMsg) : (s.send m).held = s.held := rfl
@[simp] theorem State.send_images (s : State) (m : OutMsg) : (s.send m).images = s.images := rfl
@[simp] theorem State.send_hostEvents (s : State) (m : OutMsg) : (s.send m).hostEvents = s.hostEvents := rfl
@[simp] theorem State.send_evRetry (s : State) (m : OutMsg) : (s.send m).evRetry = s.evRetry := rfl
@[simp] theorem State.send_qstat (s : State) (m : OutMsg) : (s.send m).qstat = s.qstat := rfl
@[simp] theorem State.send_banks (s : State) (m : OutMsg) : (s.send m).banks = s.banks := rfl
@[simp] theorem State.send_codebooks (s : State) (m : OutMsg) : (s.send m).codebooks = s.codebooks := rfl
@[simp] theorem State.send_slots (s : State) (m : OutMsg) : (s.send m).slots = s.slots := rfl
@[simp] theorem State.send_ports (s : State) (m : OutMsg) : (s.send m).ports = s.ports := rfl
@[simp] theorem State.send_nextTag (s : State) (m : OutMsg) : (s.send m).nextTag = s.nextTag := rfl
@[simp] theorem State.send_txns (s : State) (m : OutMsg) : (s.send m).txns = s.txns := rfl
@[simp] theorem State.send_window (s : State) (m : OutMsg) : (s.send m).window = s.window := rfl
@[simp] theorem State.send_inbox (s : State) (m : OutMsg) : (s.send m).inbox = s.inbox := rfl
@[simp] theorem State.send_islands (s : State) (m : OutMsg) : (s.send m).islands = s.islands := rfl
@[simp] theorem State.send_meas (s : State) (m : OutMsg) : (s.send m).meas = s.meas := rfl
@[simp] theorem State.send_keys (s : State) (m : OutMsg) : (s.send m).keys = s.keys := rfl
@[simp] theorem State.send_counters (s : State) (m : OutMsg) : (s.send m).counters = s.counters := rfl
@[simp] theorem State.send_sample (s : State) (m : OutMsg) : (s.send m).sample = s.sample := rfl
@[simp] theorem State.send_sampleAt (s : State) (m : OutMsg) : (s.send m).sampleAt = s.sampleAt := rfl
@[simp] theorem State.send_watts (s : State) (m : OutMsg) : (s.send m).watts = s.watts := rfl
@[simp] theorem State.send_wattsAt (s : State) (m : OutMsg) : (s.send m).wattsAt = s.wattsAt := rfl
@[simp] theorem State.send_powerCap (s : State) (m : OutMsg) : (s.send m).powerCap = s.powerCap := rfl
@[simp] theorem State.send_rates (s : State) (m : OutMsg) : (s.send m).rates = s.rates := rfl
@[simp] theorem State.send_cnpAt (s : State) (m : OutMsg) : (s.send m).cnpAt = s.cnpAt := rfl
@[simp] theorem State.send_slew (s : State) (m : OutMsg) : (s.send m).slew = s.slew := rfl
@[simp] theorem State.send_bootOk (s : State) (m : OutMsg) : (s.send m).bootOk = s.bootOk := rfl
@[simp] theorem State.send_capping (s : State) (m : OutMsg) : (s.send m).capping = s.capping := rfl
@[simp] theorem State.send_powered (s : State) (m : OutMsg) : (s.send m).powered = s.powered := rfl
@[simp] theorem State.send_thermalLog (s : State) (m : OutMsg) : (s.send m).thermalLog = s.thermalLog := rfl
@[simp] theorem State.send_flash (s : State) (m : OutMsg) : (s.send m).flash = s.flash := rfl
@[simp] theorem State.send_untrained (s : State) (m : OutMsg) : (s.send m).untrained = s.untrained := rfl
@[simp] theorem State.send_bootStatus (s : State) (m : OutMsg) : (s.send m).bootStatus = s.bootStatus := rfl
@[simp] theorem State.send_cycle (s : State) (m : OutMsg) : (s.send m).cycle = s.cycle := rfl
@[simp] theorem State.send_time (s : State) (m : OutMsg) : (s.send m).time = s.time := rfl
@[simp] theorem State.send_out (s : State) (m : OutMsg) : (s.send m).out = s.out ++ [m] := rfl
@[simp] theorem State.send_order (s : State) (m : OutMsg) : (s.send m).order = s.order := rfl
@[simp] theorem State.send_cur (s : State) (m : OutMsg) : (s.send m).cur = s.cur := rfl
@[simp] theorem State.send_tick (s : State) (m : OutMsg) : (s.send m).tick = s.tick := rfl
@[simp] theorem State.send_due (s : State) (m : OutMsg) : (s.send m).due = s.due := rfl
@[simp] theorem State.send_agenda (s : State) (m : OutMsg) : (s.send m).agenda = s.agenda := rfl
@[simp] theorem State.send_defer (s : State) (m : OutMsg) : (s.send m).defer = s.defer := rfl

@[simp] theorem State.count_mem (s : State) (n : Nat) : (s.count n).mem = s.mem := rfl
@[simp] theorem State.count_wordErr (s : State) (n : Nat) : (s.count n).wordErr = s.wordErr := rfl
@[simp] theorem State.count_lines (s : State) (n : Nat) : (s.count n).lines = s.lines := rfl
@[simp] theorem State.count_entries (s : State) (n : Nat) : (s.count n).entries = s.entries := rfl
@[simp] theorem State.count_buckets (s : State) (n : Nat) : (s.count n).buckets = s.buckets := rfl
@[simp] theorem State.count_entNext (s : State) (n : Nat) : (s.count n).entNext = s.entNext := rfl
@[simp] theorem State.count_useClock (s : State) (n : Nat) : (s.count n).useClock = s.useClock := rfl
@[simp] theorem State.count_kunsh (s : State) (n : Nat) : (s.count n).kunsh = s.kunsh := rfl
@[simp] theorem State.count_domKeys (s : State) (n : Nat) : (s.count n).domKeys = s.domKeys := rfl
@[simp] theorem State.count_ddrldBusy (s : State) (n : Nat) : (s.count n).ddrldBusy = s.ddrldBusy := rfl
@[simp] theorem State.count_icache (s : State) (n : Nat) : (s.count n).icache = s.icache := rfl
@[simp] theorem State.count_tlb (s : State) (n : Nat) : (s.count n).tlb = s.tlb := rfl
@[simp] theorem State.count_strands (s : State) (n : Nat) : (s.count n).strands = s.strands := rfl
@[simp] theorem State.count_preempted (s : State) (n : Nat) : (s.count n).preempted = s.preempted := rfl
@[simp] theorem State.count_gangs (s : State) (n : Nat) : (s.count n).gangs = s.gangs := rfl
@[simp] theorem State.count_grans (s : State) (n : Nat) : (s.count n).grans = s.grans := rfl
@[simp] theorem State.count_pk (s : State) (n : Nat) : (s.count n).pk = s.pk := rfl
@[simp] theorem State.count_queues (s : State) (n : Nat) : (s.count n).queues = s.queues := rfl
@[simp] theorem State.count_fulls (s : State) (n : Nat) : (s.count n).fulls = s.fulls := rfl
@[simp] theorem State.count_held (s : State) (n : Nat) : (s.count n).held = s.held := rfl
@[simp] theorem State.count_images (s : State) (n : Nat) : (s.count n).images = s.images := rfl
@[simp] theorem State.count_hostEvents (s : State) (n : Nat) : (s.count n).hostEvents = s.hostEvents := rfl
@[simp] theorem State.count_evRetry (s : State) (n : Nat) : (s.count n).evRetry = s.evRetry := rfl
@[simp] theorem State.count_qstat (s : State) (n : Nat) : (s.count n).qstat = s.qstat := rfl
@[simp] theorem State.count_banks (s : State) (n : Nat) : (s.count n).banks = s.banks := rfl
@[simp] theorem State.count_codebooks (s : State) (n : Nat) : (s.count n).codebooks = s.codebooks := rfl
@[simp] theorem State.count_slots (s : State) (n : Nat) : (s.count n).slots = s.slots := rfl
@[simp] theorem State.count_ports (s : State) (n : Nat) : (s.count n).ports = s.ports := rfl
@[simp] theorem State.count_nextTag (s : State) (n : Nat) : (s.count n).nextTag = s.nextTag := rfl
@[simp] theorem State.count_txns (s : State) (n : Nat) : (s.count n).txns = s.txns := rfl
@[simp] theorem State.count_window (s : State) (n : Nat) : (s.count n).window = s.window := rfl
@[simp] theorem State.count_inbox (s : State) (n : Nat) : (s.count n).inbox = s.inbox := rfl
@[simp] theorem State.count_islands (s : State) (n : Nat) : (s.count n).islands = s.islands := rfl
@[simp] theorem State.count_meas (s : State) (n : Nat) : (s.count n).meas = s.meas := rfl
@[simp] theorem State.count_keys (s : State) (n : Nat) : (s.count n).keys = s.keys := rfl
@[simp] theorem State.count_counters (s : State) (n : Nat) : (s.count n).counters = Tab.set s.counters n (Tab.get s.counters n + 1) := rfl
@[simp] theorem State.count_sample (s : State) (n : Nat) : (s.count n).sample = s.sample := rfl
@[simp] theorem State.count_sampleAt (s : State) (n : Nat) : (s.count n).sampleAt = s.sampleAt := rfl
@[simp] theorem State.count_watts (s : State) (n : Nat) : (s.count n).watts = s.watts := rfl
@[simp] theorem State.count_wattsAt (s : State) (n : Nat) : (s.count n).wattsAt = s.wattsAt := rfl
@[simp] theorem State.count_powerCap (s : State) (n : Nat) : (s.count n).powerCap = s.powerCap := rfl
@[simp] theorem State.count_rates (s : State) (n : Nat) : (s.count n).rates = s.rates := rfl
@[simp] theorem State.count_cnpAt (s : State) (n : Nat) : (s.count n).cnpAt = s.cnpAt := rfl
@[simp] theorem State.count_slew (s : State) (n : Nat) : (s.count n).slew = s.slew := rfl
@[simp] theorem State.count_bootOk (s : State) (n : Nat) : (s.count n).bootOk = s.bootOk := rfl
@[simp] theorem State.count_capping (s : State) (n : Nat) : (s.count n).capping = s.capping := rfl
@[simp] theorem State.count_powered (s : State) (n : Nat) : (s.count n).powered = s.powered := rfl
@[simp] theorem State.count_thermalLog (s : State) (n : Nat) : (s.count n).thermalLog = s.thermalLog := rfl
@[simp] theorem State.count_flash (s : State) (n : Nat) : (s.count n).flash = s.flash := rfl
@[simp] theorem State.count_untrained (s : State) (n : Nat) : (s.count n).untrained = s.untrained := rfl
@[simp] theorem State.count_bootStatus (s : State) (n : Nat) : (s.count n).bootStatus = s.bootStatus := rfl
@[simp] theorem State.count_cycle (s : State) (n : Nat) : (s.count n).cycle = s.cycle := rfl
@[simp] theorem State.count_time (s : State) (n : Nat) : (s.count n).time = s.time := rfl
@[simp] theorem State.count_out (s : State) (n : Nat) : (s.count n).out = s.out := rfl
@[simp] theorem State.count_order (s : State) (n : Nat) : (s.count n).order = s.order := rfl
@[simp] theorem State.count_cur (s : State) (n : Nat) : (s.count n).cur = s.cur := rfl
@[simp] theorem State.count_tick (s : State) (n : Nat) : (s.count n).tick = s.tick := rfl
@[simp] theorem State.count_due (s : State) (n : Nat) : (s.count n).due = s.due := rfl
@[simp] theorem State.count_agenda (s : State) (n : Nat) : (s.count n).agenda = s.agenda := rfl
@[simp] theorem State.count_defer (s : State) (n : Nat) : (s.count n).defer = s.defer := rfl

@[simp] theorem Strand.setCr_run (st : Strand) (n : Nat) (v : Dword) : (st.setCr n v).run = st.run := rfl
@[simp] theorem Strand.setCr_pc (st : Strand) (n : Nat) (v : Dword) : (st.setCr n v).pc = st.pc := rfl
@[simp] theorem Strand.setCr_pl (st : Strand) (n : Nat) (v : Dword) : (st.setCr n v).pl = st.pl := rfl
@[simp] theorem Strand.setCr_x (st : Strand) (n : Nat) (v : Dword) : (st.setCr n v).x = st.x := rfl
@[simp] theorem Strand.setCr_latch (st : Strand) (n : Nat) (v : Dword) : (st.setCr n v).latch = st.latch := rfl
@[simp] theorem Strand.setCr_csr (st : Strand) (n : Nat) (v : Dword) : (st.setCr n v).csr = Tab.set st.csr n v := rfl
@[simp] theorem Strand.setCr_readQ (st : Strand) (n : Nat) (v : Dword) : (st.setCr n v).readQ = st.readQ := rfl
@[simp] theorem Strand.setCr_stores (st : Strand) (n : Nat) (v : Dword) : (st.setCr n v).stores = st.stores := rfl
@[simp] theorem Strand.setCr_loads (st : Strand) (n : Nat) (v : Dword) : (st.setCr n v).loads = st.loads := rfl
@[simp] theorem Strand.setCr_deadline (st : Strand) (n : Nat) (v : Dword) : (st.setCr n v).deadline = st.deadline := rfl
@[simp] theorem Strand.setCr_behind (st : Strand) (n : Nat) (v : Dword) : (st.setCr n v).behind = st.behind := rfl
@[simp] theorem Strand.setCr_resumed (st : Strand) (n : Nat) (v : Dword) : (st.setCr n v).resumed = st.resumed := rfl
@[simp] theorem Strand.setCr_timer (st : Strand) (n : Nat) (v : Dword) : (st.setCr n v).timer = st.timer := rfl
@[simp] theorem Strand.setCr_gang (st : Strand) (n : Nat) (v : Dword) : (st.setCr n v).gang = st.gang := rfl
@[simp] theorem Strand.setCr_pool (st : Strand) (n : Nat) (v : Dword) : (st.setCr n v).pool = st.pool := rfl
@[simp] theorem Strand.setCr_lanes (st : Strand) (n : Nat) (v : Dword) : (st.setCr n v).lanes = st.lanes := rfl
@[simp] theorem Strand.setCr_want (st : Strand) (n : Nat) (v : Dword) : (st.setCr n v).want = st.want := rfl
@[simp] theorem Strand.setCr_yielded (st : Strand) (n : Nat) (v : Dword) : (st.setCr n v).yielded = st.yielded := rfl
@[simp] theorem Strand.setCr_v (st : Strand) (n : Nat) (v : Dword) : (st.setCr n v).v = st.v := rfl
@[simp] theorem Strand.setCr_m (st : Strand) (n : Nat) (v : Dword) : (st.setCr n v).m = st.m := rfl
@[simp] theorem Strand.setCr_h (st : Strand) (n : Nat) (v : Dword) : (st.setCr n v).h = st.h := rfl
@[simp] theorem Strand.setCr_tiles (st : Strand) (n : Nat) (v : Dword) : (st.setCr n v).tiles = st.tiles := rfl
@[simp] theorem Strand.setCr_vq (st : Strand) (n : Nat) (v : Dword) : (st.setCr n v).vq = st.vq := rfl
@[simp] theorem Strand.setCr_bankQ (st : Strand) (n : Nat) (v : Dword) : (st.setCr n v).bankQ = st.bankQ := rfl
@[simp] theorem Strand.setCr_bankTag (st : Strand) (n : Nat) (v : Dword) : (st.setCr n v).bankTag = st.bankTag := rfl
@[simp] theorem Strand.setCr_bankErrs (st : Strand) (n : Nat) (v : Dword) : (st.setCr n v).bankErrs = st.bankErrs := rfl
@[simp] theorem Strand.setCr_bsync (st : Strand) (n : Nat) (v : Dword) : (st.setCr n v).bsync = st.bsync := rfl
@[simp] theorem Strand.setCr_rows (st : Strand) (n : Nat) (v : Dword) : (st.setCr n v).rows = st.rows := rfl
@[simp] theorem Strand.setCr_uc (st : Strand) (n : Nat) (v : Dword) : (st.setCr n v).uc = st.uc := rfl
@[simp] theorem Strand.setCr_linkErrs (st : Strand) (n : Nat) (v : Dword) : (st.setCr n v).linkErrs = st.linkErrs := rfl
@[simp] theorem Strand.setCr_late (st : Strand) (n : Nat) (v : Dword) : (st.setCr n v).late = st.late := rfl
@[simp] theorem Strand.setCr_shadow (st : Strand) (n : Nat) (v : Dword) : (st.setCr n v).shadow = st.shadow := rfl
@[simp] theorem Strand.setCr_away (st : Strand) (n : Nat) (v : Dword) : (st.setCr n v).away = st.away := rfl

@[simp] theorem Strand.setCrN_run (st : Strand) (n v : Nat) : (st.setCrN n v).run = st.run := rfl
@[simp] theorem Strand.setCrN_pc (st : Strand) (n v : Nat) : (st.setCrN n v).pc = st.pc := rfl
@[simp] theorem Strand.setCrN_pl (st : Strand) (n v : Nat) : (st.setCrN n v).pl = st.pl := rfl
@[simp] theorem Strand.setCrN_x (st : Strand) (n v : Nat) : (st.setCrN n v).x = st.x := rfl
@[simp] theorem Strand.setCrN_latch (st : Strand) (n v : Nat) : (st.setCrN n v).latch = st.latch := rfl
@[simp] theorem Strand.setCrN_csr (st : Strand) (n v : Nat) : (st.setCrN n v).csr = Tab.set st.csr n (BitVec.ofNat 64 v) := rfl
@[simp] theorem Strand.setCrN_readQ (st : Strand) (n v : Nat) : (st.setCrN n v).readQ = st.readQ := rfl
@[simp] theorem Strand.setCrN_stores (st : Strand) (n v : Nat) : (st.setCrN n v).stores = st.stores := rfl
@[simp] theorem Strand.setCrN_loads (st : Strand) (n v : Nat) : (st.setCrN n v).loads = st.loads := rfl
@[simp] theorem Strand.setCrN_deadline (st : Strand) (n v : Nat) : (st.setCrN n v).deadline = st.deadline := rfl
@[simp] theorem Strand.setCrN_behind (st : Strand) (n v : Nat) : (st.setCrN n v).behind = st.behind := rfl
@[simp] theorem Strand.setCrN_resumed (st : Strand) (n v : Nat) : (st.setCrN n v).resumed = st.resumed := rfl
@[simp] theorem Strand.setCrN_timer (st : Strand) (n v : Nat) : (st.setCrN n v).timer = st.timer := rfl
@[simp] theorem Strand.setCrN_gang (st : Strand) (n v : Nat) : (st.setCrN n v).gang = st.gang := rfl
@[simp] theorem Strand.setCrN_pool (st : Strand) (n v : Nat) : (st.setCrN n v).pool = st.pool := rfl
@[simp] theorem Strand.setCrN_lanes (st : Strand) (n v : Nat) : (st.setCrN n v).lanes = st.lanes := rfl
@[simp] theorem Strand.setCrN_want (st : Strand) (n v : Nat) : (st.setCrN n v).want = st.want := rfl
@[simp] theorem Strand.setCrN_yielded (st : Strand) (n v : Nat) : (st.setCrN n v).yielded = st.yielded := rfl
@[simp] theorem Strand.setCrN_v (st : Strand) (n v : Nat) : (st.setCrN n v).v = st.v := rfl
@[simp] theorem Strand.setCrN_m (st : Strand) (n v : Nat) : (st.setCrN n v).m = st.m := rfl
@[simp] theorem Strand.setCrN_h (st : Strand) (n v : Nat) : (st.setCrN n v).h = st.h := rfl
@[simp] theorem Strand.setCrN_tiles (st : Strand) (n v : Nat) : (st.setCrN n v).tiles = st.tiles := rfl
@[simp] theorem Strand.setCrN_vq (st : Strand) (n v : Nat) : (st.setCrN n v).vq = st.vq := rfl
@[simp] theorem Strand.setCrN_bankQ (st : Strand) (n v : Nat) : (st.setCrN n v).bankQ = st.bankQ := rfl
@[simp] theorem Strand.setCrN_bankTag (st : Strand) (n v : Nat) : (st.setCrN n v).bankTag = st.bankTag := rfl
@[simp] theorem Strand.setCrN_bankErrs (st : Strand) (n v : Nat) : (st.setCrN n v).bankErrs = st.bankErrs := rfl
@[simp] theorem Strand.setCrN_bsync (st : Strand) (n v : Nat) : (st.setCrN n v).bsync = st.bsync := rfl
@[simp] theorem Strand.setCrN_rows (st : Strand) (n v : Nat) : (st.setCrN n v).rows = st.rows := rfl
@[simp] theorem Strand.setCrN_uc (st : Strand) (n v : Nat) : (st.setCrN n v).uc = st.uc := rfl
@[simp] theorem Strand.setCrN_linkErrs (st : Strand) (n v : Nat) : (st.setCrN n v).linkErrs = st.linkErrs := rfl
@[simp] theorem Strand.setCrN_late (st : Strand) (n v : Nat) : (st.setCrN n v).late = st.late := rfl
@[simp] theorem Strand.setCrN_shadow (st : Strand) (n v : Nat) : (st.setCrN n v).shadow = st.shadow := rfl
@[simp] theorem Strand.setCrN_away (st : Strand) (n v : Nat) : (st.setCrN n v).away = st.away := rfl

@[simp] theorem Strand.advance_run (st : Strand) : st.advance.run = st.run := rfl
@[simp] theorem Strand.advance_pc (st : Strand) : st.advance.pc = st.pc + 4 := rfl
@[simp] theorem Strand.advance_pl (st : Strand) : st.advance.pl = st.pl := rfl
@[simp] theorem Strand.advance_x (st : Strand) : st.advance.x = st.x := rfl
@[simp] theorem Strand.advance_latch (st : Strand) : st.advance.latch = 0 := rfl
@[simp] theorem Strand.advance_csr (st : Strand) : st.advance.csr = st.csr := rfl
@[simp] theorem Strand.advance_readQ (st : Strand) : st.advance.readQ = st.readQ := rfl
@[simp] theorem Strand.advance_stores (st : Strand) : st.advance.stores = st.stores := rfl
@[simp] theorem Strand.advance_loads (st : Strand) : st.advance.loads = st.loads := rfl
@[simp] theorem Strand.advance_deadline (st : Strand) : st.advance.deadline = st.deadline := rfl
@[simp] theorem Strand.advance_behind (st : Strand) : st.advance.behind = none := rfl
@[simp] theorem Strand.advance_resumed (st : Strand) : st.advance.resumed = false := rfl
@[simp] theorem Strand.advance_timer (st : Strand) : st.advance.timer = st.timer := rfl
@[simp] theorem Strand.advance_gang (st : Strand) : st.advance.gang = st.gang := rfl
@[simp] theorem Strand.advance_pool (st : Strand) : st.advance.pool = st.pool := rfl
@[simp] theorem Strand.advance_lanes (st : Strand) : st.advance.lanes = st.lanes := rfl
@[simp] theorem Strand.advance_want (st : Strand) : st.advance.want = st.want := rfl
@[simp] theorem Strand.advance_yielded (st : Strand) : st.advance.yielded = st.yielded := rfl
@[simp] theorem Strand.advance_v (st : Strand) : st.advance.v = st.v := rfl
@[simp] theorem Strand.advance_m (st : Strand) : st.advance.m = st.m := rfl
@[simp] theorem Strand.advance_h (st : Strand) : st.advance.h = st.h := rfl
@[simp] theorem Strand.advance_tiles (st : Strand) : st.advance.tiles = st.tiles := rfl
@[simp] theorem Strand.advance_vq (st : Strand) : st.advance.vq = st.vq := rfl
@[simp] theorem Strand.advance_bankQ (st : Strand) : st.advance.bankQ = st.bankQ := rfl
@[simp] theorem Strand.advance_bankTag (st : Strand) : st.advance.bankTag = st.bankTag := rfl
@[simp] theorem Strand.advance_bankErrs (st : Strand) : st.advance.bankErrs = st.bankErrs := rfl
@[simp] theorem Strand.advance_bsync (st : Strand) : st.advance.bsync = st.bsync := rfl
@[simp] theorem Strand.advance_rows (st : Strand) : st.advance.rows = st.rows := rfl
@[simp] theorem Strand.advance_uc (st : Strand) : st.advance.uc = st.uc := rfl
@[simp] theorem Strand.advance_linkErrs (st : Strand) : st.advance.linkErrs = st.linkErrs := rfl
@[simp] theorem Strand.advance_late (st : Strand) : st.advance.late = st.late := rfl
@[simp] theorem Strand.advance_shadow (st : Strand) : st.advance.shadow = st.shadow := rfl
@[simp] theorem Strand.advance_away (st : Strand) : st.advance.away = st.away := rfl

@[simp] theorem Strand.setX_run (st : Strand) (r : Nat) (v : Dword) : (st.setX r v).run = st.run := by
  unfold Strand.setX; split <;> rfl
@[simp] theorem Strand.setX_pc (st : Strand) (r : Nat) (v : Dword) : (st.setX r v).pc = st.pc := by
  unfold Strand.setX; split <;> rfl
@[simp] theorem Strand.setX_pl (st : Strand) (r : Nat) (v : Dword) : (st.setX r v).pl = st.pl := by
  unfold Strand.setX; split <;> rfl
@[simp] theorem Strand.setX_latch (st : Strand) (r : Nat) (v : Dword) : (st.setX r v).latch = st.latch := by
  unfold Strand.setX; split <;> rfl
@[simp] theorem Strand.setX_csr (st : Strand) (r : Nat) (v : Dword) : (st.setX r v).csr = st.csr := by
  unfold Strand.setX; split <;> rfl
@[simp] theorem Strand.setX_readQ (st : Strand) (r : Nat) (v : Dword) : (st.setX r v).readQ = st.readQ := by
  unfold Strand.setX; split <;> rfl
@[simp] theorem Strand.setX_stores (st : Strand) (r : Nat) (v : Dword) : (st.setX r v).stores = st.stores := by
  unfold Strand.setX; split <;> rfl
@[simp] theorem Strand.setX_loads (st : Strand) (r : Nat) (v : Dword) : (st.setX r v).loads = st.loads := by
  unfold Strand.setX; split <;> rfl
@[simp] theorem Strand.setX_deadline (st : Strand) (r : Nat) (v : Dword) : (st.setX r v).deadline = st.deadline := by
  unfold Strand.setX; split <;> rfl
@[simp] theorem Strand.setX_behind (st : Strand) (r : Nat) (v : Dword) : (st.setX r v).behind = st.behind := by
  unfold Strand.setX; split <;> rfl
@[simp] theorem Strand.setX_resumed (st : Strand) (r : Nat) (v : Dword) : (st.setX r v).resumed = st.resumed := by
  unfold Strand.setX; split <;> rfl
@[simp] theorem Strand.setX_timer (st : Strand) (r : Nat) (v : Dword) : (st.setX r v).timer = st.timer := by
  unfold Strand.setX; split <;> rfl
@[simp] theorem Strand.setX_gang (st : Strand) (r : Nat) (v : Dword) : (st.setX r v).gang = st.gang := by
  unfold Strand.setX; split <;> rfl
@[simp] theorem Strand.setX_pool (st : Strand) (r : Nat) (v : Dword) : (st.setX r v).pool = st.pool := by
  unfold Strand.setX; split <;> rfl
@[simp] theorem Strand.setX_lanes (st : Strand) (r : Nat) (v : Dword) : (st.setX r v).lanes = st.lanes := by
  unfold Strand.setX; split <;> rfl
@[simp] theorem Strand.setX_want (st : Strand) (r : Nat) (v : Dword) : (st.setX r v).want = st.want := by
  unfold Strand.setX; split <;> rfl
@[simp] theorem Strand.setX_yielded (st : Strand) (r : Nat) (v : Dword) : (st.setX r v).yielded = st.yielded := by
  unfold Strand.setX; split <;> rfl
@[simp] theorem Strand.setX_v (st : Strand) (r : Nat) (v : Dword) : (st.setX r v).v = st.v := by
  unfold Strand.setX; split <;> rfl
@[simp] theorem Strand.setX_m (st : Strand) (r : Nat) (v : Dword) : (st.setX r v).m = st.m := by
  unfold Strand.setX; split <;> rfl
@[simp] theorem Strand.setX_h (st : Strand) (r : Nat) (v : Dword) : (st.setX r v).h = st.h := by
  unfold Strand.setX; split <;> rfl
@[simp] theorem Strand.setX_tiles (st : Strand) (r : Nat) (v : Dword) : (st.setX r v).tiles = st.tiles := by
  unfold Strand.setX; split <;> rfl
@[simp] theorem Strand.setX_vq (st : Strand) (r : Nat) (v : Dword) : (st.setX r v).vq = st.vq := by
  unfold Strand.setX; split <;> rfl
@[simp] theorem Strand.setX_bankQ (st : Strand) (r : Nat) (v : Dword) : (st.setX r v).bankQ = st.bankQ := by
  unfold Strand.setX; split <;> rfl
@[simp] theorem Strand.setX_bankTag (st : Strand) (r : Nat) (v : Dword) : (st.setX r v).bankTag = st.bankTag := by
  unfold Strand.setX; split <;> rfl
@[simp] theorem Strand.setX_bankErrs (st : Strand) (r : Nat) (v : Dword) : (st.setX r v).bankErrs = st.bankErrs := by
  unfold Strand.setX; split <;> rfl
@[simp] theorem Strand.setX_bsync (st : Strand) (r : Nat) (v : Dword) : (st.setX r v).bsync = st.bsync := by
  unfold Strand.setX; split <;> rfl
@[simp] theorem Strand.setX_rows (st : Strand) (r : Nat) (v : Dword) : (st.setX r v).rows = st.rows := by
  unfold Strand.setX; split <;> rfl
@[simp] theorem Strand.setX_uc (st : Strand) (r : Nat) (v : Dword) : (st.setX r v).uc = st.uc := by
  unfold Strand.setX; split <;> rfl
@[simp] theorem Strand.setX_linkErrs (st : Strand) (r : Nat) (v : Dword) : (st.setX r v).linkErrs = st.linkErrs := by
  unfold Strand.setX; split <;> rfl
@[simp] theorem Strand.setX_late (st : Strand) (r : Nat) (v : Dword) : (st.setX r v).late = st.late := by
  unfold Strand.setX; split <;> rfl
@[simp] theorem Strand.setX_shadow (st : Strand) (r : Nat) (v : Dword) : (st.setX r v).shadow = st.shadow := by
  unfold Strand.setX; split <;> rfl
@[simp] theorem Strand.setX_away (st : Strand) (r : Nat) (v : Dword) : (st.setX r v).away = st.away := by
  unfold Strand.setX; split <;> rfl

@[simp] theorem Strand.putX_run (st : Strand) (d : Nat) (v : Dword) : (st.putX d v).run = st.run := by
  unfold Strand.putX; split <;> simp
@[simp] theorem Strand.putX_pc (st : Strand) (d : Nat) (v : Dword) : (st.putX d v).pc = st.pc := by
  unfold Strand.putX; split <;> simp
@[simp] theorem Strand.putX_pl (st : Strand) (d : Nat) (v : Dword) : (st.putX d v).pl = st.pl := by
  unfold Strand.putX; split <;> simp
@[simp] theorem Strand.putX_latch (st : Strand) (d : Nat) (v : Dword) : (st.putX d v).latch = st.latch := by
  unfold Strand.putX; split <;> simp
@[simp] theorem Strand.putX_csr (st : Strand) (d : Nat) (v : Dword) : (st.putX d v).csr = st.csr := by
  unfold Strand.putX; split <;> simp
@[simp] theorem Strand.putX_readQ (st : Strand) (d : Nat) (v : Dword) : (st.putX d v).readQ = st.readQ := by
  unfold Strand.putX; split <;> simp
@[simp] theorem Strand.putX_stores (st : Strand) (d : Nat) (v : Dword) : (st.putX d v).stores = st.stores := by
  unfold Strand.putX; split <;> simp
@[simp] theorem Strand.putX_loads (st : Strand) (d : Nat) (v : Dword) : (st.putX d v).loads = st.loads := by
  unfold Strand.putX; split <;> simp
@[simp] theorem Strand.putX_deadline (st : Strand) (d : Nat) (v : Dword) : (st.putX d v).deadline = st.deadline := by
  unfold Strand.putX; split <;> simp
@[simp] theorem Strand.putX_behind (st : Strand) (d : Nat) (v : Dword) : (st.putX d v).behind = st.behind := by
  unfold Strand.putX; split <;> simp
@[simp] theorem Strand.putX_resumed (st : Strand) (d : Nat) (v : Dword) : (st.putX d v).resumed = st.resumed := by
  unfold Strand.putX; split <;> simp
@[simp] theorem Strand.putX_timer (st : Strand) (d : Nat) (v : Dword) : (st.putX d v).timer = st.timer := by
  unfold Strand.putX; split <;> simp
@[simp] theorem Strand.putX_gang (st : Strand) (d : Nat) (v : Dword) : (st.putX d v).gang = st.gang := by
  unfold Strand.putX; split <;> simp
@[simp] theorem Strand.putX_pool (st : Strand) (d : Nat) (v : Dword) : (st.putX d v).pool = st.pool := by
  unfold Strand.putX; split <;> simp
@[simp] theorem Strand.putX_lanes (st : Strand) (d : Nat) (v : Dword) : (st.putX d v).lanes = st.lanes := by
  unfold Strand.putX; split <;> simp
@[simp] theorem Strand.putX_want (st : Strand) (d : Nat) (v : Dword) : (st.putX d v).want = st.want := by
  unfold Strand.putX; split <;> simp
@[simp] theorem Strand.putX_yielded (st : Strand) (d : Nat) (v : Dword) : (st.putX d v).yielded = st.yielded := by
  unfold Strand.putX; split <;> simp
@[simp] theorem Strand.putX_v (st : Strand) (d : Nat) (v : Dword) : (st.putX d v).v = st.v := by
  unfold Strand.putX; split <;> simp
@[simp] theorem Strand.putX_m (st : Strand) (d : Nat) (v : Dword) : (st.putX d v).m = st.m := by
  unfold Strand.putX; split <;> simp
@[simp] theorem Strand.putX_h (st : Strand) (d : Nat) (v : Dword) : (st.putX d v).h = st.h := by
  unfold Strand.putX; split <;> simp
@[simp] theorem Strand.putX_tiles (st : Strand) (d : Nat) (v : Dword) : (st.putX d v).tiles = st.tiles := by
  unfold Strand.putX; split <;> simp
@[simp] theorem Strand.putX_vq (st : Strand) (d : Nat) (v : Dword) : (st.putX d v).vq = st.vq := by
  unfold Strand.putX; split <;> simp
@[simp] theorem Strand.putX_bankQ (st : Strand) (d : Nat) (v : Dword) : (st.putX d v).bankQ = st.bankQ := by
  unfold Strand.putX; split <;> simp
@[simp] theorem Strand.putX_bankTag (st : Strand) (d : Nat) (v : Dword) : (st.putX d v).bankTag = st.bankTag := by
  unfold Strand.putX; split <;> simp
@[simp] theorem Strand.putX_bankErrs (st : Strand) (d : Nat) (v : Dword) : (st.putX d v).bankErrs = st.bankErrs := by
  unfold Strand.putX; split <;> simp
@[simp] theorem Strand.putX_bsync (st : Strand) (d : Nat) (v : Dword) : (st.putX d v).bsync = st.bsync := by
  unfold Strand.putX; split <;> simp
@[simp] theorem Strand.putX_rows (st : Strand) (d : Nat) (v : Dword) : (st.putX d v).rows = st.rows := by
  unfold Strand.putX; split <;> simp
@[simp] theorem Strand.putX_uc (st : Strand) (d : Nat) (v : Dword) : (st.putX d v).uc = st.uc := by
  unfold Strand.putX; split <;> simp
@[simp] theorem Strand.putX_linkErrs (st : Strand) (d : Nat) (v : Dword) : (st.putX d v).linkErrs = st.linkErrs := by
  unfold Strand.putX; split <;> simp
@[simp] theorem Strand.putX_late (st : Strand) (d : Nat) (v : Dword) : (st.putX d v).late = st.late := by
  unfold Strand.putX; split <;> simp
@[simp] theorem Strand.putX_shadow (st : Strand) (d : Nat) (v : Dword) : (st.putX d v).shadow = st.shadow := by
  unfold Strand.putX; split <;> simp
@[simp] theorem Strand.putX_away (st : Strand) (d : Nat) (v : Dword) : (st.putX d v).away = st.away := by
  unfold Strand.putX; split <;> simp

@[simp] theorem Strand.result_run (st : Strand) (d : Nat) (v : Dword) : (st.result d v).run = st.run := by
  unfold Strand.result; simp
@[simp] theorem Strand.result_pc (st : Strand) (d : Nat) (v : Dword) : (st.result d v).pc = st.pc + 4 := by
  unfold Strand.result; simp
@[simp] theorem Strand.result_pl (st : Strand) (d : Nat) (v : Dword) : (st.result d v).pl = st.pl := by
  unfold Strand.result; simp
@[simp] theorem Strand.result_latch (st : Strand) (d : Nat) (v : Dword) : (st.result d v).latch = 0 := by
  unfold Strand.result; simp
@[simp] theorem Strand.result_csr (st : Strand) (d : Nat) (v : Dword) : (st.result d v).csr = st.csr := by
  unfold Strand.result; simp
@[simp] theorem Strand.result_readQ (st : Strand) (d : Nat) (v : Dword) : (st.result d v).readQ = st.readQ := by
  unfold Strand.result; simp
@[simp] theorem Strand.result_stores (st : Strand) (d : Nat) (v : Dword) : (st.result d v).stores = st.stores := by
  unfold Strand.result; simp
@[simp] theorem Strand.result_loads (st : Strand) (d : Nat) (v : Dword) : (st.result d v).loads = st.loads := by
  unfold Strand.result; simp
@[simp] theorem Strand.result_deadline (st : Strand) (d : Nat) (v : Dword) : (st.result d v).deadline = st.deadline := by
  unfold Strand.result; simp
@[simp] theorem Strand.result_behind (st : Strand) (d : Nat) (v : Dword) : (st.result d v).behind = none := by
  unfold Strand.result; simp
@[simp] theorem Strand.result_resumed (st : Strand) (d : Nat) (v : Dword) : (st.result d v).resumed = false := by
  unfold Strand.result; simp
@[simp] theorem Strand.result_timer (st : Strand) (d : Nat) (v : Dword) : (st.result d v).timer = st.timer := by
  unfold Strand.result; simp
@[simp] theorem Strand.result_gang (st : Strand) (d : Nat) (v : Dword) : (st.result d v).gang = st.gang := by
  unfold Strand.result; simp
@[simp] theorem Strand.result_pool (st : Strand) (d : Nat) (v : Dword) : (st.result d v).pool = st.pool := by
  unfold Strand.result; simp
@[simp] theorem Strand.result_lanes (st : Strand) (d : Nat) (v : Dword) : (st.result d v).lanes = st.lanes := by
  unfold Strand.result; simp
@[simp] theorem Strand.result_want (st : Strand) (d : Nat) (v : Dword) : (st.result d v).want = st.want := by
  unfold Strand.result; simp
@[simp] theorem Strand.result_yielded (st : Strand) (d : Nat) (v : Dword) : (st.result d v).yielded = st.yielded := by
  unfold Strand.result; simp
@[simp] theorem Strand.result_v (st : Strand) (d : Nat) (v : Dword) : (st.result d v).v = st.v := by
  unfold Strand.result; simp
@[simp] theorem Strand.result_m (st : Strand) (d : Nat) (v : Dword) : (st.result d v).m = st.m := by
  unfold Strand.result; simp
@[simp] theorem Strand.result_h (st : Strand) (d : Nat) (v : Dword) : (st.result d v).h = st.h := by
  unfold Strand.result; simp
@[simp] theorem Strand.result_tiles (st : Strand) (d : Nat) (v : Dword) : (st.result d v).tiles = st.tiles := by
  unfold Strand.result; simp
@[simp] theorem Strand.result_vq (st : Strand) (d : Nat) (v : Dword) : (st.result d v).vq = st.vq := by
  unfold Strand.result; simp
@[simp] theorem Strand.result_bankQ (st : Strand) (d : Nat) (v : Dword) : (st.result d v).bankQ = st.bankQ := by
  unfold Strand.result; simp
@[simp] theorem Strand.result_bankTag (st : Strand) (d : Nat) (v : Dword) : (st.result d v).bankTag = st.bankTag := by
  unfold Strand.result; simp
@[simp] theorem Strand.result_bankErrs (st : Strand) (d : Nat) (v : Dword) : (st.result d v).bankErrs = st.bankErrs := by
  unfold Strand.result; simp
@[simp] theorem Strand.result_bsync (st : Strand) (d : Nat) (v : Dword) : (st.result d v).bsync = st.bsync := by
  unfold Strand.result; simp
@[simp] theorem Strand.result_rows (st : Strand) (d : Nat) (v : Dword) : (st.result d v).rows = st.rows := by
  unfold Strand.result; simp
@[simp] theorem Strand.result_uc (st : Strand) (d : Nat) (v : Dword) : (st.result d v).uc = st.uc := by
  unfold Strand.result; simp
@[simp] theorem Strand.result_linkErrs (st : Strand) (d : Nat) (v : Dword) : (st.result d v).linkErrs = st.linkErrs := by
  unfold Strand.result; simp
@[simp] theorem Strand.result_late (st : Strand) (d : Nat) (v : Dword) : (st.result d v).late = st.late := by
  unfold Strand.result; simp
@[simp] theorem Strand.result_shadow (st : Strand) (d : Nat) (v : Dword) : (st.result d v).shadow = st.shadow := by
  unfold Strand.result; simp
@[simp] theorem Strand.result_away (st : Strand) (d : Nat) (v : Dword) : (st.result d v).away = st.away := by
  unfold Strand.result; simp

@[simp] theorem dropTag_run (i : Info) (st : Strand) : (dropTag i st).run = st.run := by
  unfold dropTag; split <;> rfl
@[simp] theorem dropTag_pc (i : Info) (st : Strand) : (dropTag i st).pc = st.pc := by
  unfold dropTag; split <;> rfl
@[simp] theorem dropTag_pl (i : Info) (st : Strand) : (dropTag i st).pl = st.pl := by
  unfold dropTag; split <;> rfl
@[simp] theorem dropTag_x (i : Info) (st : Strand) : (dropTag i st).x = st.x := by
  unfold dropTag; split <;> rfl
@[simp] theorem dropTag_latch (i : Info) (st : Strand) : (dropTag i st).latch = st.latch := by
  unfold dropTag; split <;> rfl
@[simp] theorem dropTag_readQ (i : Info) (st : Strand) : (dropTag i st).readQ = st.readQ := by
  unfold dropTag; split <;> rfl
@[simp] theorem dropTag_stores (i : Info) (st : Strand) : (dropTag i st).stores = st.stores := by
  unfold dropTag; split <;> rfl
@[simp] theorem dropTag_loads (i : Info) (st : Strand) : (dropTag i st).loads = st.loads := by
  unfold dropTag; split <;> rfl
@[simp] theorem dropTag_deadline (i : Info) (st : Strand) : (dropTag i st).deadline = st.deadline := by
  unfold dropTag; split <;> rfl
@[simp] theorem dropTag_behind (i : Info) (st : Strand) : (dropTag i st).behind = st.behind := by
  unfold dropTag; split <;> rfl
@[simp] theorem dropTag_timer (i : Info) (st : Strand) : (dropTag i st).timer = st.timer := by
  unfold dropTag; split <;> rfl
@[simp] theorem dropTag_gang (i : Info) (st : Strand) : (dropTag i st).gang = st.gang := by
  unfold dropTag; split <;> rfl
@[simp] theorem dropTag_pool (i : Info) (st : Strand) : (dropTag i st).pool = st.pool := by
  unfold dropTag; split <;> rfl
@[simp] theorem dropTag_lanes (i : Info) (st : Strand) : (dropTag i st).lanes = st.lanes := by
  unfold dropTag; split <;> rfl
@[simp] theorem dropTag_want (i : Info) (st : Strand) : (dropTag i st).want = st.want := by
  unfold dropTag; split <;> rfl
@[simp] theorem dropTag_yielded (i : Info) (st : Strand) : (dropTag i st).yielded = st.yielded := by
  unfold dropTag; split <;> rfl
@[simp] theorem dropTag_v (i : Info) (st : Strand) : (dropTag i st).v = st.v := by
  unfold dropTag; split <;> rfl
@[simp] theorem dropTag_m (i : Info) (st : Strand) : (dropTag i st).m = st.m := by
  unfold dropTag; split <;> rfl
@[simp] theorem dropTag_h (i : Info) (st : Strand) : (dropTag i st).h = st.h := by
  unfold dropTag; split <;> rfl
@[simp] theorem dropTag_tiles (i : Info) (st : Strand) : (dropTag i st).tiles = st.tiles := by
  unfold dropTag; split <;> rfl
@[simp] theorem dropTag_vq (i : Info) (st : Strand) : (dropTag i st).vq = st.vq := by
  unfold dropTag; split <;> rfl
@[simp] theorem dropTag_bankQ (i : Info) (st : Strand) : (dropTag i st).bankQ = st.bankQ := by
  unfold dropTag; split <;> rfl
@[simp] theorem dropTag_bankTag (i : Info) (st : Strand) : (dropTag i st).bankTag = st.bankTag := by
  unfold dropTag; split <;> rfl
@[simp] theorem dropTag_bankErrs (i : Info) (st : Strand) : (dropTag i st).bankErrs = st.bankErrs := by
  unfold dropTag; split <;> rfl
@[simp] theorem dropTag_bsync (i : Info) (st : Strand) : (dropTag i st).bsync = st.bsync := by
  unfold dropTag; split <;> rfl
@[simp] theorem dropTag_rows (i : Info) (st : Strand) : (dropTag i st).rows = st.rows := by
  unfold dropTag; split <;> rfl
@[simp] theorem dropTag_uc (i : Info) (st : Strand) : (dropTag i st).uc = st.uc := by
  unfold dropTag; split <;> rfl
@[simp] theorem dropTag_linkErrs (i : Info) (st : Strand) : (dropTag i st).linkErrs = st.linkErrs := by
  unfold dropTag; split <;> rfl
@[simp] theorem dropTag_late (i : Info) (st : Strand) : (dropTag i st).late = st.late := by
  unfold dropTag; split <;> rfl
@[simp] theorem dropTag_shadow (i : Info) (st : Strand) : (dropTag i st).shadow = st.shadow := by
  unfold dropTag; split <;> rfl
@[simp] theorem dropTag_away (i : Info) (st : Strand) : (dropTag i st).away = st.away := by
  unfold dropTag; split <;> rfl

/-! ### The strand of the turn -/

@[simp] theorem State.st_setSt (s : State) (st : Strand) : (s.setSt st).st = st := by
  simp [State.st, State.setSt, State.setStrand, State.strandAt]

@[simp] theorem State.st_mapSt (s : State) (f : Strand → Strand) : (s.mapSt f).st = f s.st := State.st_setSt s _

@[simp] theorem State.setSt_setSt (s : State) (a b : Strand) : (s.setSt a).setSt b = s.setSt b := by
  simp [State.setSt, State.setStrand]

@[simp] theorem State.mapSt_mapSt (s : State) (f g : Strand → Strand) : (s.mapSt f).mapSt g = s.mapSt (fun st => g (f st)) := by
  simp [State.mapSt]

@[simp] theorem State.mapSt_setSt (s : State) (a : Strand) (g : Strand → Strand) : (s.setSt a).mapSt g = s.setSt (g a) := by
  simp [State.mapSt]

@[simp] theorem State.setSt_mapSt (s : State) (f : Strand → Strand) (b : Strand) : (s.mapSt f).setSt b = s.setSt b := by
  simp [State.mapSt]

theorem State.strandAt_setStrand (s : State) (c d : Nat) (st : Strand) :
    (s.setStrand c st).strandAt d = if d = c then st else s.strandAt d := by
  simp only [State.strandAt, State.setStrand, Tab.getD, Tab.find_set]
  split <;> rfl

theorem State.strandAt_setSt (s : State) (d : Nat) (st : Strand) :
    (s.setSt st).strandAt d = if d = s.cur then st else s.strandAt d := State.strandAt_setStrand s s.cur d st

/-! ### Registers -/

/-- `x0` reads zero (R139). -/
@[simp] theorem Strand.xr_zero (st : Strand) : st.xr 0 = 0 := rfl

/-- A write of `x0` is ignored (R139). -/
@[simp] theorem Strand.setX_zero (st : Strand) (v : Dword) : st.setX 0 v = st := rfl

/-- Reading a scalar register after a write of one. -/
theorem Strand.xr_setX (st : Strand) (d r : Nat) (v : Dword) :
    (st.setX d v).xr r = if r ≠ 0 ∧ r = d then v else st.xr r := by
  unfold Strand.xr Strand.setX
  by_cases hr : r = 0
  · simp [hr]
  · by_cases hd : d = 0
    · have : ¬(r = d) := by omega
      simp [hr, hd]
    · by_cases h : r = d
      · subst h
        simp [hr]
      · simp [hr, hd, h, Tab.get_set_ne _ _ h]

/-- Reading a control register after a write of one. -/
theorem Strand.cr_setCr (st : Strand) (n m : Nat) (v : Dword) : (st.setCr n v).cr m = if m = n then v else st.cr m := by
  simp only [Strand.cr, Strand.setCr, Tab.getD, Tab.find_set]
  split <;> simp

theorem Strand.cr_setCrN (st : Strand) (n m v : Nat) :
    (st.setCrN n v).cr m = if m = n then BitVec.ofNat 64 v else st.cr m := Strand.cr_setCr st n m _

theorem State.pkr_setPk (s : State) (n m : Nat) (v : Dword) : (s.setPk n v).pkr m = if m = n then v else s.pkr m := by
  simp only [State.pkr, State.setPk, Tab.getD, Tab.find_set]
  split <;> simp

end Sys2Proof.Machine
end

