-- ==== Sys2Proof/Laws/Monad.lean ====
section
/-! SUPPORT. What the parts of a meaning do when run: the sequencing of two computations, the accessors, the stops, and the end of a
meaning. -/

namespace Sys2Proof.Machine

variable {α β : Type}

theorem M.bind_ok {m : M α} {f : α → M β} {s t : State} {a : α} (h : m s = .ok a t) : (m >>= f) s = f a t := by
  simp only [bind, EStateM.bind, h]

theorem M.bind_error {m : M α} {f : α → M β} {s t : State} {e : Stop} (h : m s = .error e t) : (m >>= f) s = .error e t := by
  simp only [bind, EStateM.bind, h]

/-- A sequence that goes on has gone through a state after its first part. -/
theorem M.bind_eq_ok {m : M α} {f : α → M β} {s u : State} {b : β} (h : (m >>= f) s = .ok b u) :
    ∃ a t, m s = .ok a t ∧ f a t = .ok b u := by
  simp only [bind, EStateM.bind] at h
  split at h
  · exact ⟨_, _, ‹_›, h⟩
  · cases h

@[simp] theorem M.get_bind_run (f : State → M β) (s : State) : ((get : M State) >>= f) s = f s s := rfl
@[simp] theorem M.getSt_bind_run (f : Strand → M β) (s : State) : (getSt >>= f) s = f s.st s := rfl
@[simp] theorem M.pure_bind_run (a : α) (f : α → M β) (s : State) : ((pure a : M α) >>= f) s = f a s := rfl
@[simp] theorem M.set_bind_run (t : State) (f : PUnit → M β) (s : State) : ((set t : M PUnit) >>= f) s = f () t := rfl
@[simp] theorem M.modify_bind_run (g : State → State) (f : PUnit → M β) (s : State) :
    ((modify g : M PUnit) >>= f) s = f () (g s) := rfl
@[simp] theorem M.modSt_bind_run (g : Strand → Strand) (f : Unit → M β) (s : State) :
    (modSt g >>= f) s = f () (s.mapSt g) := rfl
@[simp] theorem M.trap_bind_run (c e w0 w1 w2 w3 : Nat) (f : α → M β) (s : State) :
    ((trap c e w0 w1 w2 w3 : M α) >>= f) s
      = .error (.trap { cause := c, eval := e, w0 := w0, w1 := w1, w2 := w2, w3 := w3 }) s := rfl
@[simp] theorem M.wait_bind_run (f : α → M β) (s : State) : ((wait : M α) >>= f) s = .error .wait s := rfl
@[simp] theorem M.throw_bind_run (e : Stop) (f : α → M β) (s : State) : ((throw e : M α) >>= f) s = .error e s := rfl

@[simp] theorem M.pure_run (a : α) (s : State) : (pure a : M α) s = .ok a s := rfl
@[simp] theorem M.get_run (s : State) : (get : M State) s = .ok s s := rfl
@[simp] theorem M.getSt_run (s : State) : getSt s = .ok s.st s := rfl
@[simp] theorem M.set_run (t s : State) : (set t : M PUnit) s = .ok () t := rfl
@[simp] theorem M.modify_run (g : State → State) (s : State) : (modify g : M PUnit) s = .ok () (g s) := rfl
@[simp] theorem M.modSt_run (g : Strand → Strand) (s : State) : modSt g s = .ok () (s.mapSt g) := rfl
@[simp] theorem M.trap_run (c e w0 w1 w2 w3 : Nat) (s : State) :
    (trap c e w0 w1 w2 w3 : M α) s
      = .error (.trap { cause := c, eval := e, w0 := w0, w1 := w1, w2 := w2, w3 := w3 }) s := rfl
@[simp] theorem M.wait_run (s : State) : (wait : M α) s = .error .wait s := rfl
@[simp] theorem M.throw_run (e : Stop) (s : State) : (throw e : M α) s = .error e s := rfl
@[simp] theorem M.advance_run (s : State) : advance s = .ok () (s.mapSt Strand.advance) := rfl
@[simp] theorem M.settleStores_run (s : State) : settleStores s = .ok () (drainScalar s.cur s) := rfl

/-! ### The end of a meaning -/

theorem finish_ok {m : M Unit} {s t : State} (h : m s = .ok () t) : finish m s = .next t := by
  simp only [finish, h]

theorem finish_trap {m : M Unit} {s t : State} {x : Trap} (h : m s = .error (.trap x) t) : finish m s = .next (trapOr s t x) := by
  simp only [finish, h]

theorem finish_wait {m : M Unit} {s t : State} (h : m s = .error .wait t) : finish m s = .next t := by
  simp only [finish, h]

theorem finishAccess_ok {m : M Unit} {s t : State} (h : m s = .ok () t) : finishAccess m s = .next (t.endAccess t.st.owner) := by
  simp only [finishAccess, h]

theorem finishAccess_trap {m : M Unit} {s t : State} {x : Trap} (h : m s = .error (.trap x) t) :
    finishAccess m s = .next (trapOr s t x) := by
  simp only [finishAccess, h]

theorem finishAccess_wait {m : M Unit} {s t : State} (h : m s = .error .wait t) : finishAccess m s = .next t := by
  simp only [finishAccess, h]

/-- A trap is taken where nothing of the strand is under way that it must wait for. -/
theorem trapOr_taken {s t : State} {x : Trap} (h : haltWaits s = false) : trapOr s t x = deliver t x := by
  simp [trapOr, h]

/-- A trap that waits changes nothing. -/
theorem trapOr_waits {s t : State} {x : Trap} (h : haltWaits s = true) : trapOr s t x = s := by
  simp [trapOr, h]

/-! ### The start of an instruction -/

/-- Registers that are ready for a scalar instruction are ready for every other one: the read queue holds up scalar ones alone (R168). -/
theorem hazard_of_scalar {st : Strand} {i : Info} (w : Nat) (h : hazard st 0 i = false) : hazard st w i = false := by
  have e : isScalarWord 0 = true := by decide
  simp only [hazard, pendingX, e] at h ⊢
  cases isScalarWord w
  · simp_all
  · exact h

/-- An instruction that is admitted and whose registers are ready goes on, without the tag of the return from a trap. -/
theorem start_ok {s : State} {i : Info} {w : Nat} (h : admitFails s.st i = none) (r : hazard s.st w i = false) :
    start w i s = .ok () (s.mapSt (dropTag i)) := by
  simp [start, h, r]

theorem start_trap {s : State} {i : Info} {c r : Nat} (w : Nat) (h : admitFails s.st i = some (c, r)) :
    start w i s = .error (.trap { cause := c, eval := w, w0 := r }) s := by
  simp [start, h]

theorem start_wait {s : State} {i : Info} {w : Nat} (h : admitFails s.st i = none) (r : hazard s.st w i = true) :
    start w i s = .error .wait s := by
  simp [start, h, r]

/-- Everything that the start of an instruction can do. -/
theorem start_cases (w : Nat) (i : Info) (s : State) :
    (∃ c r, admitFails s.st i = some (c, r) ∧ start w i s = .error (.trap { cause := c, eval := w, w0 := r }) s)
    ∨ (admitFails s.st i = none ∧ hazard s.st w i = true ∧ start w i s = .error .wait s)
    ∨ (admitFails s.st i = none ∧ hazard s.st w i = false ∧ start w i s = .ok () (s.mapSt (dropTag i))) := by
  cases h : admitFails s.st i with
  | some p => exact .inl ⟨p.1, p.2, rfl, start_trap w h⟩
  | none =>
    cases r : hazard s.st w i with
    | true => exact .inr (.inl ⟨rfl, rfl, start_wait h r⟩)
    | false => exact .inr (.inr ⟨rfl, rfl, start_ok h r⟩)

/-- Dropping the tag leaves every scalar register as it reads. -/
@[simp] theorem xr_dropTag (i : Info) (st : Strand) (r : Nat) : (dropTag i st).xr r = st.xr r := by
  simp [Strand.xr]

/-- Dropping the tag changes no control register but `FRTAG`. -/
theorem cr_dropTag (i : Info) (st : Strand) {n : Nat} (h : n ≠ 0x441) : (dropTag i st).cr n = st.cr n := by
  unfold dropTag
  split
  · simp [Strand.cr, Strand.setCrN, Strand.setCr, Tab.getD_set_ne _ _ _ h]
  · rfl

/-- Reading a scalar register after a result is written. -/
theorem Strand.xr_putX (st : Strand) (d r : Nat) (v : Dword) :
    (st.putX d v).xr r
      = if r ≠ 0 ∧ (r = d ∨ (latchV st.latch && latchDup st.latch) = true ∧ r = latchCopy st.latch) then v else st.xr r := by
  unfold Strand.putX
  split
  · rename_i h
    simp only [Strand.xr_setX, h, true_and]
    by_cases h0 : r = 0
    · simp [h0]
    · by_cases h1 : r = latchCopy st.latch
      · rw [if_pos ⟨h0, h1⟩, if_pos ⟨h0, .inr h1⟩]
      · simp [h0, h1]
  · rename_i h
    simp [Strand.xr_setX, h]

theorem Strand.xr_result (st : Strand) (d r : Nat) (v : Dword) : (st.result d v).xr r = (st.putX d v).xr r := rfl

theorem Strand.cr_result (st : Strand) (d n : Nat) (v : Dword) : (st.result d v).cr n = st.cr n := by
  simp [Strand.cr]

end Sys2Proof.Machine
end

