-- ==== Sys2Proof/Laws/Cache.lean ====
section
/-! SUPPORT. The memory operations: every one of them keeps the canonical form of the memory, and what a read through the shared
cache leaves alone. -/

namespace Sys2Proof.Machine

theorem State.CacheOnly.refl (s : State) : s.CacheOnly s := rfl

theorem State.CacheOnly.trans {s t u : State} (h1 : s.CacheOnly t) (h2 : t.CacheOnly u) : s.CacheOnly u := by
  unfold State.CacheOnly at *
  rw [h2, h1]

/-- A step of the memory system that keeps the canonical form of the memory and touches only the memory system. -/
def State.Reads (s t : State) : Prop := s.CacheOnly t ∧ (s.memOk = true → t.memOk = true)

theorem State.Reads.refl (s : State) : s.Reads s := ⟨rfl, id⟩

theorem State.Reads.trans {s t u : State} (h1 : s.Reads t) (h2 : t.Reads u) : s.Reads u :=
  ⟨h1.1.trans h2.1, fun h => h2.2 (h1.2 h)⟩

/-- An update of the memory system's tables that leaves the bytes alone. -/
theorem State.Reads.of {s t : State} (h : s.CacheOnly t) (hm : t.mem = s.mem) : s.Reads t :=
  ⟨h, fun h => by simpa [State.memOk, hm] using h⟩

theorem reads_setBank (s : State) (n : Nat) (b : Bank) : s.Reads (s.setBank n b) := .of rfl rfl

theorem reads_countCorrected (s : State) (pa : Nat) : s.Reads (countCorrected s pa) := reads_setBank ..

theorem reads_recordBerr (s : State) (pa src tag sid : Nat) : s.Reads (recordBerr s pa src tag sid) := reads_setBank ..

theorem reads_checkWord (s : State) (pa src tag sid : Nat) : s.Reads (checkWord s pa src tag sid).1 := by
  unfold checkWord
  split
  · exact .refl s
  · split
    · exact .refl s
    · exact reads_countCorrected ..
    · exact reads_recordBerr ..

theorem reads_markWord (s : State) (pa : Nat) (bad : Bool) : s.Reads (markWord s pa bad) := .of rfl rfl

theorem reads_unindex (s : State) (e : Nat) : s.Reads (unindex s e) := by
  unfold unindex
  split
  · exact .refl s
  · split
    · exact .of rfl rfl
    · exact .refl s

theorem reads_entries (s : State) (t : Tab CEntry) : s.Reads { s with entries := t } := .of rfl rfl

theorem reads_lines (s : State) (t : Tab CLine) : s.Reads { s with lines := t } := .of rfl rfl

theorem reads_linesAt (s : State) (n : Nat) (t : Tab CLine) : s.Reads { s with useClock := n, lines := t } := .of rfl rfl

theorem reads_releaseEntry (s : State) (e : Nat) : s.Reads (releaseEntry s e) := by
  unfold releaseEntry
  split
  · exact .refl s
  · split
    · exact (reads_unindex s e).trans (reads_entries ..)
    · exact reads_entries ..

theorem reads_memWrite (s : State) (a n v : Nat) : s.Reads { s with mem := Mem.writeLE s.mem a n v } :=
  ⟨rfl, fun h => Mem.wf_writeLE a n v h⟩

theorem reads_writeLineToDram (s : State) (line : Nat) (d : Line) (ue : Nat) : s.Reads (writeLineToDram s line d ue) :=
  ((reads_memWrite s _ _ _).trans (reads_markWord ..)).trans (reads_markWord ..)

theorem reads_evictLine (s : State) (line : Nat) : s.Reads (evictLine s line) := by
  unfold evictLine
  split
  · exact .refl s
  · rename_i ln _
    have h1 : s.Reads (if ln.dirty then writeLineToDram s line ln.data ln.ue else s) := by
      split
      · exact reads_writeLineToDram ..
      · exact .refl s
    refine h1.trans ?_
    generalize (if ln.dirty then writeLineToDram s line ln.data ln.ue else s) = t
    have h2 : t.Reads (if ln.st = 3 then t else releaseEntry t ln.ent) := by
      split
      · exact .refl t
      · exact reads_releaseEntry ..
    exact h2.trans (reads_lines ..)

theorem reads_refill (s : State) (q n : Nat) : s.Reads (refill s q n) := by
  induction n generalizing s with
  | zero => exact .refl s
  | succ n ih =>
    unfold refill
    split
    · exact .refl s
    · split
      · exact .refl s
      · exact (reads_evictLine ..).trans (ih _)

theorem reads_newEntry (s : State) (q : Nat) (d : Line) : s.Reads (newEntry s q d).1 := by
  unfold newEntry
  exact (reads_refill s q s.lines.length).trans (.of rfl rfl)

theorem reads_makeWay (s : State) (line : Nat) : s.Reads (makeWay s line) := by
  unfold makeWay
  simp only
  split
  · exact .refl s
  · split
    · exact .refl s
    · exact reads_evictLine ..

theorem reads_foldl {α : Type} {f : State → α → State} (h : ∀ (s : State) a, s.Reads (f s a)) (s : State) (l : List α) : s.Reads (l.foldl f s) := by
  induction l generalizing s with
  | nil => exact .refl s
  | cons a r ih => exact (h s a).trans (ih _)

theorem reads_noteRead (s : State) (pa n : Nat) : s.Reads (noteRead s pa n) := by
  refine reads_foldl (fun s w => ?_) s _
  split
  · exact reads_checkWord ..
  · exact .refl s

theorem reads_readDomain (s : State) (d : Nat) : s.Reads (readDomain s d) := by
  unfold readDomain
  exact (reads_noteRead ..).trans (.of rfl rfl)

theorem reads_loadDomain (s : State) (d : Nat) : s.Reads (loadDomain s d) := by
  unfold loadDomain
  split
  · exact .refl s
  · exact reads_readDomain ..

theorem reads_keyOf (s : State) (d : Nat) : s.Reads (keyOf s d).1 := by
  unfold keyOf
  simp only
  split
  · exact .refl s
  · split
    · exact reads_loadDomain ..
    · split
      · exact reads_loadDomain ..
      · split
        · split
          · exact (reads_loadDomain ..).trans (reads_loadDomain ..)
          · exact (reads_loadDomain ..).trans (reads_loadDomain ..)
        · exact reads_loadDomain ..

theorem reads_insertEntry (s : State) (e : Nat) (id : Nat × Nat) (h : Nat) (d : Line) : s.Reads (insertEntry s e id h d) := by
  unfold insertEntry
  split
  · exact .refl s
  · simp only
    split
    · exact (reads_unindex ..).trans (.of rfl rfl)
    · exact .of rfl rfl

theorem reads_lookupShare (s : State) (q dom : Nat) (d : Line) (own : Option Nat) : s.Reads (lookupShare s q dom d own).1 := by
  unfold lookupShare
  split
  · simp only
    split
    · exact reads_releaseEntry ..
    · exact .refl s
  · have hk := reads_keyOf s dom
    generalize keyOf s dom = p at hk
    obtain ⟨t, k⟩ := p
    simp only at hk ⊢
    refine hk.trans ?_
    cases k with
    | none =>
      cases own with
      | some e => exact .refl t
      | none => exact reads_newEntry ..
    | some k =>
      simp only
      cases matchWay t k.1 (lineHash k.2 d) d (Tab.get t.buckets (q * 2 ^ 19 + lineHash k.2 d % 2 ^ 19)) with
      | some e =>
        simp only
        have hc : t.Reads (match Tab.find t.entries e with
            | some en => { t with entries := Tab.set t.entries e { en with c := en.c + 1 } }
            | none => t) := by
          split
          · exact reads_entries ..
          · exact .refl t
        cases own with
        | some o => exact hc.trans (reads_releaseEntry ..)
        | none => exact hc
      | none =>
        cases own with
        | some o => exact reads_insertEntry ..
        | none => exact (reads_newEntry ..).trans (reads_insertEntry ..)

theorem reads_touch (s : State) (line : Nat) : s.Reads (touch s line) := by
  unfold touch
  split
  · exact .refl s
  · exact reads_linesAt ..

theorem reads_fillLine (s : State) (line dom : Nat) : s.Reads (fillLine s line dom) := by
  unfold fillLine
  split
  · exact reads_touch ..
  · simp only
    have h1 := reads_makeWay s line
    generalize makeWay s line = a at h1 ⊢
    have h2 := reads_checkWord a (line * 64) 1 0 0
    generalize checkWord a (line * 64) 1 0 0 = p2 at h2 ⊢
    have h3 := reads_checkWord p2.1 (line * 64 + 32) 1 0 0
    generalize checkWord p2.1 (line * 64 + 32) 1 0 0 = p3 at h3 ⊢
    refine ((h1.trans h2).trans h3).trans ?_
    refine State.Reads.trans ?_ (reads_linesAt ..)
    generalize ((if p2.2 = true then 1 else 0) + (if p3.2 = true then 2 else 0) : Nat) = ue
    split
    · exact reads_lookupShare ..
    · exact reads_newEntry ..

theorem reads_homeRead (s : State) (line dom off size : Nat) : s.Reads (homeRead s line dom off size).1 := by
  unfold homeRead
  simp only
  split
  · exact reads_fillLine ..
  · exact reads_fillLine ..

theorem reads_centreVisit (s : State) (pa : Nat) : s.Reads (centreVisit s pa) := by
  unfold centreVisit
  simp only
  split
  · exact .refl s
  · exact reads_setBank ..

theorem reads_bankRead (s : State) (pa size : Nat) : s.Reads (bankRead s pa size).1 := by
  unfold bankRead
  exact (reads_centreVisit ..).trans (reads_checkWord ..)

theorem reads_physRead (s : State) (pa size : Nat) : s.Reads (physRead s pa size).1 := by
  unfold physRead
  split
  · exact reads_homeRead ..
  · split
    · exact .refl s
    · exact .refl s

/-! ### Writes -/

/-- Nothing of the strands, of the package's registers and of the queues of work outside the memory system differs; the memory keeps
its canonical form. Watched images may be dropped and monitors may fire. -/
def State.Writes (s t : State) : Prop :=
  t = { s with mem := t.mem, wordErr := t.wordErr, lines := t.lines, entries := t.entries, buckets := t.buckets,
               entNext := t.entNext, useClock := t.useClock, kunsh := t.kunsh, domKeys := t.domKeys, banks := t.banks, tlb := t.tlb,
               images := t.images, fulls := t.fulls, due := t.due }
    ∧ (s.memOk = true → t.memOk = true)

/-- An update of the tables that a write touches, which leaves the bytes alone. -/
theorem State.Writes.of {s t : State}
    (h : t = { s with mem := t.mem, wordErr := t.wordErr, lines := t.lines, entries := t.entries, buckets := t.buckets,
                      entNext := t.entNext, useClock := t.useClock, kunsh := t.kunsh, domKeys := t.domKeys, banks := t.banks, tlb := t.tlb,
                      images := t.images, fulls := t.fulls, due := t.due }) (hm : t.mem = s.mem) : s.Writes t :=
  ⟨h, fun h => by simpa [State.memOk, hm] using h⟩

theorem State.Writes.refl (s : State) : s.Writes s := ⟨rfl, id⟩

theorem State.Writes.trans {s t u : State} (h1 : s.Writes t) (h2 : t.Writes u) : s.Writes u := by
  refine ⟨?_, fun h => h2.2 (h1.2 h)⟩
  rw [h2.1, h1.1]

theorem State.Reads.writes {s t : State} (h : s.Reads t) : s.Writes t := by
  refine ⟨?_, h.2⟩
  have h1 := h.1
  unfold State.CacheOnly at h1
  rw [h1]

theorem writes_dropImages (s : State) (pa : Nat) : s.Writes (dropImages s pa) := ⟨rfl, id⟩

theorem writes_foldl {α : Type} {f : State → α → State} (h : ∀ (s : State) a, s.Writes (f s a)) (s : State) (l : List α) :
    s.Writes (l.foldl f s) := by
  induction l generalizing s with
  | nil => exact .refl s
  | cons a r ih => exact (h s a).trans (ih _)

theorem writes_noteFull (s : State) (line : Nat) : s.Writes (noteFull s line) := by
  refine writes_foldl (fun s p => ?_) s _
  generalize (if p.2.kind = 3 then none else p.2.slotAt line) = a
  cases a with
  | none => exact .refl s
  | some i =>
    simp only
    split
    · split
      · exact .refl s
      · exact .of rfl rfl
    · exact .of rfl rfl

theorem writes_noteWrite (s : State) (line : Nat) : s.Writes (noteWrite s line) := by
  unfold noteWrite
  simp only
  have h : s.Writes (if (s.strands.any (fun p => p.2.run == .waitLine line)
      || s.queues.any (fun p => p.2.kind != 3 && p.2.headLine == line)) = true then s.raise (.lineFire line) else s) := by
    split
    · exact .of rfl rfl
    · exact .refl s
  exact (h.trans (writes_noteFull ..)).trans (writes_dropImages ..)

theorem writes_homeWrite (s : State) (line dom off size val : Nat) : s.Writes (homeWrite s line dom off size val) := by
  have hfill : s.Reads (if (off = 0 ∧ size = 64) ∧ (Tab.find s.lines line).isNone then
      { (newEntry (makeWay s line) (quadOf line) 0).1 with
        lines := Tab.set (newEntry (makeWay s line) (quadOf line) 0).1.lines line
          { data := 0, st := 1, dirty := true, dom := dom, ent := (newEntry (makeWay s line) (quadOf line) 0).2, wt := 0, ue := 0,
            used := 0 } }
    else fillLine s line dom) := by
    split
    · exact ((reads_makeWay ..).trans (reads_newEntry ..)).trans (reads_lines ..)
    · exact reads_fillLine ..
  unfold homeWrite
  simp only
  refine State.Writes.trans ?_ (writes_noteWrite ..)
  refine (State.Reads.trans hfill ?_).writes
  revert hfill
  generalize (ite ((off = 0 ∧ size = 64) ∧ (Tab.find s.lines line).isNone = true) _ (fillLine s line dom)) = t
  intro _
  split
  · exact .refl t
  · split
    · exact reads_linesAt ..
    · split
      · exact (reads_newEntry ..).trans (reads_linesAt ..)
      · split
        · split
          · refine ((reads_newEntry ..).trans (reads_releaseEntry ..)).trans (.of rfl rfl)
          · exact (reads_unindex ..).trans (reads_linesAt ..)
        · exact (reads_newEntry ..).trans (reads_linesAt ..)

theorem reads_flushLine (s : State) (line : Nat) : s.Reads (flushLine s line) := by
  unfold flushLine
  split
  · exact .refl s
  · split
    · exact (reads_writeLineToDram ..).trans (reads_lines ..)
    · exact .refl s

theorem writes_invalLine (s : State) (line : Nat) : s.Writes (invalLine s line) := by
  unfold invalLine
  refine State.Writes.trans (State.Reads.writes ?_) (writes_noteWrite ..)
  split
  · split
    · exact reads_lines ..
    · exact (reads_releaseEntry ..).trans (reads_lines ..)
  · exact reads_lines ..

theorem reads_sealLine (s : State) (line : Nat) : s.Reads (sealLine s line) := by
  unfold sealLine
  split
  · exact .refl s
  · rename_i ln _
    simp only
    cases Tab.find s.domKeys ln.dom <;>
    · simp only
      split
      · exact (reads_lookupShare ..).trans (reads_lines ..)
      · exact .refl s

theorem writes_zeroLine (s : State) (line dom : Nat) : s.Writes (zeroLine s line dom) := by
  unfold zeroLine
  simp only
  refine State.Writes.trans (State.Reads.writes ?_) (writes_noteWrite ..)
  repeat' split
  all_goals first
    | exact reads_linesAt ..
    | exact (reads_releaseEntry ..).trans (reads_linesAt ..)
    | exact (reads_makeWay ..).trans (reads_linesAt ..)

theorem reads_correctWord (s : State) (pa : Nat) : s.Reads (correctWord s pa) := by
  unfold correctWord
  split
  · exact .refl s
  · exact reads_memWrite ..

theorem writes_bankWrite (s : State) (pa size val : Nat) : s.Writes (bankWrite s pa size val) := by
  unfold bankWrite
  simp only
  have h1 : (centreVisit s pa).Reads (if size < 32 then checkWord (centreVisit s pa) pa 1 0 0 else (centreVisit s pa, false)).1 := by
    split
    · exact reads_checkWord ..
    · exact .refl _
  generalize (if size < 32 then checkWord (centreVisit s pa) pa 1 0 0 else (centreVisit s pa, false)) = p at h1 ⊢
  have h2 : p.1.Reads (if p.2 = true then p.1 else correctWord p.1 pa) := by
    split
    · exact .refl _
    · exact reads_correctWord ..
  exact (((((reads_centreVisit s pa).trans h1).trans h2).trans (reads_memWrite ..)).trans (reads_markWord ..)).writes.trans
    (writes_dropImages ..)

theorem writes_localWrite (s : State) (pa size val : Nat) : s.Writes (localWrite s pa size val) := by
  unfold localWrite
  exact (reads_memWrite ..).writes.trans (writes_dropImages ..)

theorem writes_physWrite (s : State) (pa size val : Nat) : s.Writes (physWrite s pa size val) := by
  unfold physWrite
  split
  · exact writes_homeWrite ..
  · split
    · exact writes_localWrite ..
    · exact .refl s

theorem writes_physWriteLines (s : State) (pa : Nat) (l : List Nat) : s.Writes (physWriteLines s pa l) := by
  induction l generalizing s pa with
  | nil => exact .refl s
  | cons v r ih => exact (writes_physWrite ..).trans (ih _ _)

/-- What a write in the package can do, wherever its point of performance is. -/
theorem writes_writeAt (pl : Place) (pa size dom val : Nat) (s : State) : s.Writes (pl.writeAt pa size dom val s) := by
  unfold Place.writeAt
  split
  · exact writes_homeWrite ..
  · exact writes_homeWrite ..
  · exact writes_bankWrite ..
  · exact writes_localWrite ..
  · exact .refl s

/-- What a read in the package can do. -/
theorem reads_readAt (pl : Place) (pa size dom : Nat) (s : State) : s.Reads (pl.readAt pa size dom s).1 := by
  unfold Place.readAt
  split
  · exact reads_homeRead ..
  · exact reads_homeRead ..
  · exact reads_bankRead ..
  · exact .refl s

/-- The memory holds its canonical form at reset. -/
theorem memOk_reset : State.reset.memOk = true := rfl

theorem memOk_setStrand {s : State} (c : Nat) (st : Strand) (h : s.memOk = true) : (s.setStrand c st).memOk = true := h

theorem memOk_performStore {s : State} (c k : Nat) (h : s.memOk = true) : (performStore c k s).memOk = true := by
  unfold performStore
  simp only
  split
  · exact h
  · split
    · exact (writes_writeAt ..).2 h
    · exact h

theorem memOk_performLoad {s : State} (c k : Nat) (h : s.memOk = true) : (performLoad c k s).memOk = true := by
  unfold performLoad
  simp only
  split
  · exact h
  · rename_i e _
    split
    · exact h
    · have h1 := (reads_readAt e.place e.pa e.size e.dom s).2 h
      split
      · exact memOk_setStrand _ _ h1
      · apply memOk_setStrand
        split
        · exact h1
        · exact (writes_writeAt ..).2 h1

theorem memOk_drainAll {s : State} (c n : Nat) (h : s.memOk = true) : (drainAll c n s).memOk = true := by
  induction n generalizing s with
  | zero => exact h
  | succ n ih =>
    unfold drainAll
    simp only
    split
    · split
      · apply ih
        split
        · exact memOk_performLoad _ _ h
        · exact memOk_performStore _ _ h
      · exact h
    · exact ih (memOk_performLoad _ _ h)
    · exact ih (memOk_performStore _ _ h)
    · exact h

theorem memOk_drainScalar {s : State} (c : Nat) (h : s.memOk = true) : (drainScalar c s).memOk = true := memOk_drainAll c _ h

end Sys2Proof.Machine
end

