-- ==== Sys2Proof/Laws/Access.lean ====
section
/-! SUPPORT. Translation: whatever it comes to, it changes nothing but the caches and the TLBs, and keeps the canonical form of the memory. -/

namespace Sys2Proof.Machine

/-- A computation that, however it ends, has done no more than read through the memory system. -/
structure M.Reads {α : Type} (m : M α) : Prop where
  run : ∀ s, match m s with
    | .ok _ t => s.Reads t
    | .error _ t => s.Reads t

namespace M

variable {α β : Type}

theorem reads_ok {m : M α} (h : M.Reads m) {s t : State} {a : α} (e : m s = .ok a t) : s.Reads t := by
  have := h.run s
  rwa [e] at this

theorem reads_error {m : M α} (h : M.Reads m) {s t : State} {x : Stop} (e : m s = .error x t) : s.Reads t := by
  have := h.run s
  rwa [e] at this

theorem reads_bind {m : M α} {f : α → M β} (h : M.Reads m) (k : ∀ a, M.Reads (f a)) : M.Reads (m >>= f) := by
  refine ⟨fun s => ?_⟩
  have h1 := h.run s
  simp only [bind, EStateM.bind]
  cases e : m s with
  | ok a t =>
    rw [e] at h1
    have h2 := (k a).run t
    simp only
    cases e2 : f a t <;> rw [e2] at h2 <;> exact h1.trans h2
  | error x t =>
    rw [e] at h1
    exact h1

theorem reads_pure (a : α) : M.Reads (pure a : M α) := ⟨fun s => .refl s⟩
theorem reads_get : M.Reads (get : M State) := ⟨fun s => .refl s⟩
theorem reads_getSt : M.Reads getSt := ⟨fun s => .refl s⟩
theorem reads_trap {c e w0 w1 w2 w3 : Nat} : M.Reads (trap c e w0 w1 w2 w3 : M α) := ⟨fun s => .refl s⟩
theorem reads_wait : M.Reads (wait : M α) := ⟨fun s => .refl s⟩
theorem reads_throw (x : Stop) : M.Reads (throw x : M α) := ⟨fun s => .refl s⟩
theorem reads_modify (g : State → State) (h : ∀ s : State, s.Reads (g s)) : M.Reads (modify g : M PUnit) := ⟨fun s => h s⟩

theorem reads_ite {c : Prop} [Decidable c] {m n : M α} (hm : M.Reads m) (hn : M.Reads n) : M.Reads (if c then m else n) := by
  split <;> assumption

end M

open M

theorem reads_placeTable (va t bytes level kind : Nat) : M.Reads (placeTable va t bytes level kind) :=
  reads_ite (reads_pure _) reads_trap

theorem reads_readEntry (va a level : Nat) : M.Reads (readEntry va a level) := by
  refine ⟨fun s => ?_⟩
  have h := reads_physRead s a 8
  unfold readEntry
  simp only [M.get_bind_run, M.set_bind_run]
  cases (physRead s a 8).2.2 <;> exact h

theorem reads_checkPointer (va level kind e : Nat) : M.Reads (checkPointer va level kind e) := by
  unfold checkPointer
  repeat' first
    | exact reads_pure _
    | exact reads_trap
    | apply reads_ite

theorem reads_checkLeaf (va level kind e u m : Nat) : M.Reads (checkLeaf va level kind e u m) := by
  unfold checkLeaf
  repeat' first
    | exact reads_pure _
    | exact reads_trap
    | apply reads_ite

theorem reads_walk (asid va kind : Nat) : M.Reads (walk asid va kind) := by
  unfold walk
  refine reads_bind reads_get fun s => ?_
  refine reads_ite (reads_bind reads_trap fun _ => ?_) ?_ <;>
  · refine reads_bind (reads_placeTable ..) fun _ => reads_bind (reads_readEntry ..) fun _ => ?_
    refine reads_bind (reads_checkPointer ..) fun _ => reads_bind (reads_placeTable ..) fun _ => ?_
    refine reads_bind (reads_readEntry ..) fun _ => reads_bind (reads_checkPointer ..) fun _ => ?_
    refine reads_bind (reads_placeTable ..) fun _ => reads_bind (reads_readEntry ..) fun _ => ?_
    refine reads_ite ?_ (reads_bind (reads_checkLeaf ..) fun _ => reads_pure _)
    refine reads_bind (reads_checkPointer ..) fun _ => reads_bind (reads_placeTable ..) fun _ => ?_
    exact reads_bind (reads_readEntry ..) fun _ => reads_bind (reads_checkLeaf ..) fun _ => reads_pure _

theorem reads_checkRegion (own va kind : Nat) (e : TlbEntry) : M.Reads (checkRegion own va kind e) := by
  unfold checkRegion
  repeat' first
    | exact reads_pure _
    | exact reads_trap
    | apply reads_ite

theorem reads_lookupXl (a : Acc) (va : Nat) : M.Reads (lookupXl a va) := by
  unfold lookupXl
  repeat' first
    | exact reads_pure _
    | exact reads_trap
    | exact reads_get
    | exact reads_checkRegion ..
    | exact reads_walk ..
    | exact reads_modify _ fun _ => .of rfl rfl
    | apply reads_ite
    | refine reads_bind ?_ fun _ => ?_
    | split

theorem reads_protect (a : Acc) (va : Nat) (e : TlbEntry) : M.Reads (protect a va e) := by
  unfold protect
  repeat' first
    | exact reads_pure _
    | exact reads_trap
    | exact reads_get
    | exact reads_modify _ fun _ => reads_noteRead ..
    | apply reads_ite
    | refine reads_bind ?_ fun _ => ?_

theorem reads_xlate1 (a : Acc) (va : Nat) : M.Reads (xlate1 a va) :=
  reads_bind (reads_lookupXl ..) fun _ => reads_protect ..

theorem reads_hostSpan (a : Acc) (va : Nat) (x : Xl) (n : Nat) : M.Reads (hostSpan a va x n) := by
  unfold hostSpan
  split
  · exact reads_bind reads_get fun _ => reads_ite reads_trap (reads_pure _)
  · exact reads_pure _

/-- Translation of a range within a page. -/
theorem reads_xlateIn (a : Acc) (va n : Nat) : M.Reads (xlateIn a va n) :=
  reads_bind (reads_xlate1 ..) fun _ => reads_bind (reads_hostSpan ..) fun _ => reads_pure _

/-- Translation of any range. -/
theorem reads_xlate (a : Acc) (va n : Nat) : M.Reads (xlate a va n) := by
  unfold xlate
  refine reads_bind (reads_xlateIn ..) fun _ => reads_ite (reads_pure _) ?_
  exact reads_bind (reads_xlateIn ..) fun _ => reads_pure _

/-- What translation leaves of the strands and of the machine's own fields. -/
theorem State.Reads.strands {s t : State} (h : s.Reads t) : t.strands = s.strands := by rw [h.1]
theorem State.Reads.cur {s t : State} (h : s.Reads t) : t.cur = s.cur := by rw [h.1]
theorem State.Reads.defer {s t : State} (h : s.Reads t) : t.defer = s.defer := by rw [h.1]
theorem State.Reads.txns {s t : State} (h : s.Reads t) : t.txns = s.txns := by rw [h.1]
theorem State.Reads.pk {s t : State} (h : s.Reads t) : t.pk = s.pk := by rw [h.1]
theorem State.Reads.st {s t : State} (h : s.Reads t) : t.st = s.st := by
  simp only [State.st, State.strandAt, h.strands, h.cur]

/-- A strand with nothing outstanding has nothing to perform. -/
theorem drainScalar_quiet {s : State} {c : Nat} (h1 : (s.strandAt c).loads = []) (h2 : (s.strandAt c).stores = []) :
    drainScalar c s = s := by
  simp [drainScalar, h1, h2, drainAll]

end Sys2Proof.Machine
end

