-- ==== Sys2Proof/Laws/Fabric.lean ====
section
/-! SUPPORT. What a message that arrives at the package does (R452, R453, R463, R465). -/

namespace Sys2Proof.Machine

/-- A packet without a congestion mark changes nothing by its arrival (R463). -/
@[simp] theorem congested_unmarked (conn : Nat) (s : State) : congested conn false s = s := by simp [congested]

/-- A message for this package is acted on (R452). -/
theorem forUs_here {s : State} {dst : Nat} (h : dst = (s.pkr 0x440).toNat % 128) (f : State → State) : forUs dst f s = f s := by
  simp [forUs, h]

/-- A message for another package is counted and no more (R452). -/
theorem forUs_elsewhere {s : State} {dst : Nat} (h : dst ≠ (s.pkr 0x440).toNat % 128) (f : State → State) : forUs dst f s = s.count 9 := by
  simp [forUs, h]

/-- A message that arrives takes its place behind the others, or is performed, where none of its lane waits, or waits itself when it cannot be
(R453, R465). -/
theorem arrive_cases (m : Inbound) (s : State) :
    arrive m s = { s with inbox := s.inbox ++ [m] } ∨
    (s.defer = false ∧ (s.inbox.any fun x => x.lane == m.lane) = false ∧ m.serve s = (arrive m s, true)) ∨
    (s.defer = false ∧ (s.inbox.any fun x => x.lane == m.lane) = false ∧ arrive m s = { (m.serve s).1 with inbox := (m.serve s).1.inbox ++ [m] } ∧
      (m.serve s).2 = false) := by
  unfold arrive
  by_cases h : (s.defer || s.inbox.any fun x => x.lane == m.lane) = true
  · exact .inl (by rw [if_pos h])
  · rw [Bool.or_eq_true, not_or, Bool.not_eq_true, Bool.not_eq_true] at h
    simp only [h.1, h.2, Bool.or_self, Bool.false_eq_true, if_false]
    cases hr : m.serve s with
    | mk t b => cases b <;> simp

/-- The first of all messages that wait is performed when it can be (R453, R465). -/
theorem serveLane_head {s t : State} {m : Inbound} {l : List Inbound} (h : s.inbox = m :: l) (ht : m.serve { s with inbox := l } = (t, true)) :
    serveLane m.lane s = t := by
  simp [serveLane, h, ht]

end Sys2Proof.Machine
end

