-- ==== Sys2Proof/Laws/Scalar.lean ====
section
/-! SUPPORT. What the shared shapes of a scalar instruction do: the result of a register operation, a branch, and the state that they
leave, in the words of the statements. -/

namespace Sys2Proof.Machine

@[simp] theorem rx_dropTag (i : Info) (st : Strand) (r : BitVec 5) : (dropTag i st).rx r = st.rx r := xr_dropTag i st r.toNat

/-- What dropping the tag leaves of the control registers. -/
theorem controlsKept_dropTag (i : Info) (st : Strand) : Strand.ControlsKept st (dropTag i st) := by
  refine ⟨fun n h => cr_dropTag i st h, fun h => ?_⟩
  simp [dropTag, h]

/-- A strand after its tag is dropped, but for the fields that may differ. -/
theorem dropTag_eta (i : Info) (st : Strand) :
    dropTag i st = { st with csr := (dropTag i st).csr, resumed := (dropTag i st).resumed } := by
  unfold dropTag
  split <;> rfl

theorem wentTo_of {s t : State} {i : Info} {pc : Dword} (h1 : s.OnlyStrand t)
    (h2 : t.st = { dropTag i s.st with pc := pc, latch := 0, resumed := false, behind := none }) : s.WentTo pc t := by
  have hk := controlsKept_dropTag i s.st
  have hc : t.st.csr = (dropTag i s.st).csr := by rw [h2]
  refine ⟨h1, ⟨fun n hn => ?_, fun hr => ?_⟩, ?_⟩
  · have := hk.1 n hn
    simpa [Strand.cr, hc] using this
  · rw [hc, hk.2 hr]
  · rw [hc, h2]
    conv => lhs; rw [dropTag_eta]

theorem onlyStrand_mapSt (s : State) (f : Strand → Strand) : s.OnlyStrand (s.mapSt f) := by
  simp [State.OnlyStrand, State.mapSt]

theorem onlyStrand_setSt (s : State) (a : Strand) : s.OnlyStrand (s.setSt a) := by
  simp [State.OnlyStrand]

/-- A result is the scalar registers' only change. -/
theorem wrote_result (s : State) (i : Info) (d : Nat) (v : Dword) :
    s.Wrote d v (s.mapSt (fun st => (dropTag i st).result d v)) := by
  have hk := controlsKept_dropTag i s.st
  have hc : ((dropTag i s.st).result d v).csr = (dropTag i s.st).csr := by simp
  refine ⟨onlyStrand_mapSt s _, ⟨fun n hn => ?_, fun hr => ?_⟩, ?_, fun r => ?_⟩
  · have := hk.1 n hn
    simpa [Strand.cr] using this
  · simp only [State.st_mapSt, hc, hk.2 hr]
  · simp only [State.st_mapSt]
    have e : ∀ st : Strand, st.result d v = { st with pc := st.pc + 4, latch := 0, resumed := false, behind := none, x := (st.result d v).x } := by
      intro st
      unfold Strand.result Strand.advance Strand.putX Strand.setX
      split <;> split <;> (try split) <;> rfl
    conv => lhs; rw [e]
    simp
  · simp only [State.st_mapSt, Strand.xr_result, Strand.xr_putX, dropTag_latch, xr_dropTag, Strand.copies]
    congr 1
    simp only [Bool.and_eq_true, beq_iff_eq, eq_iff_iff]
    constructor
    · rintro ⟨h0, h | ⟨h, rfl⟩⟩
      · exact ⟨h0, .inl h⟩
      · exact ⟨h0, .inr ⟨h, rfl⟩⟩
    · rintro ⟨h0, h | ⟨h, rfl⟩⟩
      · exact ⟨h0, .inl h⟩
      · exact ⟨h0, .inr ⟨h, rfl⟩⟩

/-- A register-register operation that goes on. -/
theorem regReg_next {s : State} {d a b : BitVec 5} (i : Instr) (f : Dword → Dword → Dword) (h : s.Ready (infoDAB d a b)) :
    ∃ t, finish (regReg i d a b f) s = .next t ∧ s.Wrote d.toNat (f (s.st.rx a) (s.st.rx b)) t := by
  refine ⟨_, finish_ok ?_, wrote_result s (infoDAB d a b) d.toNat _⟩
  unfold regReg
  rw [M.bind_ok (start_ok h.1 (hazard_of_scalar _ h.2))]
  simp [State.mapSt]

/-- An operation on one register that goes on. -/
theorem regUnary_next {s : State} {d a : BitVec 5} (i : Instr) (f : Dword → Dword) (h : s.Ready (infoDA d a)) :
    ∃ t, finish (regUnary i d a f) s = .next t ∧ s.Wrote d.toNat (f (s.st.rx a)) t := by
  refine ⟨_, finish_ok ?_, wrote_result s (infoDA d a) d.toNat _⟩
  unfold regUnary
  rw [M.bind_ok (start_ok h.1 (hazard_of_scalar _ h.2))]
  simp [State.mapSt]

/-- A start followed by a change of the strand. -/
theorem start_modSt {s : State} {i : Info} (w : Nat) (f : Strand → Strand) (h : s.Ready i) :
    (do start w i; modSt f) s = .ok () (s.mapSt (fun st => f (dropTag i st))) := by
  rw [M.bind_ok (start_ok h.1 (hazard_of_scalar _ h.2))]
  simp [State.mapSt]

/-- A branch that goes on. -/
theorem branch_next {s : State} {a b : BitVec 5} (i : Instr) (o : BitVec 16) (c : Dword → Dword → Bool)
    (h : s.Ready { reads := [(.x, a.toNat), (.x, b.toNat)] }) :
    ∃ t, finish (branch i a b o c) s = .next t
      ∧ s.WentTo (if c (s.st.rx a) (s.st.rx b) then s.st.pc + 4 * sx16 o else s.st.pc + 4) t := by
  refine ⟨_, finish_ok (start_modSt _ _ h), wentTo_of (i := { reads := [(.x, a.toNat), (.x, b.toNat)] })
    (onlyStrand_mapSt s _) ?_⟩
  simp

/-- Every stop of the start of an instruction, at the end of its meaning. -/
theorem finish_start_trap {s : State} {i : Info} {c r : Nat} (w : Nat) (m : Unit → M Unit) (h : admitFails s.st i = some (c, r)) :
    finish (start w i >>= m) s = .next (s.trapped s c w r) :=
  finish_trap (M.bind_error (start_trap w h))

theorem finish_start_wait {s : State} {i : Info} {w : Nat} (m : Unit → M Unit) (h : admitFails s.st i = none)
    (r : hazard s.st w i = true) : finish (start w i >>= m) s = .next s :=
  finish_wait (M.bind_error (start_wait h r))

/-- A prefix that is not permitted fails the first check. -/
theorem admitFails_prefix {st : Strand} {i : Info} (h : prefixOk st.latch i = false) : admitFails st i = some (cILL, 6) := by
  simp [admitFails, h]

theorem admitFails_user {st : Strand} {i : Info} (h : prefixOk st.latch i = true) (p : i.priv = false) : admitFails st i = none := by
  simp [admitFails, h, p]

end Sys2Proof.Machine
end

