-- ==== Sys2Proof/Tests/Slice0.lean ====
section
/-! SUPPORT. The model's own tests: the check on well-formed instructions, the decoding of words written out from the encodings of the spec,
one step on small states, and for every statement a state and operands that meet its hypotheses. -/

set_option linter.unusedVariables false
set_option linter.unusedSimpArgs false

namespace Sys2Proof.Tests

open Sys2Proof Sys2Proof.Machine

set_option Elab.async false

/-! ### Well-formed instructions (R38, R40, R41) -/

/-- None of these is well formed. -/
def refused (l : List Instr) : Bool := l.all (fun i => !i.wf)

/-- One ill-formed term for each field that a rule restricts, each well formed but for that field. -/
theorem test_illFormed : refused [
    .pfx 1 0 1 21, .pfx 1 2 0 21, .ld 3 25 3 1 1 1663, .fence 0 2, .fence 29 7, .setvl 10 21 15, .vaddInt 27 13 24 7 15,
    .vsubInt 9 7 23 5 15, .vmulInt 8 16 7 3 15, .vmulh 31 24 13 4 15, .vminInt 29 15 26 6 15, .vmaxInt 28 7 1 3 15,
    .vsatadd 20 24 4 5 15, .vsatsub 18 26 16 5 15, .vshl 15 5 14 1 15, .vshr 15 11 3 6 15, .vsra 14 3 7 6 15, .vand 26 4 29 7 15,
    .vor 8 24 31 1 15, .vxor 13 11 14 2 15, .vabsInt 15 23 1 15, .vnegInt 17 31 1 15, .vaddFp 3 26 9 1 15, .vsubFp 4 15 1 3 15,
    .vmulFp 22 27 13 7 15, .vfma 14 24 23 7 15, .vfms 5 30 17 7 15, .vfnma 21 24 23 3 15, .vdiv 17 10 15 4 15, .vsqrt 20 27 6 15,
    .vrcp 21 13 5 15, .vrsq 30 24 4 15, .vminFp 17 29 26 4 15, .vmaxFp 25 2 16 3 15, .vabsFp 29 26 4 15, .vnegFp 29 8 4 15,
    .vscale 14 30 12 2 15, .vrnd 13 2 7 1 8, .vrnd 13 2 4 1 15, .vcmpEq 31 26 30 1 5, .vcmpEq 3 26 30 1 15, .vcmpNe 31 24 3 5 6,
    .vcmpNe 7 24 3 5 15, .vcmpLt 31 21 2 4 9, .vcmpLt 3 21 2 4 15, .vcmpLe 31 3 9 5 2, .vcmpLe 4 3 9 5 15, .vcmpUn 31 7 9 1 10,
    .vcmpUn 2 7 9 1 15, .vsel 12 6 20 3 15, .mand 31 7 6 4, .mand 2 31 6 4, .mand 2 7 31 4, .mor 31 2 5 6, .mor 1 31 5 6, .mor 1 2 31 6,
    .mxor 31 1 7 3, .mxor 5 31 7 3, .mxor 5 1 31 3, .mnot 31 3 6, .mnot 2 31 6, .mset 31 3, .mclr 31 1, .vpopc 1 31 2, .vfirst 25 31 7,
    .vcvt 10 10 1 9 3 6, .vcvt 21 21 1 9 3 6, .vcvt 21 10 1 15 3 6, .vcvt 21 10 1 9 3 15, .vfrac 9 1 5 15, .vclass 19 26 2 15,
    .vmvV 9 31 7 15, .vmvX 27 10 3 15, .vid 28 2 15, .viota 12 31 7 3, .viota 12 4 7 15, .vredo 15 3 4 15, .vredt 11 1 5 15,
    .vredmax 7 3 6 15, .vredmin 2 1 5 15, .vredand 17 2 1 15, .vredor 8 3 5 15, .vredxor 16 1 3 15, .vscan 28 31 1 6 15,
    .vscanx 9 23 1 1 15, .vhrd 9 1 15, .vcompress 31 31 3 5, .vcompress 18 18 3 5, .vcompress 18 31 3 15, .vexpand 11 11 6 7,
    .vexpand 18 18 6 7, .vexpand 18 11 6 15, .vslideup 24 24 23 3 7, .vslideup 28 28 23 3 7, .vslideup 28 24 23 3 15,
    .vslidedn 11 11 18 4 7, .vslidedn 14 14 18 4 7, .vslidedn 14 11 18 4 15, .vperm 26 26 5 6 1, .vperm 14 14 5 6 1,
    .vperm 14 26 14 6 1, .vperm 14 26 5 6 15, .vreshape 20 20 17 3 12, .vreshape 8 8 17 3 12, .vreshape 8 20 17 3 15,
    .vmovx 20 24 13 15, .vins 27 7 22 1 15, .vldConvert 9 27 15 1 1 0 0 1, .vldConvert 9 27 8 1 1 0 0 3, .vlds 19 31,
    .vstConvert 30 24 15 6 0 1 1, .vstConvert 30 24 9 6 0 1 3, .vamoAdd 28 2 30 6 3 0, .vamoMax 6 27 15 3 3 1, .vamoMin 23 18 24 2 3 1,
    .opacc 1 31 26 6 15, .opsub 3 10 8 6 15, .mextr 2 11 22 4 15 0, .mextc 2 4 22 2 15 0, .mputr 2 29 30 1 15, .cbld 5 25 31,
    .tbld 7 28 29 31 10, .tbld 7 28 29 8 15, .lka 3 6 31, .lkab 5 4 26 31 10, .lkab 5 4 26 6 15, .lkx 4 15 2 15, .bbit 24 6 12 15,
    .cpwaitV 9 7 2, .tap 8 24 7 15, .tapsteer 4 31 1 15, .urd 14 13 15, .vurd 8 2 15, .vshort 2 27 8 1 15, .rfence 28 0] = true := by decide +kernel


/-! ### Words (R37 to R53): each is written field by field from the format of its major -/

/-- Each word decodes to the instruction beside it. -/
def reads (l : List (Word × Instr)) : Bool := l.all (fun p => match decode p.1 with | .ok j => j == p.2 | .error _ => false)

/-- Each word is refused with the reason beside it. -/
def rejects (l : List (Word × Nat)) : Bool := l.all (fun p => match decode p.1 with | .ok _ => false | .error r => r.reason == p.2)

theorem test_decode_prefix : reads [
    (0b000001_1_010_1_10101_0000000000000000, .pfx 1 2 1 21),
    (0b111111_10000111001100100010111001, .hint 35440825)] = true := by decide +kernel

theorem test_decode_register : reads [
    (0b000010_00010_00011_11011_00000000000, .add 2 3 27),
    (0b000010_10010_00100_01100_00000000001, .sub 18 4 12),
    (0b000010_10011_00010_11110_00000000010, .and 19 2 30),
    (0b000010_10001_00111_00010_00000000011, .or 17 7 2),
    (0b000010_10010_01110_00010_00000000100, .xor 18 14 2),
    (0b000010_11011_10011_00100_00000000101, .andn 27 19 4),
    (0b000010_11111_01000_10101_00000000110, .sll 31 8 21),
    (0b000010_10101_10011_11111_00000000111, .srl 21 19 31),
    (0b000010_01101_00010_01000_00000001000, .sra 13 2 8),
    (0b000010_00010_10010_11100_00000001001, .min 2 18 28),
    (0b000010_00101_01010_01110_00000001010, .max 5 10 14),
    (0b000010_00101_10010_00100_00000001011, .minn 5 18 4),
    (0b000010_10011_01010_10010_00000001100, .maxn 19 10 18),
    (0b000010_11011_10110_00110_00000001101, .slt 27 22 6),
    (0b000010_10101_00111_01100_00000001110, .sltn 21 7 12),
    (0b000010_00100_10010_10111_00000010000, .mul 4 18 23),
    (0b000010_00011_10011_00010_00000010001, .mulh 3 19 2),
    (0b000010_10100_00111_10000_00000010010, .mulhn 20 7 16),
    (0b000010_10110_10010_01110_00000010100, .div 22 18 14),
    (0b000010_11001_01011_01111_00000010101, .divn 25 11 15),
    (0b000010_10011_11110_01111_00000010110, .rem 19 30 15),
    (0b000010_01100_01010_01000_00000010111, .remn 12 10 8),
    (0b000010_11010_00110_0000000000011000, .clz 26 6),
    (0b000010_10111_11001_0000000000011001, .ctz 23 25),
    (0b000010_01000_00011_0000000000011010, .popc 8 3),
    (0b000010_10011_01010_0000000000011100, .sextB 19 10),
    (0b000010_10001_10000_0000000000011101, .sextH 17 16),
    (0b000010_11101_01011_0000000000011110, .sextW 29 11),
    (0b000010_11000_01111_0000000000100000, .zextB 24 15),
    (0b000010_01010_10100_0000000000100001, .zextH 10 20),
    (0b000010_00011_00100_0000000000100010, .zextW 3 4),
    (0b000010_10001_01110_00110_11001_100100, .sel 17 14 6 25)] = true := by decide +kernel

theorem test_decode_immediate : reads [
    (0b000011_01011_00101_1110111011101011, .addi 11 5 61163),
    (0b000100_10000_01110_0000101000001010, .andi 16 14 2570),
    (0b000101_11111_10110_0001001111011111, .ori 31 22 5087),
    (0b000110_11001_10010_1001001010110010, .xori 25 18 37554),
    (0b000111_11010_11101_1101000110000000, .slti 26 29 53632),
    (0b001000_01100_10100_0111111100100111, .sltin 12 20 32551),
    (0b001001_10011_11010_0000000000_011110, .slli 19 26 30),
    (0b001001_00011_11011_0000000001_000110, .srli 3 27 6),
    (0b001001_10111_10110_0000000010_000101, .srai 23 22 5),
    (0b001010_00010_00000_1011101100101110, .lhi 2 47918),
    (0b001011_10111_00000_0100111101000011, .addpc 23 20291)] = true := by decide +kernel

theorem test_decode_loadStore : reads [
    (0b001100_01111_01100_01_0_0_1_00001111001, .ld 15 12 1 0 1 121),
    (0b001101_00111_11001_10_0_0_0_10111101001, .st 7 25 2 0 1513)] = true := by decide +kernel

theorem test_decode_atomic : reads [
    (0b001110_00110_01111_01101_0000_1_01_0000, .amoadd 6 15 13 1 1),
    (0b001110_11011_01110_11100_0000_1_11_0001, .amoand 27 14 28 1 3),
    (0b001110_01110_01100_10110_0000_1_01_0010, .amoor 14 12 22 1 1),
    (0b001110_00101_00011_00110_0000_0_01_0011, .amoxor 5 3 6 0 1),
    (0b001110_10110_01000_00001_0000_1_11_0100, .amomin 22 8 1 1 3),
    (0b001110_00110_01001_01010_0000_0_01_0101, .amomax 6 9 10 0 1),
    (0b001110_01110_10010_01100_0000_1_01_0110, .amominn 14 18 12 1 1),
    (0b001110_10111_11100_10001_0000_0_10_0111, .amomaxn 23 28 17 0 2),
    (0b001110_11101_11100_11001_0000_1_10_1000, .amoswap 29 28 25 1 2),
    (0b001110_01101_00010_00111_0000_0_01_1001, .cas 13 2 7 0 1)] = true := by decide +kernel

theorem test_decode_sync : reads [
    (0b001111000000000000000_011101_010_00, .fence 29 2),
    (0b001111_00100_01011_10100_0_00010_0_0_001, .waiteq 4 11 20 2 0 0),
    (0b001111_10011_00101_10010_0_00100_1_0_101, .waitne 19 5 18 4 1 0),
    (0b00111100000000000000000000000010, .gbar),
    (0b001111_00011_000000000000000000110, .gbarA 3),
    (0b001111_11100_00111_0000000000001010, .gbarW 28 7)] = true := by decide +kernel

theorem test_decode_branch : reads [
    (0b010000_10100_01101_0010011000001000, .beq 20 13 9736),
    (0b010001_10101_01001_1111010010011010, .bne 21 9 62618),
    (0b010010_01100_10100_0101110100111010, .blt 12 20 23866),
    (0b010011_10000_00100_0001110110001000, .bge 16 4 7560),
    (0b010100_11100_10000_1111111000111100, .bltn 28 16 65084),
    (0b010101_01111_10000_0111101111011101, .bgen 15 16 31709),
    (0b010110_01001111110101011000110111, .call 20928055),
    (0b010111_00010101111111001000100111, .jump 5763623),
    (0b011000_00101_00100_1011111111101011, .jr 5 4 49131)] = true := by decide +kernel

theorem test_decode_system : reads [
    (0b0110010000000000_010101111100_0000, .sysc 1404),
    (0b0110010000000000_101111011001_0001, .brk 3033),
    (0b01100100000000000000000000000010, .eret),
    (0b01100100000_01001_0000000000000011, .idle 9),
    (0b01100100000000000000000000000100, .yield),
    (0b01100100000000000000000000000101, .stop),
    (0b011001_10000_11011_000000_101101_0110, .spawn 16 27 45),
    (0b01100100000000000000000000000111, .iflush),
    (0b01100100000000000000000000001000, .tinvAll),
    (0b011001_00110_000000000000000011000, .tinvAs 6),
    (0b011001_10001_00001_0000000000101000, .tinvVa 17 1),
    (0b011010_00111_00000_111100111000_0000, .crd 7 3896),
    (0b011010_11111_10001_010111001010_0001, .cwr 31 17 1482),
    (0b011010_00101_10111_100010110001_0010, .cset 5 23 2225),
    (0b011010_11110_00001_110000100010_0011, .cclr 30 1 3106)] = true := by decide +kernel

theorem test_decode_vconfig : reads [
    (0b100000_01010_10101_00000000_1110_0000, .setvl 10 21 14),
    (0b100000_00011_10111_0000000000000001, .settl 3 23),
    (0b100000_11100_01001_0000000000000010, .setmf 28 9),
    (0b100000_10001_01100_0000000000000011, .setrm 17 12),
    (0b100000_11110_00110_0000000000000100, .vgrant 30 6),
    (0b10000000000000000000000000000101, .vrel),
    (0b10000000000_01100_11001_00000000110, .vsave 12 25),
    (0b10000000000_01000_0000000000000111, .vrst 8)] = true := by decide +kernel

theorem test_decode_vint : reads [
    (0b100001_11011_01101_11000_111_0100_0000, .vaddInt 27 13 24 7 4),
    (0b100001_01001_00111_10111_101_0110_0001, .vsubInt 9 7 23 5 6),
    (0b100001_01000_10000_00111_011_0100_0010, .vmulInt 8 16 7 3 4),
    (0b100001_11111_11000_01101_100_0111_0011, .vmulh 31 24 13 4 7),
    (0b100001_11101_01111_11010_110_0011_0100, .vminInt 29 15 26 6 3),
    (0b100001_11100_00111_00001_011_0100_0101, .vmaxInt 28 7 1 3 4),
    (0b100001_10100_11000_00100_101_0001_0110, .vsatadd 20 24 4 5 1),
    (0b100001_10010_11010_10000_101_0100_0111, .vsatsub 18 26 16 5 4),
    (0b100001_01111_00101_01110_001_0111_1000, .vshl 15 5 14 1 7),
    (0b100001_01111_01011_00011_110_0100_1001, .vshr 15 11 3 6 4),
    (0b100001_01110_00011_00111_110_0101_1010, .vsra 14 3 7 6 5),
    (0b100001_11010_00100_11101_111_0011_1011, .vand 26 4 29 7 3),
    (0b100001_01000_11000_11111_001_0111_1100, .vor 8 24 31 1 7),
    (0b100001_01101_01011_01110_010_0110_1101, .vxor 13 11 14 2 6),
    (0b100001_01111_10111_00000_001_0111_1110, .vabsInt 15 23 1 7),
    (0b100001_10001_11111_00000_001_0010_1111, .vnegInt 17 31 1 2)] = true := by decide +kernel

theorem test_decode_vfp : reads [
    (0b100010_00011_11010_01001_001_1010_0000, .vaddFp 3 26 9 1 10),
    (0b100010_00100_01111_00001_011_1001_0001, .vsubFp 4 15 1 3 9),
    (0b100010_10110_11011_01101_111_1001_0010, .vmulFp 22 27 13 7 9),
    (0b100010_01110_11000_10111_111_1001_0011, .vfma 14 24 23 7 9),
    (0b100010_00101_11110_10001_111_1001_0100, .vfms 5 30 17 7 9),
    (0b100010_10101_11000_10111_011_1010_0101, .vfnma 21 24 23 3 10),
    (0b100010_10001_01010_01111_100_1000_0110, .vdiv 17 10 15 4 8),
    (0b100010_10100_11011_00000_110_1001_0111, .vsqrt 20 27 6 9),
    (0b100010_10101_01101_00000_101_1001_1000, .vrcp 21 13 5 9),
    (0b100010_11110_11000_00000_100_1000_1001, .vrsq 30 24 4 8),
    (0b100010_10001_11101_11010_100_1001_1010, .vminFp 17 29 26 4 9),
    (0b100010_11001_00010_10000_011_1010_1011, .vmaxFp 25 2 16 3 10),
    (0b100010_11101_11010_00000_100_1010_1100, .vabsFp 29 26 4 10),
    (0b100010_11101_01000_00000_100_1001_1101, .vnegFp 29 8 4 9),
    (0b100010_01110_11110_01100_010_1000_1110, .vscale 14 30 12 2 8),
    (0b100010_01101_00010_00_100_001_1000_1111, .vrnd 13 2 4 1 8)] = true := by decide +kernel

theorem test_decode_vcmp : reads [
    (0b100011_00011_11010_11110_001_0101_0000, .vcmpEq 3 26 30 1 5),
    (0b100011_00111_11000_00011_101_0110_0001, .vcmpNe 7 24 3 5 6),
    (0b100011_00011_10101_00010_100_1001_0010, .vcmpLt 3 21 2 4 9),
    (0b100011_00100_00011_01001_101_0010_0011, .vcmpLe 4 3 9 5 2),
    (0b100011_00010_00111_01001_001_1010_0100, .vcmpUn 2 7 9 1 10),
    (0b100011_01100_00110_10100_011_0010_0101, .vsel 12 6 20 3 2),
    (0b100011_00010_00111_00110_100_00000110, .mand 2 7 6 4),
    (0b100011_00001_00010_00101_110_00000111, .mor 1 2 5 6),
    (0b100011_00101_00001_00111_011_00001000, .mxor 5 1 7 3),
    (0b100011_00010_00011_00000_110_00001001, .mnot 2 3 6),
    (0b100011_00001_0000000000_011_00001010, .mset 1 3),
    (0b100011_00110_0000000000_001_00001011, .mclr 6 1),
    (0b100011_00001_00101_00000_010_00001100, .vpopc 1 5 2),
    (0b100011_11001_00010_00000_111_00001101, .vfirst 25 2 7)] = true := by decide +kernel

theorem test_decode_vcvt : reads [
    (0b100100_10101_01010_1_1001_011_0110_0000, .vcvt 21 10 1 9 3 6),
    (0b100100_01001_00001_00000_101_1000_0001, .vfrac 9 1 5 8),
    (0b100100_10011_11010_00000_010_1000_0010, .vclass 19 26 2 8),
    (0b100100_01001_11111_00000_111_0011_0011, .vmvV 9 31 7 3),
    (0b100100_11011_00000_01010_011_0010_0100, .vmvX 27 10 3 2),
    (0b100100_11100_0000000000_010_0011_0101, .vid 28 2 3),
    (0b100100_01100_00100_00000_111_0011_0110, .viota 12 4 7 3)] = true := by decide +kernel

theorem test_decode_vred : reads [
    (0b10010100000_01111_000_11_100_0010_0000, .vredo 15 3 4 2),
    (0b10010100000_01011_000_01_101_0100_0001, .vredt 11 1 5 4),
    (0b10010100000_00111_000_11_110_0001_0010, .vredmax 7 3 6 1),
    (0b10010100000_00010_000_01_101_1010_0011, .vredmin 2 1 5 10),
    (0b10010100000_10001_000_10_001_0011_0100, .vredand 17 2 1 3),
    (0b10010100000_01000_000_11_101_0011_0101, .vredor 8 3 5 3),
    (0b10010100000_10000_000_01_011_0100_0110, .vredxor 16 1 3 4),
    (0b100101_11100_11111_000_01_110_0010_0111, .vscan 28 31 1 6 2),
    (0b100101_01001_10111_000_01_001_0101_1000, .vscanx 9 23 1 1 5),
    (0b100101_01001_00000000_01_000_0001_1001, .vhrd 9 1 1),
    (0b1001010000000000000_01_00000001010, .vhclr 1)] = true := by decide +kernel

theorem test_decode_vperm : reads [
    (0b100110_10010_11111_00000_011_0101_0000, .vcompress 18 31 3 5),
    (0b100110_10010_01011_00000_110_0111_0001, .vexpand 18 11 6 7),
    (0b100110_11100_11000_10111_011_0111_0010, .vslideup 28 24 23 3 7),
    (0b100110_01110_01011_10010_100_0111_0011, .vslidedn 14 11 18 4 7),
    (0b100110_01110_11010_00101_110_0001_0100, .vperm 14 26 5 6 1),
    (0b100110_01000_10100_10001_011_1100_0101, .vreshape 8 20 17 3 12),
    (0b100110_10100_11000_01101_000_0100_0110, .vmovx 20 24 13 4),
    (0b100110_11011_00111_10110_001_0010_0111, .vins 27 7 22 1 2)] = true := by decide +kernel

theorem test_decode_vload : reads [
    (0b100111_11011_10100_00000_111_00_0_0_1_0_11, .vldUnit 27 20 7 0 0 1 3),
    (0b100111_01001_11011_1_1000_001_00_1_0_0_0_01, .vldConvert 9 27 8 1 1 0 0 1),
    (0b100111_01110_11111_11010_011_01_1_0_1_0_10, .vldStrided 14 31 26 3 1 0 1 2),
    (0b100111_01100_00010_10111_111_10_1_1_1_0_11, .vldIndexed 12 2 23 7 1 1 1 3),
    (0b100111_10100_11010_00000000110_1_1_0_01, .vldz 20 26 1 1 1),
    (0b100111_10011_00101_0000000011000100, .vlds 19 5)] = true := by decide +kernel

theorem test_decode_vstore : reads [
    (0b101000_11110_10100_00000_010_00_1_0_0_0_11, .vstUnit 30 20 2 1 0 3),
    (0b101000_11110_11000_1_1001_110_00_0_0_1_0_01, .vstConvert 30 24 9 6 0 1 1),
    (0b101000_11011_00110_00101_111_01_0_0_0_0_10, .vstStrided 27 6 5 7 0 0 2),
    (0b101000_00100_00111_11010_001_10_0_0_1_0_01, .vstIndexed 4 7 26 1 0 1 1),
    (0b101000_10110_11011_000000001100_1_0_11, .vstz 22 27 1 3),
    (0b101000_11101_01111_000_11_100_0000_0_100, .vcpst 29 15 3 4 0),
    (0b101000_11100_00010_11110_110_01_0_00101, .vamoAdd 28 2 30 6 1 0),
    (0b101000_00110_11011_01111_011_01_1_00110, .vamoMax 6 27 15 3 1 1),
    (0b101000_10111_10010_11000_010_10_1_00111, .vamoMin 23 18 24 2 2 1)] = true := by decide +kernel

theorem test_decode_matrix : reads [
    (0b10110000000_01011_10010_00000000000, .msetm 11 18),
    (0b101100_01_001000000000000000000000, .mzero 1),
    (0b101100_01_010_11111_11010_110_0100_0000, .opacc 1 31 26 6 4),
    (0b101100_11_011_01010_01000_110_1001_0000, .opsub 3 10 8 6 9),
    (0b101100_10_100_01011_10110_100_0010_000_0, .mextr 2 11 22 4 2 0),
    (0b101100_10_101_00100_10110_010_1011_000_0, .mextc 2 4 22 2 11 0),
    (0b101100_10_110_11101_11110_001_0100_0000, .mputr 2 29 30 1 4)] = true := by decide +kernel

theorem test_decode_lookupConfig : reads [
    (0b110000_100_01001_11100_0000000000000, .breg 4 9 28),
    (0b110000_101_11001_00000_00011_00010000, .cbld 5 25 3),
    (0b110000_111_11100_11101_01000_0010_1010, .tbld 7 28 29 8 10),
    (0b110000_011_00000000000000000110000, .lkz 3)] = true := by decide +kernel

theorem test_decode_lookup : reads [
    (0b110001_011_00000_00110_00100_00000000, .lka 3 6 4),
    (0b110001_101_00100_11010_00110_0001_1010, .lkab 5 4 26 6 10),
    (0b110001_100_01111_00000_00010_0010_0001, .lkx 4 15 2 1)] = true := by decide +kernel

theorem test_decode_nearBank : reads [
    (0b110010000_00010_10001_10011_00000000, .bdot 2 17 19),
    (0b110010000_00100_01110_10101_00010000, .baxpy 4 14 21),
    (0b110010000_10111_00000_00101_00100000, .bcopy 23 5),
    (0b110010000_11000_00110_01100_0011_0011, .bbit 24 6 12 3),
    (0b11001000000000_10110_11111_01000000, .bfill 22 31),
    (0b11001000000000000000000001010000, .bsync)] = true := by decide +kernel

theorem test_decode_copy : reads [
    (0b11010000000_00011_000000000_0110_000, .cpdecl 3 6),
    (0b110100000000000000000_0001_1110_001, .cplink 1 14),
    (0b110100_10101_11100_11011_0000_1000_010, .cpstore 21 28 27 8),
    (0b11010000000_01010_000000000_0011_011, .cpwaitR 10 3),
    (0b11010000000_01001_000000_001_0010_100, .cpwaitV 9 1 2),
    (0b1101000000000000000000000_1111_101, .cpcancel 15),
    (0b110100_01000_00000000000000_0010_110, .srd 8 2),
    (0b110100_00101_00000000000000_1000_111, .savail 5 8)] = true := by decide +kernel

theorem test_decode_cache : reads [
    (0b11010100000_01001_10010_00000000_0_00, .cflush 9 18 0),
    (0b11010100000_01011_01111_00000000001, .cinval 11 15),
    (0b11010100000_01000_00110_00000000010, .czero 8 6),
    (0b11010100000_10011_10010_00000000011, .cseal 19 18)] = true := by decide +kernel

theorem test_decode_tap : reads [
    (0b11011000000_01000_11000_111_1001_0000, .tap 8 24 7 9),
    (0b11011000000_10001_0000000000000001, .tapend 17),
    (0b110110_00100_00000_11111_001_1000_0010, .tapsteer 4 31 1 8)] = true := by decide +kernel

theorem test_decode_sampler : reads [
    (0b110111_01110_01101_00000000_1010_0000, .urd 14 13 10),
    (0b110111_01000_0000000000_010_1010_0001, .vurd 8 2 10),
    (0b110111_00010_11011_01000_001_1010_0010, .vshort 2 27 8 1 10),
    (0b110111_01011_00100_00000_001_00000011, .vaccept 11 4 1),
    (0b11011100000_00111_0000000000000100, .scommit 7)] = true := by decide +kernel

theorem test_decode_fabric : reads [
    (0b111000_10100_11001_10111_0000_0_1_00000, .ramoAdd 20 25 23 0 1),
    (0b111000_01011_00011_11010_0000_1_0_00001, .ramoAnd 11 3 26 1 0),
    (0b111000_00001_01011_11111_0000_1_1_00010, .ramoOr 1 11 31 1 1),
    (0b111000_00010_00011_11010_0000_0_0_00011, .ramoXor 2 3 26 0 0),
    (0b111000_11000_10001_10110_0000_0_0_00100, .ramoMin 24 17 22 0 0),
    (0b111000_11010_01100_11001_0000_0_0_00101, .ramoMax 26 12 25 0 0),
    (0b111000_00111_11110_01000_0000_1_0_00110, .ramoMinn 7 30 8 1 0),
    (0b111000_00001_11010_11101_0000_1_0_00111, .ramoMaxn 1 26 29 1 0),
    (0b111000_10000_10001_11001_0000_1_0_01000, .ramoSwap 16 17 25 1 0),
    (0b11100000000_11100_00000000_1_0001111, .rfence 28 1)] = true := by decide +kernel


/-- The words that the spec's own examples write out (R36, R53, R62, R149, R161, R164, R172, R182, R188, R245). -/
theorem test_decode_examples : reads [
    (0x30C5C008, .ld 6 5 3 0 0 8), (0x30C5A008, .ld 6 5 2 1 0 8), (0x0CE7FFFF, .addi 7 7 0xFFFF), (0x44E0FFFE, .bne 7 0 0xFFFE),
    (0xFC000000, .hint 0), (0x06A70000, .pfx 1 2 1 7), (0x28A01235, .lhi 5 0x1235), (0x0CA59876, .addi 5 5 0x9876),
    (0x08642800, .add 3 4 5), (0x68A00100, .crd 5 0x010), (0x654B0096, .spawn 10 11 9), (0x3C000002, .gbar), (0x3CA00006, .gbarA 5),
    (0x3CC5000A, .gbarW 6 5), (0x39496040, .amoadd 10 9 12 1 0), (0x3DAB5019, .waiteq 13 11 10 0 1 1), (0x38097840, .amoadd 0 9 15 1 0),
    (0x940108A1, .vredt 1 1 0 10), (0x94A008A9, .vhrd 5 1 10)] = true := by decide +kernel

/-- Checks 2 to 6 of R44: the zero word, major 0x00, reserved majors, an unassigned function code, reserved fields (in `SRLI`, `PFX`, a
doubleword load that zero-extends, an order of 11), a register out of range, a type code that is not accepted. -/
theorem test_decode_refused : rejects [
    (0, 1), (0x00000001, 1), (0x6C000000, 2), (0xA4000000, 2), (0xF8000000, 2), (0x0800003F, 3), (0x24000100, 4), (0x04000000, 4),
    (0x30C5E008, 4), (0x30C5D808, 4), (0x80000100, 4), (0x800000F0, 5)] = true := by decide +kernel


/-! ### States that meet the hypotheses of the statements -/

/-- A computation goes on with a value and a state that have the property. -/
def goesOn {α : Type} (r : EStateM.Result Stop State α) (p : α → State → Bool) : Bool :=
  match r with
  | .ok a s => p a s
  | .error _ _ => false

theorem meets {α : Type} {r : EStateM.Result Stop State α} {P : α → State → Prop} [∀ a s, Decidable (P a s)]
    (h : goesOn r (fun a s => decide (P a s)) = true) : ∃ a s, r = .ok a s ∧ P a s := by
  cases r with
  | ok a s => exact ⟨a, s, rfl, of_decide_eq_true h⟩
  | error e s => simp [goesOn] at h

/-- A computation traps, in a state that has the property. -/
def traps {α : Type} (r : EStateM.Result Stop State α) (p : Trap → State → Bool) : Bool :=
  match r with
  | .error (.trap t) s => p t s
  | _ => false

theorem trapsWith {α : Type} {r : EStateM.Result Stop State α} {P : Trap → State → Prop} [∀ a s, Decidable (P a s)]
    (h : traps r (fun a s => decide (P a s)) = true) : ∃ a s, r = .error (.trap a) s ∧ P a s := by
  cases r with
  | ok a s => simp [traps] at h
  | error e s => cases e with
    | trap t => exact ⟨t, s, rfl, of_decide_eq_true h⟩
    | _ => simp [traps] at h

theorem coherent_empty {s : State} (h : s.lines = []) : s.coherent := by
  intro l ln hl
  rw [h] at hl
  simp [Tab.find] at hl

/-- A page of 64 KiB at virtual address 0, as the cluster's TLB holds it. -/
def page : TlbEntry := { unit := 0, asid := 0, base := 0, size := 65536, home := 0, glob := false, pa := 0x20000, mt := 0, perm := 15 }

/-- A strand at user level, with two registers. -/
def user : Strand := { run := .run, pool := some 1, pc := 0x100, x := [(1, 0x1000), (2, 3)] }

/-- The package with one strand, whose turn it is, and one page. -/
def with1 (st : Strand) : State := { strands := [(0, st)], tlb := [page] }

theorem witness_RegisterOperationsWriteTheirResult : (with1 user).Ready (infoDAB 3 1 2) ∧ (with1 user).Ready (infoDAB 0 1 1) ∧
    (with1 user).Ready (infoDA 3 1) ∧ (with1 user).Ready (infoDA 3 0) ∧ (with1 user).Ready { dest := some (.x, 3) } ∧
    (with1 user).Ready { reads := [(.x, 1), (.x, 2), (.x, 0)], dest := some (.x, 3) } := by decide +kernel

theorem witness_DivisionNeverTraps :
    ((with1 user).Ready (infoDAB 3 1 0) ∧ (with1 user).st.rx 0 = 0) ∧
    (let s := with1 { user with x := [(1, 0x8000000000000000), (2, 0xFFFFFFFFFFFFFFFF)] }
     s.Ready (infoDAB 3 1 2) ∧ (s.st.rx 1).toInt = -2 ^ 63 ∧ (s.st.rx 2).toInt = -1) ∧
    ((with1 user).Ready (infoDAB 3 1 2) ∧ (with1 user).st.rx 2 ≠ 0 ∧ ¬(((with1 user).st.rx 1).toInt = -2 ^ 63 ∧ ((with1 user).st.rx 2).toInt = -1)) := by
  decide +kernel

theorem witness_BranchesGoWhereTheyCompare : (with1 user).Ready { reads := [(.x, 1), (.x, 2)] } := by decide +kernel

theorem witness_JumpsLinkAndGo :
    ((with1 user).Ready {} ∧ (with1 user).Ready { reads := [(.x, 1)] }) ∧
    ((with1 user).Ready { reads := [(.x, 1), (.x, 3)] } ∧ ((with1 user).st.rx 1 + (4 : BitVec 16).signExtend 64).toNat % 4 = 0
      ∧ ((with1 user).st.rx 1 + (2 : BitVec 16).signExtend 64).toNat % 4 ≠ 0) := by decide +kernel

theorem witness_PrefixAndHint : (Instr.pfx 1 2 1 7).wf = true ∧ (with1 user).Ready { pfx := true } := by decide +kernel

/-- A prefix that lends a predicate is not permitted for `ADD`, nor any prefix for `PFX`; a load that is not performed keeps its register pending. -/
theorem witness_ScalarInstructionsStopBeforeTheyAct :
    prefixOk (with1 { user with latch := 0x80800000 }).st.latch (infoDAB 3 1 2) = false ∧
    prefixOk (with1 { user with latch := 0x80000000 }).st.latch { pfx := true } = false ∧
    (let s := with1 { user with loads := [{ pa := 0, place := .home, size := 8, zext := false, dst := 1, cpy := none, amo := none, dom := 0, va := 0, seq := 0 }] }
     prefixOk s.st.latch (infoDAB 3 1 2) = true ∧ hazard s.st 0 (infoDAB 3 1 2) = true) := by decide +kernel

/-- Loads of a byte and of a doubleword from a WB page and from a BR page. -/
theorem witness_LoadsReadTheirBytes (z : BitVec 2) (hz : z = 0 ∨ z = 3) (mt : Nat) (hm : mt = 0 ∨ mt = 1) :
    let info : Info := { reads := [(.x, 1)], dest := some (.x, 3) }
    let s : State := { with1 user with tlb := [{ page with mt := mt, unit := 80 }] }
    let ea := (s.st.rx 1 + (8 : BitVec 11).signExtend 64).toNat
    s.Ready info ∧ s.Quiet ∧ ea % 2 ^ z.toNat = 0 ∧ s.defer = false ∧
    ∃ x u, xlateIn (Acc.load.forStrand (s.begun info)) ea (2 ^ z.toNat) (s.begun info) = .ok x u ∧
      (x.place.holds x.pa = true ∧ x.place.isOpen u x.pa = true ∧ u.goodAt x.place x.pa = true ∧ x.pa % 2 ^ z.toNat = 0) := by
  rcases hz with rfl | rfl <;> rcases hm with rfl | rfl <;>
    exact ⟨by decide +kernel, by decide +kernel, by decide +kernel, rfl, meets (by decide +kernel)⟩

theorem witness_StoresWriteTheirBytes (mt : Nat) (hm : mt = 0 ∨ mt = 1) (q : BitVec 1) :
    let info : Info := { reads := [(.x, 2), (.x, 1)], tagged := true }
    let s : State := { with1 user with tlb := [{ page with mt := mt, unit := 80 }] }
    let ea := (s.st.rx 1 + (8 : BitVec 11).signExtend 64).toNat
    s.Ready info ∧ s.Quiet ∧ ea % 2 ^ 3 = 0 ∧ s.defer = false ∧
    ∃ x u, xlateIn (Acc.store.forStrand (s.begun info)) ea (2 ^ 3) (s.begun info) = .ok x u ∧
      (openBefore u u.st u.seqNow = false ∧ x.place.holds x.pa = true ∧ x.place.isOpen u x.pa = true ∧ (mt = 0 → u.goodAt x.place x.pa = true)
        ∧ x.pa % 2 ^ 3 = 0 ∧ (x.place = .bank ↔ mt = 1)) := by
  rcases hm with rfl | rfl <;>
    exact ⟨by decide +kernel, by decide +kernel, by decide +kernel, rfl, meets (by decide +kernel)⟩

theorem witness_AtomicsReturnTheOldValue :
    let s := with1 user
    s.Quiet ∧ (s.st.rx 1).toNat % 8 = 0 ∧ s.defer = false ∧
    s.Ready { reads := [(.x, 1), (.x, 2)] ++ [], dest := some (.x, 3), tagged := true } ∧
    s.Ready { reads := [(.x, 1), (.x, 2)] ++ [(.x, 3)], dest := some (.x, 3), tagged := true } ∧
    ∃ x u, xlate1 (Acc.amo.forStrand (s.begun { tagged := true })) (s.st.rx 1).toNat (s.begun { tagged := true }) = .ok x u ∧
      (openBefore u u.st u.seqNow = false ∧ x.place ≠ .bank ∧ x.place.holds x.pa = true ∧ u.goodAt x.place x.pa = true ∧ x.pa % 8 = 0) :=
  ⟨by decide +kernel, by decide +kernel, rfl, by decide +kernel, by decide +kernel, meets (by decide +kernel)⟩

/-- A posted transaction of strand 1, as an access that waits for its answer has it. -/
def sent (home op va size : Nat) (answer : Option (Nat × Nat)) : Txn :=
  { home := home, tag := 7, op := op, pa := va, mt := 0, size := size, data := 0, be := 255, dom := 0, va := va, sid := 1, posted := false, st := 1,
    port := 0, since := 0, waitAt := none, done := answer }

/-- A page of package 3, one of the host window, and one of IO registers, with no transaction and with an answered one. -/
theorem witness_AccessesLeaveThePackage :
    let st : Strand := { user with pl := 1 }
    let far : TlbEntry := { page with unit := 80, home := 3, glob := true }
    let host : TlbEntry := { page with unit := 80, mt := 3, home := 127, pa := 0 }
    let io : TlbEntry := { page with unit := 80, mt := 3, pa := berrBase }
    let s := fun (e : TlbEntry) (l : List Txn) =>
      ({ with1 st with tlb := [e], txns := l, pk := [(0x856, 0x10000)], mem := [(0x10004, 5), (0x1002A, 15)] } : State)
    let load : Info := { reads := [(.x, 1)], dest := some (.x, 3) }
    let store : Info := { reads := [(.x, 2), (.x, 1)], tagged := true }
    let amo := fun (r : List (RegKind × Nat)) => ({ reads := [(.x, 1), (.x, 2)] ++ r, dest := some (.x, 3), tagged := true } : Info)
    let ready := fun (u : State) => u.Ready load ∧ u.Ready store ∧ u.Ready (amo []) ∧ u.Ready (amo [(.x, 3)]) ∧ u.Quiet ∧ u.st.resumed = false
    (∀ e ∈ [far, host, io], ready (s e []) ∧ ∀ op ∈ [0, 1, 2, 11], ready (s e [sent 3 op 0x1000 8 (some (0, 5))])) ∧ (s io []).st.rx 1 = 0x1000 ∧
    (∀ w ∈ [Acc.load, Acc.store], ∀ i ∈ [load, store], ∀ l ∈ [[], [sent 3 0 0x1000 8 (some (0, 5)), sent 3 1 0x1000 8 (some (0, 0))]],
      (∃ x u, xlateIn (w.forStrand ((s far l).begun i)) 0x1000 8 ((s far l).begun i) = .ok x u ∧
        (x.place = .remote 3 ∧ u.txns = l ∧ (∀ tx ∈ u.txns, tx.home = 3 → tx.done.isSome = true)
          ∧ ∀ op ∈ [0, 1], findTxn u x.who op 0x1000 8 = if l = [] then none else some (sent 3 op 0x1000 8 (some (0, if op = 0 then 5 else 0))))) ∧
      (∃ x u, xlateIn (w.forStrand ((s host l).begun i)) 0x1000 8 ((s host l).begun i) = .ok x u ∧ x.place = .host 0) ∧
      ∃ x u, xlateIn (w.forStrand ((s io l).begun i)) 0x1000 8 ((s io l).begun i) = .ok x u ∧
        (x.place = .io ∧ x.pa = berrBase + 16 * 256 ∧ u.txns.any (fun t => t.late.isSome) = false)) ∧
    ∃ x u, xlate1 (Acc.amo.forStrand ((s far []).begun { tagged := true })) 0x1000 ((s far []).begun { tagged := true }) = .ok x u ∧ x.place = .remote 3 := by
  refine ⟨by decide +kernel, rfl, ?_, meets (by decide +kernel)⟩
  intro w hw i hi l hl
  simp only [List.mem_cons, List.not_mem_nil, or_false] at hw hi hl
  rcases hw with rfl | rfl <;> rcases hi with rfl | rfl <;> rcases hl with rfl | rfl <;>
    exact ⟨meets (by decide +kernel), meets (by decide +kernel), meets (by decide +kernel)⟩

/-- An address that is no multiple of 8, one beyond bit 54, and one that no page maps to a strand at user level. -/
theorem witness_AddressesThatTrap :
    let info : Info := { reads := [(.x, 1)], dest := some (.x, 3) }
    let s := fun (v : Dword) => with1 { user with x := [(1, v)] }
    (s 0x1001).Ready info ∧ ((s 0x1001).st.rx 1).toNat % 8 ≠ 0 ∧
    ((s 0x80000000000000).Ready info ∧ ((s 0x80000000000000).st.rx 1).toNat % 8 = 0 ∧ 2 ^ 55 ≤ ((s 0x80000000000000).st.rx 1).toNat) ∧
    ((s 0x20000).Ready info ∧ ((s 0x20000).st.rx 1).toNat % 8 = 0 ∧
      ∃ tr u, xlate1 (Acc.load.forStrand ((s 0x20000).begun info)) ((s 0x20000).st.rx 1).toNat ((s 0x20000).begun info) = .error (.trap tr) u
        ∧ tr.cause = cTFAULT) :=
  ⟨by decide +kernel, by decide +kernel, by decide +kernel, by decide +kernel, by decide +kernel, trapsWith (by decide +kernel)⟩

theorem witness_DeferredAccessesAreIssued :
    let load : Info := { reads := [(.x, 1)], dest := some (.x, 3) }
    let store : Info := { reads := [(.x, 2), (.x, 1)], tagged := true }
    let s : State := { with1 user with defer := true }
    s.Ready load ∧ s.st.vq = [] ∧ (s.st.rx 1).toNat % 2 ^ 3 = 0 ∧
    (∃ x u, xlateIn (Acc.load.forStrand (s.begun load)) (s.st.rx 1).toNat (2 ^ 3) (s.begun load) = .ok x u ∧ canDefer u x = true) ∧
    s.Ready store ∧ s.defer = true ∧ s.storesOpen < 8 ∧
    ∃ x u, xlateIn (Acc.store.forStrand (s.begun store)) (s.st.rx 1).toNat (2 ^ 3) (s.begun store) = .ok x u ∧ x.place = .home :=
  ⟨by decide +kernel, rfl, by decide +kernel, meets (by decide +kernel), by decide +kernel, rfl, by decide +kernel,
    meets (by decide +kernel)⟩

/-- A store and a load that may be performed, of a word that holds no error and, for the load, of one that is marked; and every atomic. -/
theorem witness_IssuedAccessesArePerformed (p : Place) (hp : p = .home ∨ p = .bank) :
    let e : StoreEntry := { pa := 0x20038, place := p, size := 8, val := 1, dom := 0, va := 0x38, rel := false, seq := 0 }
    let l : LoadEntry := { pa := 0x20038, place := p, size := 8, zext := true, dst := 3, cpy := none, amo := none, dom := 0, va := 0x38, seq := 0 }
    ((with1 { user with stores := [e] }).strandAt 0).stores[0]? = some e ∧ storeReady (with1 { user with stores := [e] }) 0 e = true ∧
    ((with1 { user with loads := [l] }).strandAt 0).loads[0]? = some l ∧ loadReady (with1 { user with loads := [l] }) 0 l = true ∧
    l.amo = none ∧ p.holds 0x20038 = true ∧ 0x20038 % 32 + 8 ≤ 32 ∧ (with1 user).goodAt p 0x20038 = true ∧
    ({ with1 { user with loads := [l] } with wordErr := [(0x20038 / 32, markBits)] } : State).goodAt p 0x20038 = false ∧
    ∀ op, op < 10 → (
      let a := { l with place := .home, zext := false, amo := some (op, 5, 9) }
      ((with1 { user with loads := [a] }).strandAt 0).loads[0]? = some a ∧ loadReady (with1 { user with loads := [a] }) 0 a = true ∧ 5 < 2 ^ (8 * a.size)
        ∧ (with1 { user with loads := [a] }).goodAt .home 0x20038 = true) := by
  rcases hp with rfl | rfl <;> decide +kernel


/-- A transaction that is posted and has no answer yet. -/
def posted1 : Txn :=
  { home := 3, tag := 7, op := 2, pa := 0, mt := 0, size := 8, data := 0, be := 255, dom := 0, va := 0, sid := 1, posted := true, st := 1,
    port := 0, since := 0, waitAt := none, done := none }

theorem witness_FencesGoOnOrWait :
    (let s := with1 user
     s.Ready {} ∧ s.Quiet ∧ s.txns = [] ∧ (∀ p ∈ s.slots, p.2.owner.map Prod.fst ≠ some s.st.owner) ∧
       s.Ready { reads := [(.x, 1)] } ∧ openTxns s none = false ∧ s.st.linkErrs = []) ∧
    (let s : State := { with1 user with txns := [posted1] }
     s.Ready {} ∧ s.Quiet ∧ posted1 ∈ s.txns ∧ s.st.owns posted1.sid = true ∧ posted1.done = none ∧ posted1.home ≠ 127 ∧ openTxns s none = true ∧ openTxns s (some 3) = true
       ∧ (4 : BitVec 6).toNat / 4 % 4 ≠ 0 ∧ posted1.op ≠ 0 ∧ 3 ≤ (3 : BitVec 3).toNat) ∧
    (let x := { posted1 with op := 0, posted := false }
     let s : State := { with1 user with txns := [x] }
     s.Ready {} ∧ s.Quiet ∧ x ∈ s.txns ∧ s.st.owns x.sid = true ∧ x.done = none ∧ (1 : BitVec 6).toNat % 4 ≠ 0 ∧ x.op ≠ 1 ∧ x.posted = false
       ∧ (∀ y ∈ s.txns, y.op = 0) ∧ ¬(3 ≤ (2 : BitVec 3).toNat)) ∧
    (let s := with1 { user with linkErrs := [{ va := 0, w0 := 1, home := 3, tag := 7, w3 := 2 }] }
     s.Ready {} ∧ openTxns s none = false ∧ ∃ l r, s.st.linkErrs = l :: r ∧ l.w0 = 1) := by
  refine ⟨by decide +kernel, by decide +kernel, by decide +kernel, by decide +kernel, by decide +kernel, _, _, rfl, rfl⟩

/-- The location holds 0: WAITEQ for 0 completes, WAITEQ for 3 sleeps, with and without a deadline, and completes when it has passed. -/
theorem witness_WaitsReadAndSleep :
    let info : Info := { reads := [(.x, 1), (.x, 2)], dest := some (.x, 3) }
    let s := fun (d : Option Nat) => with1 { user with deadline := d }
    (∀ d ∈ [none, some 0, some 9], (s d).Ready info ∧ (s d).Quiet ∧ ((s d).st.rx 1).toNat % 8 = 0 ∧ ((s d).st.rx 2).toNat % 2 ^ 64 ≠ 0) ∧
    (∀ e, (s none).st.deadline ≠ some e) ∧ 0 ≤ (s (some 0)).now ∧ (s (some 9)).now < 9 ∧
    ∃ x u, xlate1 (Acc.waitLine.forStrand ((s none).begun info)) ((s none).st.rx 1).toNat ((s none).begun info) = .ok x u ∧
      (x.place = .home ∧ isDram x.pa = true ∧ u.goodAt .home x.pa = true ∧ x.pa % 8 = 0 ∧ u.bytesAt .home x.pa 8 = 0) :=
  ⟨by decide +kernel, fun e h => (nomatch h), Nat.zero_le _, by decide +kernel, meets (by decide +kernel)⟩

/-- A gang of two strands; its members have rank 0 and 1. -/
def gang2 (a w : BitVec 16) : Gang := { size := 2, cluster := 0, barP := 5, barA := a, barW := w, started := true }
def member (g : Gang) (rank : Dword) : State :=
  { strands := [(0, { user with gang := some 4, csr := [(0x002, rank)], x := [(1, 5), (2, 4)] })], gangs := [(4, g)] }

theorem witness_GangBarriersOpenAndClose :
    (∀ s ∈ [member (gang2 0 0) 0, member (gang2 1 0) 1, member (gang2 1 0) 0, member (gang2 0 1) 0, member (gang2 1 1) 0],
      s.Quiet ∧ openBefore s s.st s.seqNow = false ∧ s.Ready { dest := some (.x, 3) } ∧ s.Ready (infoDA 3 1) ∧ s.Ready {}
        ∧ (gangOf s).isSome = true) ∧
    (gangOf (member (gang2 0 0) 0) = some (4, gang2 0 0) ∧ bitOf (gang2 0 0).barA.toNat 0 = false ∧
      ¬(∀ j, j < 2 → bitOf (gang2 0 0).stopped j = true ∨ bitOf (setBit (gang2 0 0).barA 0 true).toNat j = true)) ∧
    (gangOf (member (gang2 1 0) 1) = some (4, gang2 1 0) ∧ bitOf (gang2 1 0).barA.toNat 1 = false ∧
      ∀ j, j < 2 → bitOf (gang2 1 0).stopped j = true ∨ bitOf (setBit (gang2 1 0).barA 1 true).toNat j = true) ∧
    (bitOf (gang2 1 0).barA.toNat 0 = true ∧ phaseDone (gang2 1 0) 5 = false ∧ BitVec.ofNat 32 ((member (gang2 1 0) 0).st.rx 1).toNat = (gang2 1 0).barP
      ∧ phaseDone (gang2 1 0) 4 = true) ∧
    (bitOf (gang2 0 1).barW.toNat 0 = true ∧ bitOf (gang2 0 1).barA.toNat 0 = false) ∧
    (bitOf (gang2 1 1).barW.toNat 0 = true ∧ bitOf (gang2 1 1).barA.toNat 0 = true) := by
  decide +kernel

/-- At user level, and at supervisor level with no handler in progress; `SYSC` there. -/
theorem witness_TrapsEnterTheHandler :
    (∀ pl ∈ [(0 : BitVec 2), 1, 2], let s := with1 { user with pl := pl }
      s.Quiet ∧ s.st.late = [] ∧ s.st.want = none ∧ s.st.pl.toNat ≤ 2 ∧ bitOf (s.st.cr 0x804).toNat 4 = false ∧ s.Ready {}
        ∧ s.st.run = .run ∧ haltWaits s = false) ∧
    (let tr : Trap := { cause := cTFAULT, eval := 0 }
     tr.entry = none ∧ tr.epc = none ∧ tr.cause ≠ cMCHK ∧ ∀ b, fsplitBit tr.cause = some b → bitOf ((with1 user).pkr 0x800).toNat b = false) :=
  ⟨by decide +kernel, rfl, rfl, by decide, fun b h => by cases h; decide +kernel⟩

/-- A machine check at user level, a trap in a supervisor handler, and one whose cause the host assists. -/
theorem witness_MachineChecksAndParkedTraps :
    (let s := with1 user
     s.Quiet ∧ s.st.late = [] ∧ s.st.want = none ∧ s.st.pl.toNat ≤ 2 ∧ ({ cause := cMCHK, eval := 0x0101 } : Trap).cause = cMCHK) ∧
    (let s := with1 { user with pl := 1, csr := [(0x804, 16)] }
     s.Quiet ∧ s.st.late = [] ∧ s.st.want = none ∧ 1 ≤ s.st.pl.toNat ∧ s.st.pl.toNat ≤ 2 ∧ bitOf (s.st.cr 0x804).toNat 4 = true
       ∧ ({ cause := cILL, eval := 0 } : Trap).epc = none) ∧
    (let s : State := { with1 user with pk := [(0x800, 1)] }
     s.Quiet ∧ s.st.late = [] ∧ s.st.want = none ∧ s.st.pl = 0 ∧ fsplitBit cTFAULT = some 0 ∧ bitOf (s.pkr 0x800).toNat 0 = true) := by
  decide +kernel

theorem witness_TrapRecordsHoldTheStrand :
    let s := with1 { user with csr := [(0x805, 0x7000)] }
    s.coherent ∧ s.Quiet ∧ s.st.late = [] ∧ s.st.want = none ∧ s.st.pl = 0 ∧ fsplitBit cSYSC = none ∧ isDram (s.st.recordAt 0x805) = true ∧
      s.st.recordAt 0x805 = 0x7000 :=
  ⟨coherent_empty rfl, by decide +kernel⟩

/-- At supervisor and at machine level: a return to user level at the saved `EPC`, one to the record's `RPC`, one to a misaligned address, and one
whose `PPL` is above the level. -/
theorem witness_ReturnsFromTraps :
    let s := fun (m : Bool) (epc stat : Dword) =>
      if m then with1 { user with pl := 2, csr := [(0xC01, epc), (0xC04, stat), (0xC05, 0x7000)] }
      else with1 { user with pl := 1, csr := [(0x801, epc), (0x804, stat), (0x805, 0x7000)] }
    let n := fun (m : Bool) => if m then (0xC04, 0xC01, 0xC05) else (0x804, 0x801, 0x805)
    (∀ m ∈ [false, true], ∀ p ∈ [((0x200 : Nat), (16 : Nat)), (0x200, 48), (0x202, 16), (0x200, 28)],
      let u := s m (BitVec.ofNat 64 p.1) (BitVec.ofNat 64 p.2)
      u.Ready { priv := true } ∧ u.Quiet ∧ u.lines = [] ∧ u.st.late = [] ∧ u.st.pl = (if m then 2 else 1) ∧ u.st.shadow = []
        ∧ isDram (u.st.recordAt (n m).2.2) = true) ∧
    (∀ m ∈ [false, true],
      let stat := fun (v : Dword) => ((s m 0x200 v).st.cr (n m).1).toNat
      fld (stat 16) 2 2 = 0 ∧ bitOf (stat 16) 5 = false ∧ ((s m 0x200 16).st.cr (n m).2.1).toNat % 4 = 0 ∧ bitOf (stat 48) 5 = true
        ∧ (s m 0x200 48).peekLE (0x7000 + 0x50) 8 % 4 = 0 ∧ ((s m 0x202 16).st.cr (n m).2.1).toNat % 4 ≠ 0 ∧ fld (stat 28) 2 2 = 3) :=
  ⟨by decide +kernel, by decide +kernel⟩

/-- Another context of the core may issue; `IDLE` until a time that has come, and until one that has not. -/
theorem witness_YieldAndIdle :
    let s : State := { with1 user with time := 0x1000 }
    s.Ready {} ∧ canIssue { s with strands := [(0, user), (1, user)] } 1 = true ∧ s.Ready { reads := [(.x, 1)] } ∧ s.st.rx 1 ≤ s.time ∧ (with1 user).Ready { reads := [(.x, 1)] }
      ∧ (with1 user).time < (with1 user).st.rx 1 := by
  decide +kernel

/-- `STOP` of the last member of a gang, at user level and by its supervisor; `SPAWN` to a queue that is disabled, that is no device queue, that is full, and that has room. -/
def queue1 (kind tail : Nat) : Queue :=
  { base := 0x500000, logn := 4, kind := kind, pmax := 7, aslo := 0, ashi := 0, ddlo := 0, ddhi := 0, head := 0, tail := tail, taken := false }
def spawner (qs : Tab Queue) : State := { with1 user with queues := qs, pk := [(0x820, 63)] }

theorem witness_StopEndsAndSpawnAppends :
    (∀ pl ∈ [(0 : BitVec 2), 1],
     let u := member { gang2 0 0 with stopped := 2 } 0
     let s := u.setSt { u.st with pl := pl }
     s.Ready {} ∧ s.Quiet ∧ s.st.late = [] ∧ s.st.bankErrs = [] ∧ openTxns s none = false ∧ s.st.linkErrs = [] ∧ s.st.pl = pl
       ∧ (∀ p ∈ s.slots, p.2.owner.map Prod.fst ≠ some s.st.owner) ∧ (gangOf s).isSome = true ∧ fld (s.st.stat 0x804) 2 2 = 0) ∧
    (let info : Info := { reads := [(.x, 1)], dest := some (.x, 3) }
     (∀ s ∈ [spawner [], spawner [(9, queue1 0 0)], spawner [(9, queue1 1 1)], spawner [(9, queue1 1 0)]],
       s.Ready info ∧ s.Quiet ∧ openBefore s s.st s.seqNow = false ∧ (s.st.rx 1).toNat % 64 = 0) ∧
     (∃ l u, xlate (Acc.load.forStrand ((spawner []).begun info)) 0x1000 64 ((spawner []).begun info) = .ok l u ∧ enabledQueue u 9 = none) ∧
     (∃ l u, xlate (Acc.load.forStrand ((spawner [(9, queue1 0 0)]).begun info)) 0x1000 64 ((spawner [(9, queue1 0 0)]).begun info) = .ok l u
       ∧ enabledQueue u 9 = some (queue1 0 0)) ∧
     (∃ l u, xlate (Acc.load.forStrand ((spawner [(9, queue1 1 1)]).begun info)) 0x1000 64 ((spawner [(9, queue1 1 1)]).begun info) = .ok l u
       ∧ (enabledQueue u 9 = some (queue1 1 1) ∧ (physReadFree u 0x500040 8).2 ≠ 1)) ∧
     ∃ l u, xlate (Acc.load.forStrand ((spawner [(9, queue1 1 0)]).begun info)) 0x1000 64 ((spawner [(9, queue1 1 0)]).begun info) = .ok l u
       ∧ (enabledQueue u 9 = some (queue1 1 0) ∧ (physReadFree u 0x500000 8).2 = 0 ∧ isDram 0x500000 = true
         ∧ goesOn (readPieces (Acc.load.forStrand ((spawner []).begun info)).dom (splitPieces l) 0x1000 (physReadFree u 0x500000 8).1)
             (fun r _ => match r with | .ok _ => true | .error _ => false) = true)) :=
  ⟨by decide +kernel, by decide +kernel, meets (by decide +kernel), meets (by decide +kernel), meets (by decide +kernel),
    meets (by decide +kernel)⟩

theorem witness_TranslationsAreInvalidated :
    let s := with1 { user with pl := 1 }
    s.txns = [] ∧ posted1.done = none ∧ (∀ p ∈ s.strands, p.2.loads = [] ∧ p.2.stores = [] ∧ p.2.bankQ = [] ∧ p.2.vq = []) ∧ Tab.wf s.strands = true ∧
      s.preempted = [] ∧ (∀ g ∈ s.gangs, g.2.rest = []) ∧
      s.Ready { reads := [], priv := true } ∧ s.Ready { reads := [(.x, 1)], priv := true } ∧ s.Ready { reads := [(.x, 0), (.x, 1)], priv := true } ∧
      (let u : State := { s with txns := [posted1] }
       posted1 ∈ u.txns ∧ txnSpace u posted1 = some ((s.st.rx 0).toNat % 65536) ∧
         ∀ e ∈ u.tlb, e.asid = 0 ∧ e.base ≤ 0x1000 ∧ (s.st.rx 1).toNat % 2 ^ 55 = 0x1000 ∧ 0x1000 < e.base + e.size) := by
  decide +kernel

theorem witness_PrivilegeIsChecked :
    let s := with1 user
    s.st.pl = 0 ∧ prefixOk s.st.latch { reads := [], priv := true } = true ∧ prefixOk s.st.latch { reads := [(.x, 1), (.x, 2)], priv := true } = true ∧
    s.Ready { reads := [(.x, 1)], dest := some (.x, 3) } ∧ s.Ready { reads := [], dest := some (.x, 3) } ∧
    (0xC00 ≤ (0xC01 : BitVec 12).toNat ∧ s.st.pl.toNat < 2) ∧ (0x800 ≤ (0x804 : BitVec 12).toNat ∧ s.st.pl = 0) ∧
    ((0x47F : BitVec 12).toNat < 0x800 ∧ crMap (0x47F : BitVec 12).toNat = none) ∧
    (let m := with1 { user with pl := 2 }
     m.Ready { reads := [], dest := some (.x, 3) } ∧ 2 ≤ m.st.pl.toNat ∧ crMap (0xC00 : BitVec 12).toNat = none) := by
  decide +kernel

theorem witness_ControlRegistersAreReadAndWritten :
    let s := with1 { user with pl := 2 }
    s.Quiet ∧ s.ddrldBusy = none ∧ s.Ready { reads := [], dest := some (.x, 3) } ∧ s.Ready { reads := [(.x, 1)], dest := some (.x, 3) } ∧
      crCheck s.st.pl.toNat 0x831 = none ∧ crCheck s.st.pl.toNat 0x104 = none ∧ crCheck s.st.pl.toNat 0xC11 = none ∧ crCheck 0 0 = none := by
  decide +kernel


theorem witness_RegistersReadBackTheirFields : (0 : Nat) < 2 ^ 64 ∧ 2 ^ 64 - 1 < 2 ^ 64 := by decide

/-- A strand with eight lanes, whose vector work is left to its events. -/
def vector (st : Strand) : State := { with1 { st with lanes := 8 } with defer := true, grans := [(0, .held 1)] }

theorem witness_VectorInstructionsEnterTheQueue :
    let s := vector user
    let sup := vector { user with pl := 1 }
    s.defer = true ∧ s.st.canCommit true = true ∧ sup.st.canCommit false = true ∧ (with1 user).st.canCommit false = true ∧
      s.Ready { reads := [(.v, 1), (.v, 2)], dest := some (.v, 3), mask := some 1 } (wordOf (.vaddInt 3 1 2 1 2)) ∧
      s.Ready { reads := [(.m, 1)], dest := some (.x, 3), mask := some 0 } (wordOf (.vpopc 3 1 0)) ∧
      s.Ready { reads := [(.x, 1), (.x, 2)], dest := some (.v, 3), mask := some 0 } (wordOf (.vins 3 1 2 0 2)) ∧
      s.Ready {} (wordOf (.vhclr 0)) ∧ sup.Ready { reads := [(.x, 1), (.x, 2)], priv := true } (wordOf (.vsave 1 2)) ∧
      (vector { user with latch := 0x80870000 }).Ready { reads := [(.v, 1), (.v, 2)], dest := some (.v, 3), mask := some 0 }
        (wordOf (.vaddInt 3 1 2 0 2)) := by
  decide +kernel

theorem witness_MemoryAndMatrixInstructionsEnterTheQueue :
    let s := vector user
    s.defer = true ∧ s.st.canCommit true = true ∧
      s.Ready { reads := [(.x, 1)], dest := some (.v, 3), back := some 1 } (wordOf (.vldz 3 1 0 0 0)) ∧
      s.Ready { reads := [(.v, 3), (.x, 1), (.x, 2)], mask := some 1 } (wordOf (.vstStrided 3 1 2 1 0 0 0)) ∧
      s.Ready { reads := [(.x, 1)], dest := some (.x, 3) } (wordOf (.urd 3 1 2)) := by
  decide +kernel

/-- A strand with lanes; one that asks for no lanes, one that asks for 3 of a cluster whose granules are free; and `VREL` without lanes and with them. -/
theorem witness_LengthsAndLanesAreSet :
    let s := with1 user
    let v := vector user
    (v.Ready (infoDA 3 1) (wordOf (.setvl 3 1 2)) ∧ v.Ready (infoDA 3 1) (wordOf (.settl 3 1)) ∧ v.Ready (infoDA 3 1) (wordOf (.vgrant 3 1)) ∧
      v.st.lanes ≠ 0 ∧ v.defer = true ∧ v.st.canCommit false = true) ∧
    (s.Ready (infoDA 3 0) (wordOf (.vgrant 3 0)) ∧ s.st.lanes = 0 ∧ (s.st.rx 0).toNat = 0) ∧
    (s.Ready (infoDA 3 2) (wordOf (.vgrant 3 2)) ∧ (s.st.rx 2).toNat ≠ 0 ∧ s.st.want = none ∧ s.st.vq = [] ∧ waiters s 0 = []
      ∧ min 64 ((3 + 7) / 8 * 8) / 8 ≤ (grantable s 0).length) ∧
    s.Ready {} (wordOf .vrel) ∧ v.Ready {} (wordOf .vrel) := by
  decide +kernel

/-- An entry of a vector queue, as its instruction's commit left it. -/
def entry (w : Word) (p : Nat) : VEntry :=
  { addr := 0x100, word := w, lent := 0, p := p, vl := 4, op1 := 0, op2 := 0, tl := 0, vstart := 0, fixed := false, flags := 0, finished := false,
    claim := none, lw := none, marker := none, seq := 0 }

/-- A full vector queue, a full read queue, an older entry that sets its count and one that sets `RM`; and a strand without lanes. -/
theorem witness_VectorInstructionsWaitOrTrap :
    let info : Info := { reads := [(.v, 1), (.v, 2)], dest := some (.v, 3), mask := some 0 }
    let popc : Info := { reads := [(.m, 1)], dest := some (.x, 3), mask := some 0 }
    let fill := fun (l : List VEntry) => vector { user with vq := l }
    let add := wordOf (.vaddInt 3 1 2 0 2)
    ((fill (List.replicate 32 (entry 0 0))).Ready info add ∧ 32 ≤ (fill (List.replicate 32 (entry 0 0))).st.vq.length) ∧
    (let s := vector { user with readQ := List.replicate 8 { dst := 9, src := 0, cpy := 0, cv := false, val := none } }
     s.Ready popc (wordOf (.vpopc 3 1 0)) ∧ takesRead s.st.latch popc = true ∧ 8 ≤ s.st.readQ.length) ∧
    (∀ e ∈ [entry (BitVec.ofNat 32 (wordOf (.vlds 3 0))) 0, entry (BitVec.ofNat 32 (wordOf (.setrm 3 1))) 0],
      (fill [e]).Ready info add ∧ e ∈ (fill [e]).st.vq ∧ (e.countOpen = true ∨ e.blocks = true)) ∧
    (∀ i ∈ [Instr.setvl 3 1 2, .settl 3 1], (with1 user).Ready (infoDA 3 1) (wordOf i) ∧ (with1 user).st.lanes = 0) ∧
    (let s := fill (List.replicate 32 (entry 0 0))
     (∀ i ∈ [Instr.setvl 3 1 2, .settl 3 1, .vgrant 3 1], s.Ready (infoDA 3 1) (wordOf i)) ∧ s.Ready {} (wordOf .vrel) ∧ s.st.lanes ≠ 0) ∧
    (let e := entry 0b100001_00011_00001_00010_000_0010_0000 0
     let b := { with1 { user with vq := [e] } with cur := 0 }
     b.st.vq = e :: [] ∧ e.finished = false ∧ decode e.word = .ok (.vaddInt 3 1 2 0 2) ∧ (vopOf e (.vaddInt 3 1 2 0 2)).isSome = true
       ∧ b.st.lanes = 0) := by
  refine ⟨by decide +kernel, by decide +kernel, by decide +kernel, by decide +kernel, by decide +kernel, rfl, rfl, rfl, rfl, rfl⟩

/-- `vadd.i32 v3, v1, v2`: its first element, and its last. -/
theorem witness_IntegerElementsAreComputed (p : Nat) (hp : p = 0 ∨ p = 3) :
    let e := entry 0b100001_00011_00001_00010_000_0010_0000 p
    let s := vector { user with vq := [e] }
    (s.strandAt 0).vq = [e] ∧ e.finished = false ∧ e.flags % 64 = 0 ∧ (s.strandAt 0).lanes ≠ 0 ∧ (s.strandAt 0).lanes ≤ 64 ∧
      e.p < min e.vl ((s.strandAt 0).lanes * 256 / 4) ∧ (∀ g ∈ s.granulesOf 0 (s.strandAt 0).owner, ∃ o, g.2 = .held o) ∧
      decode e.word = .ok (.vaddInt 3 1 2 0 2) := by
  have held : ∀ g ∈ ([(0, .held 1)] : List (Nat × Gran)), ∃ o, g.2 = .held o := by simp
  rcases hp with rfl | rfl <;>
    exact ⟨rfl, rfl, rfl, by decide +kernel, by decide +kernel, by decide +kernel, held, rfl⟩

/-- The word decodes to the instruction. -/
def decodesTo (w : Word) (i : Instr) : Bool := match decode w with | .ok j => j == i | .error _ => false

/-- A comparison and a mask operation, a sum of zeros and of other finite values, a slide, and a count, in front of the queue. -/
theorem witness_VectorElementsAreComputed :
    (∀ i ∈ [Instr.vcmpEq 3 1 2 1 2, .vcmpLe 3 1 2 1 2, .mand 3 1 2 1, .mclr 3 1, .vaddFp 3 1 2 1 10, .vmulFp 3 1 2 1 10, .vslideup 3 1 2 1 2,
        .vexpand 3 1 1 2, .vpopc 3 1 1, .vfirst 3 1 1, .vmovx 3 1 2 2],
      let e := entry (BitVec.ofNat 32 (wordOf i)) 0
      let s := vector ({ user with vq := [e] }.setVelem 1 4 0 0x3F800000)
      (s.strandAt 0).vq = [e] ∧ e.finished = false ∧ e.flags % 64 = 0 ∧ (s.strandAt 0).lanes ≠ 0 ∧ (s.strandAt 0).lanes ≤ 64 ∧
        e.p < min e.vl ((s.strandAt 0).lanes * 256 / 4) ∧ e.vl ≤ 16384 ∧ min e.vl ((s.strandAt 0).lanes * 256 / 4) ≤ 16384 ∧
        (s.granulesOf 0 (s.strandAt 0).owner).all (fun g => match g.2 with | .held _ => true | _ => false) = true ∧ e.p = 0 ∧ s.defer = true ∧
        decodesTo e.word i = true ∧ latchV e.lent = false ∧ (s.strandAt 0).trapEnable = 0 ∧ ∀ r, r < 3 → ∀ k, k < 4 →
          (match decodeF (fmtOf 10) ((s.strandAt 0).velem r 4 k) with | .fin _ _ _ => true | _ => false) = true) ∧
    isFloat 10 = true ∧ isFloat 2 = false := by
  decide +kernel

/-- A hold register that an ordered sum of `i32` has begun. -/
def sumHold (ord : Nat) : Hold := (((0 : Hold).put 0 1 ord).put 1 1 2).setSlot 0 (some 5)

/-- A strand of a gang with a tap plan of one entry, whose probe's threshold is the value given; tiles that are exact sums; a valid descriptor of a ring with
one uniform, and one live row. -/
def units (threshold : Nat) (e : VEntry) : State :=
  { vector { user with
      gang := some 4, vq := [e], csr := [(0x200, 5), (0x201, 0x0001000100010001), (0x3C0, 1), (0x401, 0x1001), (0x402, 1)] } with
    gangs := [(4, { gang2 0 0 with tapPlan := some {
      word := 0, plan := 0x23000, next := 0x23000, img := 0x10000, dim := 1, ptype := 10, stype := 10, an := 0, proff := 0, thoff := 0, stoff := 0 } })],
    tlb := [page, { page with unit := 80 }, { page with unit := 144 }, { page with base := 0x10000, pa := 0x30000, mt := 2 }],
    mem := [(0x21000, (0x2000 + 4 * 2 ^ 64 + 4 * 2 ^ 72 + 2 ^ 128, 64)), (0x23006, (1, 2)), (0x23080, (2 ^ 24, 16)), (0x30000, (threshold, 16))].foldl
      (fun m w => Mem.writeLE m w.1 w.2.2 w.2.1) [] }

/-- Reductions and scans that continue a hold register; accesses of a page; operations on an exact tile, with an integer in it; and a uniform that is read, a row that
is not live, and a tap plan whose probe is crossed and is not crossed. -/
theorem witness_EntriesActOnTheirUnits :
    let word := fun (i : Instr) => BitVec.ofNat 32 (wordOf i)
    (∀ p ∈ [(Instr.vredo 1 0 0 2, 1), (.vredmax 1 0 0 2, 3), (.vredmin 1 0 0 2, 4), (.vredand 1 0 0 2, 5), (.vredor 1 0 0 2, 6), (.vredxor 1 0 0 2, 7),
        (.vscan 3 1 0 0 2, 8), (.vscanx 3 1 0 0 2, 9)],
      let e := entry (word p.1) 0
      let s := vector { user with vq := [e], h := [(0, sumHold p.2)] }
      let hold := (s.strandAt 0).hold 0
      (s.strandAt 0).vq = [e] ∧ e.finished = false ∧ e.flags % 64 = 0 ∧ (s.strandAt 0).lanes ≠ 0 ∧ (s.strandAt 0).lanes ≤ 64
        ∧ e.p < min e.vl ((s.strandAt 0).lanes * 256 / 4) ∧ decodesTo e.word p.1 = true ∧ hold.ord = p.2 ∧ hold.type = 2
        ∧ hold.next = ((s.strandAt 0).ebase + e.p) % 2 ^ 64 ∧ hold.slot 0 = some 5
        ∧ (s.granulesOf 0 (s.strandAt 0).owner).all (fun g => match g.2 with | .held _ => true | _ => false) = true) ∧
    (let e := fun (i : Instr) => { entry (word i) 0 with op1 := 0x1000, op2 := 8, lw := some 3 }
     let s : State := { vector { user with vq := [e (.vldUnit 3 1 0 0 0 0 3)] } with tlb := [{ page with unit := 144 }] }
     (∀ i ∈ [Instr.vldUnit 3 1 0 0 0 0 3, .vldStrided 3 1 2 0 0 0 0 3, .vldIndexed 3 1 2 0 0 0 0 3, .vstUnit 3 1 0 0 0 3, .vstStrided 3 1 2 0 0 0 3,
         .vstIndexed 3 1 2 0 0 0 3, .vamoAdd 3 1 2 0 0 0, .vamoMax 3 1 2 0 0 0, .vamoMin 3 1 2 0 0 0], ((vopOf (e i) i).bind VOp.mem).isSome = true) ∧
     (∃ l v, vXlate (vAcc .vload false s) 8 0x1000 8 0 0 s = .ok l v ∧
       (l.length = 1 ∧ v.st.loads = [] ∧ v.st.stores = [] ∧ (∀ k ∈ v.txns, k.late = none) ∧ ∀ x ∈ l, x.2 = 8 ∧ x.1.place = .home ∧ isDram x.1.pa = true
         ∧ v.goodAt .home x.1.pa = true ∧ x.1.pa % 8 = 0)) ∧
     (∃ l v, vXlate (vAcc .vstore false s) 8 0x1000 8 0 0 s = .ok l v ∧ l.length = 1) ∧
     ∃ l v, vXlate (vAcc .vamo false s) 8 0x1000 8 0 0 s = .ok l v ∧ l.length = 1) ∧
    (∀ i ∈ [Instr.opacc 1 1 2 0 2, .opsub 1 1 2 0 2, .mputr 1 3 2 0 2, .mextr 1 3 2 0 2 1, .mzero 1],
      let e := entry (word i) 0
      let s := units 0 e
      s.st.vq = [e] ∧ e.mf = 0 ∧ s.st.mvl ≤ 64 ∧ s.st.mvl ≠ 0 ∧ s.st.tileType 1 = 1 ∧ (vopOf e i).isSome = true ∧ s.st.mbit 0 3 = true ∧
        (let v := s.setSt (s.st.setTile 1 0 3 { val := 2 ^ 60 * (-5), tag := 0 })
         v.st.vq = [e] ∧ v.st.tile 1 0 3 = { val := 2 ^ 60 * (-5), tag := 0 })) ∧
    (∀ p ∈ [((1 : Nat), true), (0, false)],
      let e := fun (i : Instr) => { entry (word i) 0 with tl := p.1 }
      let s := fun (i : Instr) => units 0 (e i)
      (∀ i ∈ [Instr.urd 3 1 2, .vurd 3 0 2, .tapend 1], (s i).st.vq = [e i] ∧ (s i).defer = true ∧ (vopOf (e i) i).isSome = true ∧ (e i).mf = 0
        ∧ (s i).st.live (e i).tl 0 = p.2 ∧ rowAct (e i) (s i).st 0 = p.2)) ∧
    (∃ n u, uniformRead 0 0 (units 0 { entry (word (.urd 3 1 2)) 0 with tl := 1 }) = .ok n u ∧ n = 0) ∧
    ∀ w, w < 2 →
      let s := units w { entry (word (.tapend 1)) 0 with tl := 1 }
      s.st.liveRows 1 = [0] ∧ (boundPlan s).isSome = true ∧ ∃ l u, badRows (boundPlan s) 0 0 [0] s = .ok l u ∧
        (l = [] ∧ ∀ tb ∈ boundPlan s, goesOn (crossRows tb [0] u) (fun r _ => r.map (fun x => x.2.2) == [1 - w]) = true) := by
  refine ⟨by decide +kernel, ⟨by decide +kernel, meets (by decide +kernel), meets (by decide +kernel), meets (by decide +kernel)⟩, by decide +kernel,
    by decide +kernel, meets (by decide +kernel), ?_⟩
  intro w hw
  obtain rfl | rfl : w = 0 ∨ w = 1 := by omega
  all_goals exact ⟨by decide +kernel, by decide +kernel, meets (by decide +kernel)⟩

theorem witness_VectorEntriesRetire :
    (let e := { entry 0 4 with finished := true }
     ((vector { user with vq := [e] }).strandAt 0).vq = e :: [] ∧ e.finished = true ∧ e.flags % 64 = 0 ∧ e.claim = none) ∧
    (let o : ReadEntry := { dst := 4, src := 0, cpy := 0, cv := false, val := none }
     let e : ReadEntry := { dst := 3, src := 1, cpy := 5, cv := true, val := some 9 }
     ((vector { user with readQ := [o, e] }).strandAt 0).readQ = [o] ++ e :: [] ∧ (∀ q ∈ [o], q.val = none) ∧ e.val = some 9) := by
  decide +kernel

/-- Region `g0` is valid, one row of one bank at address 0x20000; `g1` is not valid. -/
def banks (st : Strand) : State :=
  { with1 { st with csr := [(0x280, 0x400), (0x281, 0x8000000000000000), (0x290, 1)], x := [(1, 0x400), (2, 0x800), (3, 1)] } with
    defer := true, tlb := [{ page with mt := 1 }] }

/-- Entries that come in, one that names an invalid region, and an `LKX` of a strand with lanes and of one without. -/
theorem witness_BankInstructionsEnterTheirQueue :
    let s := banks user
    s.st.bankQ.length < 16 ∧ s.defer = true ∧
    (s.Ready {} (wordOf (.lkz 0)) ∧ ∃ e u, bankEntryOf (wordOf (.lkz 0)) (infoLkz 0) (s.begun {}) = .ok e u ∧ e.tag = 0) ∧
    (let info : Info := { reads := [(.x, 1), (.x, 1)] }
     s.Ready info (wordOf (.bcopy 1 1)) ∧
       ∃ e u, bankEntryOf (wordOf (.bcopy 1 1)) (infoBcopy 1 1) (s.begun info) = .ok e u ∧ e.nblen = 1) ∧
    (s.Ready {} (wordOf (.lkz 1)) ∧ (infoLkz 1).region = some 1 ∧ bitOf (s.st.cr (0x281 + 2 * 1)).toNat 63 = false) ∧
    (let info : Info := { reads := [(.x, 1)] }
     let word := wordOf (.lkx 0 1 3 2)
     let v : State := { banks user with strands := [(0, { (banks user).st with lanes := 8, x := [(1, 0)] })], grans := [(0, .held 1)] }
     (∀ u ∈ [v, banks user], u.st.bankQ.length < 16 ∧ u.defer = true ∧ u.Ready info word) ∧ (banks user).st.lanes = 0 ∧
     v.st.lanes ≠ 0 ∧ v.st.canCommit false = true ∧ (∀ q ∈ v.granulesOf 0 v.st.owner, ∃ w, q.2 = .held w) ∧
     ∃ e u, bankEntryOf word { regs := [1], region := some 0, xa := 1 } (v.begun info) = .ok e u ∧ e.tag = 0) := by
  have held : ∀ g ∈ ([(0, .held 1)] : List (Nat × Gran)), ∃ o, g.2 = .held o := by simp
  exact ⟨by decide +kernel, rfl, ⟨by decide +kernel, meets (by decide +kernel)⟩, ⟨by decide +kernel, meets (by decide +kernel)⟩, by decide +kernel,
    by decide +kernel, rfl, by decide +kernel, by decide +kernel, held, meets (by decide +kernel)⟩

/-- A shape of zero, one with a reserved bit, a misaligned address, and a region that fits: the smallest, and the largest number of rows. -/
theorem witness_RegionsAreSet :
    let info : Info := { reads := [(.x, 1), (.x, 2)] }
    let s := fun (a b : Dword) => { banks user with strands := [(0, { user with x := [(1, a), (2, b)] })] }
    (∀ u ∈ [s 0x400 0, s 0x400 8, s 0x401 0x100000, s 0x400 0x100000],
      u.st.bankQ.length < 16 ∧ u.defer = true ∧ u.Ready info (wordOf (.breg 0 1 2))) ∧
    bitOf (8 : Dword).toNat 3 = true ∧ (0x401 : Dword).toNat % 1024 ≠ 0 ∧
    (let xb := (0x100000 : Dword).toNat
     xb ≠ 0 ∧ ¬(bitOf xb 3 = true ∨ fld xb 13 3 ≠ 0 ∨ fld xb 18 2 ≠ 0 ∨ bitOf xb 23 = true ∨ fld xb 56 8 ≠ 0) ∧
     ∃ x u, xlate1 (bankAcc true false ((s 0x400 0x100000).begun info)) 0x400 ((s 0x400 0x100000).begun info) = .ok x u ∧
       (fld x.pa 36 3 + (fld xb 0 3 + 1) ≤ 8 ∧ fld x.pa 15 4 + (fld xb 4 4 + 1) ≤ 16 ∧ fld x.pa 10 5 + (fld xb 8 5 + 1) ≤ 32 ∧
         fld x.pa 19 17 + (fld xb 32 8 + 1) * (fld xb 40 16 + 1) ≤ 131072)) :=
  ⟨by decide +kernel, by decide +kernel, by decide +kernel, by decide +kernel, by decide +kernel, meets (by decide +kernel)⟩

theorem witness_BankRecordsAreDelivered :
    let r : BankErr := { tag := 1, pc := 0x100, fpx := false, low := 0, banks := 1, flags := 0, merged := false, names := [0] }
    let ready := fun (s : State) => s.Quiet ∧ s.st.bsync = none ∧ s.Ready {} (wordOf .bsync)
    (ready (with1 user) ∧ (with1 user).st.bankErrs = []) ∧
    (∀ e ∈ [r, { r with fpx := true }], let s := with1 { user with bankErrs := [e] }
      ready s ∧ s.st.bankErrs = e :: []) := by
  decide +kernel

/-- Entries of the bank queue: one complete at commit, an `LKZ` and a `BCOPY` of one row. -/
def bankEntry (w : Word) (early : Bool) (ops : List (List (Nat × Nat))) : BankEntry :=
  { tag := 0, pc := 0x100, word := w, op1 := 0, op2 := 0, op3 := 0, gb := 0x400, gs := 0x8000000000000000, nblen := 1, nbrs := 1, rm := 0,
    pa0 := 0, ops := ops, early := early, complete := early, seq := 5 }

/-- The region of the `LKZ` lies in one stack, and in two; a row for each of `BCOPY`, `BBIT`, `BFILL`, `BAXPY` and `BDOT`, whose products add to a sum above zero
and to zero. -/
theorem witness_BankEntriesComplete :
    let at_ := fun (e : BankEntry) => with1 { user with bankQ := [e] }
    let of := fun (e : BankEntry) => ((at_ e).strandAt 0).bankQ = e :: []
    let w := fun (i : Instr) => BitVec.ofNat 32 (wordOf i)
    let works := fun (e : BankEntry) => e.complete = false ∧ e.parts = [] ∧ e.err = [] ∧ e.fl = 0 ∧ 0 ∈ e.inStacks
      ∧ earlierDone (at_ e) 0 e.seq = true
      ∧ heldBefore (at_ e) ((at_ e).strandAt 0).owner 0 (e.holds 0) (e.codes.filter (fun d => d / 256 == 0)) 0 = false
    let breg := bankEntry (w (.breg 0 1 2)) true []
    let lkz := bankEntry (w (.lkz 0)) false []
    let two := { lkz with gs := 0x8000000000000001 }
    let copy := bankEntry (w (.bcopy 1 2)) false [[(0x400, 1024)], [(0x800, 1024)]]
    (of breg ∧ breg.complete = true) ∧
    (of lkz ∧ works lkz ∧ encode (.lkz 0) = some lkz.word ∧ lkz.ops = [] ∧ lkz.inStacks = [0]) ∧
    (of two ∧ works two ∧ two.inStacks ≠ [0]) ∧
    (of copy ∧ works copy ∧ encode (.bcopy 1 2) = some copy.word ∧ copy.nblen = 1 ∧ (∀ i, i < 32 → Tab.find (at_ copy).wordErr (0x400 / 32 + i) = none)
      ∧ ((at_ copy).bank (bankOf 0x400)).held = none ∧ ((at_ copy).bank (bankOf 0x800)).held = none) ∧
    (∀ k, k < 5 →
      let o := BitVec.ofNat 4 k
      let bit := bankEntry (w (.bbit 1 2 3 o)) false (if o = 4 then [[(0x400, 1024)], [(0x800, 1024)]] else [[(0x400, 1024)], [(0x1400, 1024)], [(0x800, 1024)]])
      of bit ∧ works bit ∧ encode (.bbit 1 2 3 o) = some bit.word ∧ bit.nblen = 1) ∧
    (let fill := bankEntry (w (.bfill 1 2)) false [[(0x400, 2)]]
     of fill ∧ works fill ∧ encode (.bfill 1 2) = some fill.word ∧ fill.nblen = 1) ∧
    (let axpy := bankEntry (w (.baxpy 1 2 3)) false [[(0x400, 2)], [(0x1400, 2)]]
     of axpy ∧ works axpy ∧ encode (.baxpy 1 2 3) = some axpy.word ∧ fld axpy.rm 8 6 = 0) ∧
    (let dot := bankEntry (w (.bdot 1 2 3)) false [[(0x400, 2)], [(0x1400, 2)], [(0x2004, 4)]]
     of dot ∧ works dot ∧ encode (.bdot 1 2 3) = some dot.word ∧ fld dot.rm 8 6 = 0 ∧ dot.dot = {}) ∧
    decodeF fmtF16 (Mem.readLE [] 0x400 2) = .fin false 0 (-24) ∧ decodeF fmtF16 0x3C00 = .fin false 0x400 (-10) ∧
    (∀ i, i < 32 → Tab.find (with1 user).wordErr (0x400 / 32 + i) = none) :=
  ⟨by decide +kernel, by decide +kernel, by decide +kernel, by decide +kernel, by decide +kernel, by decide +kernel, by decide +kernel, by decide +kernel,
    by decide +kernel, by decide +kernel, by decide +kernel⟩

/-- A region of one stack with two banks, a codebook, tables and accumulators; and the activations that `TBLD` and `LKAB` have read. -/
theorem witness_PassesBuildAndAddTheirTables :
    let gs : Nat := 2 ^ 63 + 2 ^ 8 + 2 ^ 16 + 2 ^ 20
    let at_ := fun (e : BankEntry) => with1 { user with bankQ := [e] }
    let of := fun (i : Instr) (op2 : Nat) (data : Option (Nat × List (Nat × Nat))) (ops : List (List (Nat × Nat))) =>
      { bankEntry (BitVec.ofNat 32 (wordOf i)) false ops with gs := BitVec.ofNat 64 gs, op2 := BitVec.ofNat 64 op2, data := data, pa0 := 0x4000000 }
    ∀ p ∈ [(Instr.cbld 0 1 5, of (.cbld 0 1 5) 0 none [[(0x400, 64)]]), (.tbld 0 1 2 5 0, of (.tbld 0 1 2 5 0) 0x10012 (some (7, [])) []),
        (.lka 0 2 2, of (.lka 0 2 2) 0 none []), (.lkab 0 1 2 2 0, of (.lkab 0 1 2 2 0) 0 (some (7, [])) [])],
      let e := p.2
      let s := at_ e
      (s.strandAt 0).bankQ = [e] ∧ encode p.1 = some e.word ∧ e.complete = false ∧ e.parts = [] ∧ e.err = [] ∧ e.fl = 0 ∧ fld e.rm 8 6 = 0 ∧
        e.inStacks = [0] ∧ earlierDone s 0 e.seq = true ∧
        heldBefore s (s.strandAt 0).owner 0 (e.holds 0) (e.codes.filter (fun d => d / 256 == 0)) (s.arrival 0) = false ∧
        (∀ b ∈ e.banksIn 0, (s.bank b.1).held = none ∧ Tab.wf (s.bank b.1).acc = true ∧ Tab.wf (s.bank b.1).poison = true) ∧ e.banksIn 0 ≠ [] ∧
        ((e.banksIn 0).map (fun b => b.1)).Nodup ∧ e.pa0 % 1024 = 0 ∧ fld e.op2.toNat 32 16 = 0 ∧ s.wordErr = [] ∧
        (s.bank (bankOf 0x400)).held = none := by
  decide +kernel

/-- A read stream and a write stream of 64-bit integers, bound to stream registers 0 and 1 of the strand. -/
def reading : Slot :=
  { owner := some (1, 0), draining := false, write := false, xf := 0, mfmt := 0, etype := 3, strip := 4, len := 4, src := 0x1000, dst := 0,
    runb := 0, rnd := 0, lim := 0, ptr := 0, asid := 0, pl := 0, lspart := 0, ddom := 0, up := none, down := none,
    half0 := .full 0 7, half1 := .empty, strips := 1, claimed := 0, tickets := 0, pos := 0, ops := [], fed := 32, inbuf := [],
    written := 32, fl := 0, fault := none }
def writing : Slot :=
  { reading with owner := some (1, 1), write := true, src := 0, dst := 0x2000, half0 := .empty, strips := 0, fed := 0, written := 0 }
def streams (l : Tab Slot) (m : Mem) : State := { with1 user with slots := l, mem := m, defer := true, tlb := [page, { page with unit := 1168 }] }

/-- A declaration record that follows the map (a read stream of four 64-bit integers), and one that does not. -/
def record : Mem := Mem.writeLE [] 0x21000 64 (1 + 3 * 2 ^ 24 + 4 * 2 ^ 32 + 4 * 2 ^ 64 + 0x1000 * 2 ^ 128)

theorem witness_StreamsAreDeclaredLinkedAndCancelled :
    let info : Info := { reads := [(.x, 1)] }
    let chain : Slot := { reading with owner := some (1, 2), src := 0, strips := 0, half0 := .empty, fed := 0, written := 0 }
    let wr := { writing with dst := 0 }
    let wr2 := { writing with owner := some (1, 2) }
    let s := fun (l : Tab Slot) (m : Mem) => streams l m
    let t := s [(0, reading), (1, wr), (2, chain)] []
    let t2 := s [(0, wr), (1, wr2)] []
    let cancels := fun (u : State) (key : Nat) => chainAll u (((chainUp u 4 key).getLast?).getD key) = chainAll u key
      ∧ (∀ q ∈ chainAll u key, ((Tab.find u.slots q).map (fun o => (o.write, o.ops))) = some ((Tab.get u.slots key).write, []))
    (∀ u ∈ [s [] record, s [] [], s [(0, reading)] [], t, t2],
      u.Quiet ∧ openBefore u u.st u.seqNow = false ∧ u.defer = true ∧ Tab.wf u.slots = true ∧ u.Ready info (wordOf (.cpdecl 1 0))
        ∧ u.Ready {} (wordOf (.cplink 0 1)) ∧ u.Ready {} (wordOf (.cplink 0 2)) ∧ u.Ready {} (wordOf (.cplink 1 2))
        ∧ u.Ready {} (wordOf (.cpcancel 0)) ∧ u.Ready {} (wordOf (.cpcancel 1))) ∧
    ((s [(0, reading)] []).slotOf 0 1 0 ≠ none ∧ (s [] record).slotOf 0 1 0 = none ∧ freeSlot (s [] record) 0 = some 0) ∧
    (∃ l u, xlate (Acc.copyRead.forStrand ((s [] record).begun info)) 0x1000 64 ((s [] record).begun info) = .ok l u ∧
      goesOn (readPieces 0 (splitPieces l) 0x1000 u) (fun r _ => match r with | .ok v => badRecord v == none | .error _ => false) = true) ∧
    (∃ l u, xlate (Acc.copyRead.forStrand ((s [] []).begun info)) 0x1000 64 ((s [] []).begun info) = .ok l u ∧
      goesOn (readPieces 0 (splitPieces l) 0x1000 u) (fun r _ => match r with | .ok v => badRecord v == some 0 | .error _ => false) = true) ∧
    (t.slotOf 0 1 0 = some (0, reading) ∧ t.slotOf 0 1 1 = some (1, wr) ∧ t.slotOf 0 1 2 = some (2, chain) ∧ linkRefused t 0 1 = true
       ∧ linkRefused t 0 2 = false) ∧
    (t2.slotOf 0 1 1 = some (0, wr) ∧ t2.slotOf 0 1 2 = some (1, wr2) ∧ linkRefused t2 0 1 = false ∧ wr.write = true) ∧
    cancels t 0 ∧ reading.write = false ∧ chainOpen t (chainAll t 0) = false ∧ cancels t 1 :=
  ⟨by decide +kernel, by decide +kernel, meets (by decide +kernel), meets (by decide +kernel), by decide +kernel, by decide +kernel,
    by decide +kernel⟩

theorem witness_StreamsAreReadAndWritten :
    let s := fun (p : Slot) => streams [(0, p)] []
    let op : CopyOp := { ticket := 4096, src := 0x1000, n := 1, released := true, level := 0, mark := 8 }
    let spent := { reading with claimed := 4 }
    let failed := { writing with fault := some { reason := 1, w1 := 0x2000, va := 0, w3 := 0 } }
    (∀ p ∈ [reading, writing, spent, failed, { writing with ops := [op] }, { writing with len := 2 }],
      (s p).defer = true ∧ Tab.wf (s p).slots = true ∧ (s p).st.vq = [] ∧ (s p).Ready (infoDAB 3 1 2) (wordOf (.cpstore 3 1 2 1))
        ∧ (s p).Ready { reads := [(.x, 1)] } (wordOf (.cpwaitR 1 1)) ∧ (s p).Ready { reads := [(.x, 1)] } (wordOf (.cpwaitV 1 3 1))
        ∧ (s p).Ready { dest := some (.x, 3) } (wordOf (.srd 3 0)) ∧ (s p).Ready { dest := some (.x, 3) } (wordOf (.srd 3 5))) ∧
    ((s writing).slotOf 0 1 1 = some (0, writing) ∧ writing.write = true ∧ writing.up = none ∧ writing.pos + 3 ≤ writing.len
      ∧ ((s writing).st.rx 1).toNat % writing.w = 0 ∧ ({ writing with len := 2 } : Slot).len < writing.pos + 3) ∧
    (writing.fault = none ∧ (∀ f ∈ failed.fault, 0x1000 < f.w1) ∧ (∀ o ∈ [op], o.ticket ≤ 0x1000 → o.released = true)
      ∧ ∀ o, ¬(o ∈ writing.ops ∧ o.ticket ≤ 0x1000)) ∧
    ((s reading).slotOf 0 1 0 = some (0, reading) ∧ reading.write = false ∧ reading.down = none
      ∧ reading.claimed < min (reading.strips * reading.strip) reading.len ∧ reading.half (reading.claimed / reading.strip) = .full 0 7) ∧
    ((s spent).slotOf 0 1 0 = some (0, spent) ∧ spent.claimed = spent.len) ∧
    ((s reading).slotOf 0 1 5 = none ∧ reading.write ≠ true ∧ writing.write ≠ false) := by
  refine ⟨by decide +kernel, by decide +kernel, ⟨rfl, by decide +kernel, by decide +kernel, ?_⟩, by decide +kernel, by decide +kernel,
    by decide +kernel⟩
  rintro o ⟨h, -⟩
  exact nomatch h


/-- Two registers, for an address and a length. -/
def lengths (a n : Dword) (mt : Nat) : State :=
  { with1 { user with x := [(1, a), (2, n)] } with tlb := [{ page with unit := 80, mt := mt }] }

/-- A line of stack DRAM in state U, clean. -/
def fresh : CLine := { data := 0, st := 1, dirty := false, dom := 0, ent := 0, wt := 0, ue := 0, used := 0 }

/-- No byte; 16 bytes of a WB line; a BR line; and a line of another package. -/
theorem witness_CacheInstructionsActOnTheirLines :
    let info : Info := { reads := [(.x, 1), (.x, 2)] }
    let far := { lengths 0x100 16 0 with tlb := [{ page with unit := 80, home := 3, glob := true }] }
    (∀ s ∈ [lengths 0x100 0 0, lengths 0x100 16 0, lengths 0x100 16 1, far], s.Ready info (wordOf (.cflush 1 2 0)) ∧ s.Quiet) ∧
    (∀ w ∈ [Acc.load, Acc.store], (∃ x u, xlate1 (w.forStrand ((lengths 0x100 16 0).begun info)) 0x100 ((lengths 0x100 16 0).begun info) = .ok x u ∧
        (x.place = .home ∧ isDram (x.pa / 64 * 64) = true)) ∧
      (∃ x u, xlate1 (w.forStrand (far.begun info)) 0x100 (far.begun info) = .ok x u ∧ x.place = .remote 3) ∧
      ∃ x u, xlate1 (w.forStrand ((lengths 0x100 16 1).begun info)) 0x100 ((lengths 0x100 16 1).begun info) = .ok x u ∧ x.place = .bank) ∧
    ((lengths 0x100 16 0).coherent ∧ (0x100 + 16 - 1) / 64 = 0x100 / 64) ∧
    (let s := { lengths 0x100 16 0 with lines := [(0x20100 / 64, fresh)] }
     ∃ x u, xlate1 (Acc.load.forStrand (s.begun info)) 0x100 (s.begun info) = .ok x u ∧
       (x.pa / 64 = 0x20100 / 64 ∧ Tab.find u.lines (x.pa / 64) = some fresh ∧ fresh.st = 1 ∧ fresh.ue = 0 ∧ Tab.find u.domKeys fresh.dom = none)) := by
  refine ⟨by decide +kernel, ?_, ⟨coherent_empty rfl, by decide⟩, meets (by decide +kernel)⟩
  intro w hw
  simp only [List.mem_cons, List.not_mem_nil, or_false] at hw
  rcases hw with rfl | rfl <;> exact ⟨meets (by decide +kernel), meets (by decide +kernel), meets (by decide +kernel)⟩

/-- A line in state U whose age is 4,096 cycles. -/
theorem witness_CacheEventsKeepEveryByte :
    let s : State := { with1 user with lines := [(0x20100 / 64, fresh)], cycle := [(16 + quadOf 0x804, 4096)] }
    isDram ((0x804 : BitVec 46).toNat * 64) = true ∧ Tab.find s.lines (0x804 : BitVec 46).toNat = some fresh ∧ fresh.st = 1 ∧
      fresh.wt + 4096 ≤ s.cyclesOf (16 + quadOf 0x804) ∧ fresh.ue = 0 ∧ Tab.find s.domKeys fresh.dom = none := by
  decide +kernel

/-- A page of its own package outside the windows, one of package 3, and one of its own package inside the windows. -/
theorem witness_PostedAtomicsReturnTheirTag :
    let info : Info := { reads := [(.x, 1), (.x, 2)], dest := some (.x, 3), tagged := true }
    let s := fun (h : Nat) (g : Bool) => { with1 user with tlb := [{ page with unit := 80, home := h, glob := g }] }
    let free := fun (u : State) (h : Nat) => ∀ t ∈ u.txns, t.home = h → t.tag = (Tab.get u.nextTag h % 65536 + 65536 - 4096) % 65536 → t.done ≠ none
    (∀ u ∈ [s 0 false, s 3 true, s 0 true], u.Ready info (wordOf (.ramoAdd 3 1 2 1 0)) ∧ u.Quiet ∧ u.st.resumed = false ∧ (u.st.rx 1).toNat % 8 = 0 ∧ postedCount u = 0
      ∧ openBefore u u.st u.seqNow = false ∧ free u 0 ∧ free u 3 ∧ (u.pkr 0x440).toNat % 128 = 0) ∧
    (∃ x u, xlate1 (Acc.amo.forStrand ((s 0 false).begun info)) 0x1000 ((s 0 false).begun info) = .ok x u ∧ x.glob = false) ∧
    (∃ x u, xlate1 (Acc.amo.forStrand ((s 3 true).begun info)) 0x1000 ((s 3 true).begun info) = .ok x u ∧ (x.glob = true ∧ x.place = .remote 3)) ∧
    ∃ x u, xlate1 (Acc.amo.forStrand ((s 0 true).begun info)) 0x1000 ((s 0 true).begun info) = .ok x u ∧
      (x.glob = true ∧ x.place ≠ .bank ∧ x.place.holds x.pa = true ∧ u.goodAt x.place x.pa = true ∧ x.pa % 8 = 0) :=
  ⟨by decide +kernel, meets (by decide +kernel), meets (by decide +kernel), meets (by decide +kernel)⟩


/-! An image that the Ford admits: 65,536 bytes of its header page in BR memory, all but those listed zero. -/

/-- The Ford's translation of the image's first page. -/
def imgPage : TlbEntry := { unit := 2000, asid := 0, base := 0x10000, size := 65536, home := 0, glob := false, pa := 0x30000, mt := 1, perm := 15 }

/-- A start record in slot 0 of a queue at 0x1000, and the header of a kernel image of one strand (R66 to R68, R117). -/
def image : Mem :=
  [(0x1007, 0x80), (0x100A, 1), (0x1029, 0x10), (0x102A, 1),
   (0x30000, 0x57), (0x30001, 0x4C), (0x30002, 0x59), (0x30003, 0x53), (0x30004, 1), (0x3000A, 2), (0x3000D, 1), (0x30010, 1), (0x30012, 1),
   (0x30016, 1), (0x3001C, 0x10), (0x3001D, 1), (0x30102, 1), (0x30110, 1), (0x30116, 1), (0x30118, 4)]

/-- The header as a number. -/
abbrev header : Nat :=
  0x53594C57 + 2 ^ 32 + 2 * 2 ^ 80 + 2 ^ 104 + 2 ^ 128 + 2 ^ 144 + 2 ^ 176 + 0x110 * 2 ^ 224 + 2 ^ (8 * 0x102) + 2 ^ (8 * 0x110)
    + 2 ^ (8 * 0x116) + 4 * 2 ^ (8 * 0x118)

/-- The image has been verified before. -/
def keptImage : VImage := { hdr := 0x30000, digest := 0, key := default, probe := false, watch := [] }

/-- What pieces in bank memory read as. -/
def piecesValue (m : Mem) : List (Xl × Nat) → Nat
  | [] => 0
  | (x, k) :: r => Mem.readLE m x.pa k % 2 ^ (8 * k) + piecesValue m r * 2 ^ (8 * k)

theorem centre_free (s : State) (hb : s.banks = []) (pa : Nat) : centreOpen s pa = true ∧ centreVisit s pa = s := by
  have e : s.bank (bankOf pa) = Bank.fresh := by simp [State.bank, hb, Tab.getD, Tab.find]
  simp [centreOpen, centreVisit, e, Bank.open, Bank.fresh]

theorem readPieces_bank (d : Nat) (s : State) (hw : s.wordErr = []) (hb : s.banks = []) (l : List (Xl × Nat)) (h : ∀ p ∈ l, p.1.place = .bank) (va : Nat) :
    readPieces d l va s = .ok (.ok (piecesValue s.mem l)) s := by
  induction l generalizing va with
  | nil => rfl
  | cons p r ih =>
    obtain ⟨x, k⟩ := p
    have hx : x.place = .bank := h _ (List.mem_cons_self ..)
    have e : readWordAt x k d va s = .ok (.ok (Mem.readLE s.mem x.pa k)) s := by
      simp [readWordAt, hx, M.get_bind_run, M.set_bind_run, bankRead, checkWord, hw, Tab.find, centre_free s hb, State.dramRead]
    rw [readPieces, M.bind_ok e]
    simp only []
    rw [M.bind_ok (ih (fun q hq => h q (List.mem_cons_of_mem _ hq)) (va + k))]
    rfl

theorem splitPieces_bank (x : Xl) (n : Nat) (hx : x.place = .bank) : ∀ p ∈ splitPieces [(x, n)], p.1.place = .bank ∧ x.pa ≤ p.1.pa := by
  intro p hp
  simp only [splitPieces, List.flatMap_cons, List.flatMap_nil, List.append_nil, List.mem_map] at hp
  obtain ⟨q, -, rfl⟩ := hp
  exact ⟨hx, Nat.le_add_right ..⟩

theorem readLE_zero (m : Mem) (a n : Nat) (h : ∀ k, a ≤ k → Mem.read m k = 0) : Mem.readLE m a n = 0 := by
  induction n generalizing a with
  | zero => rfl
  | succ n ih => simp [Mem.readLE, h a (Nat.le_refl _), ih (a + 1) (fun k hk => h k (by omega))]

theorem piecesValue_zero (m : Mem) (l : List (Xl × Nat)) (lo : Nat) (hm : ∀ k, lo ≤ k → Mem.read m k = 0) (h : ∀ p ∈ l, lo ≤ p.1.pa) :
    piecesValue m l = 0 := by
  induction l with
  | nil => rfl
  | cons p r ih =>
    obtain ⟨x, k⟩ := p
    have e : Mem.readLE m x.pa k = 0 := readLE_zero _ _ _ (fun j hj => hm j (Nat.le_trans (h _ (List.mem_cons_self ..)) hj))
    simp [piecesValue, e, ih (fun q hq => h q (List.mem_cons_of_mem _ hq))]

theorem image_high (k : Nat) (h : 0x30120 ≤ k) : Mem.read image k = 0 := by
  have e : ∀ p ∈ image, p.1 < 0x30120 := by decide
  unfold Mem.read Tab.getD
  have : ∀ m : Mem, (∀ p ∈ m, p.1 < 0x30120) → Tab.find m k = none := by
    intro m hm
    induction m with
    | nil => rfl
    | cons p r ih =>
      have := hm p (List.mem_cons_self ..)
      simp only [Tab.find, show p.1 ≠ k by omega, if_false]
      exact ih (fun q hq => hm q (List.mem_cons_of_mem _ hq))
  rw [this image e]
  rfl

/-- What the Ford's access to a byte of that page is. -/
def imgXl (w : Acc) (o : Nat) : Xl := { pa := 0x30000 + o, place := .bank, mt := 1, size := 65536, base := 0x10000, who := w.who, glob := false }

theorem xlate_image (s : State) (htlb : s.tlb = [imgPage]) (hk : s.pkr 0x440 = 0) (w : Acc) (hw : w = fordLoad 0 ∨ w = fordStore 0)
    (o n : Nat) (h : o + n ≤ 65536) (hn : 0 < n) : xlateIn w (0x10000 + o) n s = .ok (imgXl w o) s ∧ xlate w (0x10000 + o) n s = .ok [(imgXl w o, n)] s := by
  have h1 : (65536 + o) / 2 ^ 55 = 0 := by omega
  have e : xlateIn w (0x10000 + o) n s = .ok (imgXl w o) s := by
    have hd : isDram (196608 + o) = true := by simp only [isDram]; simp; omega
    have hl : isLocal (196608 + o) = false := by simp only [isLocal]; simp; omega
    have hi : isIo (196608 + o) = false := by simp only [isIo]; simp; omega
    have hp : populated (196608 + o) = true := by simp [populated, hd]
    rcases hw with rfl | rfl <;>
    simp [xlateIn, xlateInBy, xlate1By, lookupXl, h1, show ¬(36028797018963968 ≤ 65536 + o) by omega, hk, htlb, tlbFind, imgPage,
      fordLoad, fordStore, fordAcc, Acc.load, Acc.store, checkRegion, hd, hp, protect, hl, hi, hostSpan, imgXl,
      show 65536 + o < 65536 + 65536 by omega, bitOf]
  refine ⟨e, ?_⟩
  have e1 : (65536 + o) % 2 ^ 64 = 65536 + o := by omega
  have e2 : min n (65536 - (65536 + o) % 65536) = n := by omega
  unfold xlate xlateBy
  simp only [e1, e2]
  rw [M.bind_ok (show xlateInBy (lookupXl w) w (65536 + o) n s = _ from e)]
  simp

theorem fordBytes_zero (s : State) (a : Acc) (fuel : Nat) : ∀ va n, n ≤ 4096 * fuel →
    (∀ o k, 0 < k → k ≤ 4096 → o + k ≤ n → orNone (readRange a (va + o) k) s = .ok (some 0) s) →
    fordBytes a va fuel n s = .ok (some (List.replicate n 0)) s := by
  induction fuel with
  | zero => intro va n h _; obtain rfl : n = 0 := by omega
            rfl
  | succ f ih =>
    intro va n h hr
    unfold fordBytes
    by_cases h0 : n = 0
    · subst h0; rfl
    · simp only [h0, if_false]
      have e0 : orNone (readRange a va (min n 4096)) s = .ok (some 0) s := by
        simpa using hr 0 (min n 4096) (by omega) (by omega) (by omega)
      rw [M.bind_ok e0]
      simp only []
      rw [M.bind_ok (ih (va + min n 4096) (n - min n 4096) (by omega) (fun o k h1 h2 h3 => by
        rw [Nat.add_assoc]; exact hr _ k h1 h2 (by omega)))]
      have b : ∀ k, bytesLE k 0 = List.replicate k 0 := by
        intro k; induction k with
        | zero => rfl
        | succ k ih => simp [bytesLE, ih, List.replicate_succ]
      simp only [b, M.pure_run, List.replicate_append_replicate, show min n 4096 + (n - min n 4096) = n by omega]

theorem read_image (s : State) (htlb : s.tlb = [imgPage]) (hk : s.pkr 0x440 = 0) (hm : s.mem = image) (hw : s.wordErr = []) (hb : s.banks = [])
    (o n : Nat) (h : o + n ≤ 65536) (hn : 0 < n) :
    orNone (readRange (fordLoad 0) (0x10000 + o) n) s = .ok (some (piecesValue image (splitPieces [(imgXl (fordLoad 0) o, n)]))) s := by
  have e : readRange (fordLoad 0) (0x10000 + o) n s = .ok (.ok (piecesValue image (splitPieces [(imgXl (fordLoad 0) o, n)]))) s := by
    unfold readRange
    rw [M.bind_ok (xlate_image s htlb hk _ (.inl rfl) o n h hn).2,
      readPieces_bank _ _ hw hb _ (fun p hp => (splitPieces_bank (imgXl (fordLoad 0) o) n rfl p hp).1), hm]
  unfold orNone
  simp only [tryCatch, tryCatchThe, MonadExceptOf.tryCatch, EStateM.tryCatch, M.bind_ok e]
  rfl

theorem ofBytesLE_zeros (l : List Byte) (n : Nat) : ofBytesLE (l ++ List.replicate n 0) = ofBytesLE l := by
  induction l with
  | nil =>
    induction n with
    | zero => rfl
    | succ n ih =>
      rw [List.nil_append] at ih ⊢
      rw [List.replicate_succ, show ofBytesLE (0 :: List.replicate n 0) = (0 : Byte).toNat + 256 * ofBytesLE (List.replicate n 0) from rfl, ih]
      rfl
  | cons b r ih => rw [List.cons_append, ofBytesLE, ofBytesLE, ih]

theorem ofBytesLE_bytesLE (n v : Nat) : ofBytesLE (bytesLE n v) = v % 256 ^ n := by
  induction n generalizing v with
  | zero => simp [bytesLE, ofBytesLE, Nat.mod_one]
  | succ n ih => rw [bytesLE, ofBytesLE, ih, Nat.pow_succ', Nat.mod_mul]; simp

theorem piecesValue_append (m : Mem) (l r : List (Xl × Nat)) (h : piecesValue m r = 0) : piecesValue m (l ++ r) = piecesValue m l := by
  induction l with
  | nil => exact h
  | cons p q ih => obtain ⟨x, k⟩ := p; simp only [List.cons_append, piecesValue, ih]

theorem header_piece : piecesValue image (splitPieces [(imgXl (fordLoad 0) 0, 4096)]) = header := by
  rw [← List.take_append_drop 9 (splitPieces _), piecesValue_append _ _ _ (piecesValue_zero image _ 0x30120 image_high (by decide +kernel))]
  decide +kernel

/-- The Ford reads the header page, and finds that the image has been verified. -/
theorem check_page (v : Nat) (hv : piecesValue image (splitPieces [(imgXl (fordLoad 0) 0, 4096)]) = v) (hv4 : v < 256 ^ 4096)
    (h1 : layoutBad v = none) (h2 : imgBE v 0x40 32 = 0) (s : State) (htlb : s.tlb = [imgPage]) (hk : s.pkr 0x440 = 0) (hm : s.mem = image)
    (hw : s.wordErr = []) (hb : s.banks = []) (hi : s.images = [keptImage]) : checkImage 0 0x10000 s = .ok (.ok v) s := by
  have e1 : fordPa (fordLoad 0) 0x10000 1 s = .ok (some 0x30000) s := by
    unfold fordPa
    simp only [tryCatch, tryCatchThe, MonadExceptOf.tryCatch, EStateM.tryCatch,
      M.bind_ok (xlate_image s htlb hk (fordLoad 0) (.inl rfl) 0 1 (by omega) (by omega)).1]
    rfl
  have e2 : ∀ m n, n = 61440 → m = 4096 + n → fordBytes (fordLoad 0) 0x10000 17 m s = .ok (some (bytesLE 4096 v ++ List.replicate n 0)) s := by
    intro m n hn hm
    subst hm
    unfold fordBytes
    simp only [show 4096 + n ≠ 0 by omega, if_false, show min (4096 + n) 4096 = 4096 by omega]
    rw [M.bind_ok (read_image s htlb hk hm hw hb 0 4096 (by omega) (by omega)), hv]
    simp only []
    rw [Nat.add_sub_cancel_left, M.bind_ok (fordBytes_zero s (fordLoad 0) 16 (0x10000 + 4096) n (by omega) (fun o k h1 h2 h3 => by
      rw [Nat.add_assoc, read_image s htlb hk hm hw hb (4096 + o) k (by omega) h1,
        piecesValue_zero image _ 0x30120 image_high (fun p hp => Nat.le_trans (by simp [imgXl]; omega)
          (splitPieces_bank (imgXl (fordLoad 0) (4096 + o)) k rfl p hp).2)]))]
    simp only [M.pure_run]
  have e3 : ∀ n, ofBytesLE (bytesLE 4096 v ++ List.replicate n 0) = v := by
    intro n
    rw [ofBytesLE_zeros, ofBytesLE_bytesLE, Nat.mod_eq_of_lt hv4]
  have e6 : reuseImage 0x30000 (imgBE v 0x40 32) false s = some s := by
    rw [h2]
    cases s
    simp only at hi
    subst hi
    rfl
  obtain ⟨l, hl, hlv⟩ : ∃ l, fordBytes (fordLoad 0) 0x10000 17 65536 s = .ok (some l) s ∧ ofBytesLE l = v :=
    ⟨_, e2 65536 61440 rfl rfl, e3 _⟩
  unfold checkImage
  simp only []
  rw [M.bind_ok e1, M.bind_ok hl]
  simp only [hlv, h1, M.get_bind_run, e6, M.set_bind_run, M.pure_run]

theorem check_image (s : State) (htlb : s.tlb = [imgPage]) (hk : s.pkr 0x440 = 0) (hm : s.mem = image) (hw : s.wordErr = []) (hb : s.banks = [])
    (hi : s.images = [keptImage]) : checkImage 0 0x10000 s = .ok (.ok header) s :=
  check_page header header_piece (by decide +kernel) (by decide +kernel) (by decide +kernel) s htlb hk hm hw hb hi

/-- Queue 0, and the state whose head slot holds the record. -/
def ringQueue : Queue :=
  { base := 0x1000, logn := 3, kind := 0, pmax := 7, aslo := 0, ashi := 0, ddlo := 0, ddhi := 0, head := 0, tail := 0, taken := false }
def ford (u : Queue) (adm held : Bool) : State :=
  { mem := image, tlb := [imgPage], images := [keptImage], queues := [(0, u)], pk := if adm then [(0x800, 2)] else [], held := if held then [{ queue := 0, ticket := 0, gang := { size := 1, cluster := 0, queue := 0 } }] else [], fulls := [(0, 0, 0)] }

/-- The state after the head slot is read. -/
def fordRead (s : State) : State := (physRead (physRead s 0x1000 32).1 0x1020 32).1

theorem admits (b h : Bool) : ∃ ad,
    fordPa (fordStore 0) 0x11000 32 (fordRead (ford ringQueue b h)) = .ok (some 0x31000) (fordRead (ford ringQueue b h)) ∧
    admitChecks ringQueue ((ford ringQueue b h).peekLE 0x1000 64) none (fordRead (ford ringQueue b h)) = .ok (.ok ad) (fordRead (ford ringQueue b h)) := by
  have e : ∀ s : State, s.tlb = [imgPage] ∧ s.pkr 0x440 = 0 ∧ s.mem = image ∧ s.wordErr = [] ∧ s.banks = [] ∧ s.images = [keptImage] → ∀ r,
      recordBad 7 r = none → imgFld r 0x1E 2 = 0 → imgFld r 0x1C 2 = 0 → imgFld r 8 8 = 0x10000 →
      (∃ ad, resolveRecord r header = .ok (ad, 0)) →
      ∃ ad, fordPa (fordStore 0) 0x11000 32 s = .ok (some 0x31000) s ∧ admitChecks ringQueue r none s = .ok (.ok ad) s := by
    rintro s ⟨h1, h2, h3, h4, h6, h5⟩ r hr ha hd hi ⟨ad, had⟩
    refine ⟨ad, ?_, ?_⟩
    · unfold fordPa
      simp only [tryCatch, tryCatchThe, MonadExceptOf.tryCatch, EStateM.tryCatch,
        M.bind_ok (xlate_image s h1 h2 (fordStore 0) (.inr rfl) 0x1000 32 (by omega) (by omega)).1]
      rfl
    · unfold admitChecks
      simp only [ha, hd, hi, show ringQueue.pmax = 7 from rfl, hr]
      rw [if_neg (by decide), M.bind_ok (check_image s h1 h2 h3 h4 h6 h5)]
      simp only [had, if_true, M.pure_run]
  have hm : ∀ r, (match resolveRecord r header with | .ok (_, t) => t == 0 | .error _ => false) = true →
      ∃ ad, resolveRecord r header = .ok (ad, 0) := by
    intro r hr
    cases e : resolveRecord r header with
    | error o => simp [e] at hr
    | ok p => obtain ⟨ad, t⟩ := p; simp [e] at hr; exact ⟨ad, by rw [hr]⟩
  cases b <;> cases h <;> exact e _ (by decide +kernel) _ (by decide +kernel) (by decide +kernel) (by decide +kernel) (by decide +kernel) (hm _ (by decide +kernel))


/-- The computation goes on and answers a value, without an error of the access. -/
theorem meetsAccess {α : Type} {r : EStateM.Result Stop State (Except (AccErr × Nat) α)} {P : α → State → Prop} [∀ a s, Decidable (P a s)]
    (h : goesOn r (fun e s => match e with | .ok a => decide (P a s) | .error _ => false) = true) :
    ∃ a s, r = .ok (.ok a) s ∧ P a s := by
  cases r with
  | ok a s =>
    cases a with
    | ok a => exact ⟨a, s, rfl, of_decide_eq_true h⟩
    | error e => simp [goesOn] at h
  | error e s => simp [goesOn] at h

/-- The Ford translates `COMPL`, and then a check fails. -/
theorem failsLater {r : EStateM.Result Stop State (Option Nat)} (f : State → EStateM.Result Stop State (Except (Nat × Nat) Admit))
    (h : goesOn r (fun x s => x.isSome && goesOn (f s) (fun e _ => match e with | .ok _ => false | .error _ => true)) = true) :
    ∃ pa s2, r = .ok (some pa) s2 ∧ ∃ d s3, f s2 = .ok (.error d) s3 := by
  cases r with
  | error e s => simp [goesOn] at h
  | ok x s2 =>
    cases x with
    | none => simp [goesOn] at h
    | some pa =>
      refine ⟨pa, s2, rfl, ?_⟩
      simp only [goesOn, Option.isSome, Bool.true_and] at h
      cases e : f s2 with
      | error d s3 => simp [e] at h
      | ok x s3 =>
        cases x with
        | ok a => simp [e] at h
        | error d => exact ⟨d, s3, rfl⟩

/-- A descriptor that follows R113 and one that does not (zero); a full slot with a misaligned `COMPL`; one that fails a check; one that the
Ford admits, at once and held for the host; a gang that is done; and a host event whose slot is free, and one whose slot is not. -/
theorem witness_TheFordServesItsQueues :
    (∀ d ∈ [3 * 2 ^ 64 + 0x3000, 0],
      let s : State := { mem := Mem.writeLE [] 0x2000 64 d, pk := [(0x820, 0x2000)] }
      let a := fld (s.pkr 0x820).toNat 12 40 * 4096 + 64 * 0
      s.lines = [] ∧ s.queues = [] ∧ (0 : Nat) ≤ (s.pkr 0x820).toNat % 64 ∧ isDram a = true ∧ s.goodAt .home a = true ∧ s.goodAt .home (a + 32) = true
        ∧ descriptorOk (s.peekLE a 64) = decide (d ≠ 0)) ∧
    (let s : State := { with1 { user with run := .waitLine 0x40 } with queues := [(0, ringQueue)] }
     (s.strandAt 0).run = .waitLine 0x40 ∧ (s.strandAt 1).run ≠ .waitLine 0x40 ∧ ringQueue.kind ≠ 3
       ∧ (ringQueue.base + 64 * (ringQueue.head % 2 ^ ringQueue.logn)) / 64 = 0x40) ∧
    (∀ p ∈ [(ringQueue, true), ({ ringQueue with aslo := 1 }, true), (ringQueue, false)],
      let s : State := { ford p.1 false false with mem := if p.2 then image else Mem.write image 0x1028 8 }
      let r := s.peekLE 0x1000 64
      s.lines = [] ∧ Tab.find s.queues 0 = some p.1 ∧ p.1.kind < 2 ∧ nextFull s = some 0 ∧ p.1.base % 64 = 0
        ∧ isDram 0x1000 = true ∧ fld r 0 64 = p.1.head + 2 ^ 63 ∧ (fld r 320 64 % 32 = if p.2 then 0 else 8) ∧ s.goodAt .home 0x1000 = true
        ∧ s.goodAt .home 0x1020 = true) ∧
    (let s := ford { ringQueue with aslo := 1 } false false
     nextFull s = some 0 ∧ ∃ pa s2, fordPa (fordStore 0) 0x11000 32 (fordRead s) = .ok (some pa) s2 ∧
       ∃ d s3, admitChecks { ringQueue with aslo := 1 } (s.peekLE 0x1000 64) none s2 = .ok (.error d) s3) ∧
    (∀ b, ∃ ad, (fordPa (fordStore 0) 0x11000 32 (fordRead (ford ringQueue b false)) = .ok (some 0x31000) (fordRead (ford ringQueue b false)) ∧
        admitChecks ringQueue ((ford ringQueue b false).peekLE 0x1000 64) none (fordRead (ford ringQueue b false)) = .ok (.ok ad) (fordRead (ford ringQueue b false))) ∧
      Tab.wf (fordRead (ford ringQueue b false)).gangs = true ∧ bitOf ((fordRead (ford ringQueue b false)).pkr 0x800).toNat 1 = b ∧ nextFull (ford ringQueue b false) = some 0) ∧
    (let g : Gang := { size := 1, cluster := 0, started := true, stopped := 1, compl := 0x11000 }
     let s : State := { ford ringQueue false false with gangs := [(0, g)] }
     let acc : Acc := { fordStore 0 with who := 12290 }
     Tab.find s.gangs 0 = some g ∧ g.failed = none ∧ g.started = true ∧ (∀ k, k < g.size → bitOf g.stopped k = true) ∧ gangBusy s g = false ∧
     ∃ x w, writeRange acc 0x11008 24 0 false s = .ok (.ok x) w ∧
       goesOn (writeRange acc 0x11000 8 0 false w) (fun e u => (match e with | .ok _ => true | .error _ => false)
         && decide (unplaced { u with gangs := Tab.erase u.gangs 0 } = [])) = true) ∧
    (let v := { ringQueue with base := 0x11000, kind := 3 }
     let s : State := { ford v false false with hostEvents := [{ kind := 8, queue := 0, subject := 0, ecause := 0, eval := 0, trec := 0 }] }
     (0 : Nat) ≤ s.time.toNat ∧ s.evRetry = none ∧ eventQueue s = some (0, v) ∧ s.hostEvents ≠ [] ∧
     (∃ k w, readRange (fordHost Acc.load) 0x11000 8 s = .ok (.ok k) w ∧
       (k = v.head ∧ goesOn (writeRange (fordHost Acc.store) 0x11008 56 8 false w) (fun e x => (match e with | .ok _ => true | .error _ => false)
         && goesOn (writeRange (fordHost Acc.store) 0x11000 8 (2 ^ 63) false x) (fun e _ => match e with | .ok _ => true | .error _ => false)) = true)) ∧
     ∃ k w, readRange (fordHost Acc.load) 0x11000 8 { s with mem := [(0x31000, 5)] } = .ok (.ok k) w ∧ k ≠ v.head) := by
  refine ⟨by decide +kernel, by decide +kernel, by decide +kernel, ⟨by decide +kernel, failsLater _ (by decide +kernel)⟩, ?_, by refine ⟨rfl, rfl, rfl, by decide, by decide +kernel, meetsAccess (by decide +kernel)⟩,
    by decide +kernel, rfl, rfl, by decide, meetsAccess (by decide +kernel), meetsAccess (by decide +kernel)⟩
  · intro b
    obtain ⟨ad, h⟩ := admits b false
    exact ⟨ad, h, by cases b <;> decide +kernel, by cases b <;> decide +kernel, by cases b <;> decide +kernel⟩

/-- A strand that is parked, on its context and pre-empted; an admission that is held; a port and a domain that wait; and answers that have no subject. -/
theorem witness_HostAnswersAreCarriedOut :
    let parked : Strand := { user with run := .parked 0, gang := some 4, csr := [(0x805, 0x7000)] }
    let s : State := { with1 parked with gangs := [(4, gang2 0 0)] }
    let b : State := { s with strands := [], preempted := [{ strand := parked, cluster := 0, rank := 0 }] }
    (s.lines = [] ∧ parkedCtx s 1 = some 0 ∧ (s.strandAt 0).pl = 0 ∧ (s.strandAt 0).shadow = [] ∧ isDram ((s.strandAt 0).recordAt 0x805) = true
      ∧ fld (s.peekLE 0x7018 8) 2 2 = 0 ∧ s.peekLE 0x7000 8 % 4 = 0 ∧ bitOf (s.peekLE 0x7018 8) 5 = false) ∧
    (parkedCtx b 1 = none ∧ parkedBack b 1 = some 0 ∧ b.preempted[0]? = some { strand := parked, cluster := 0, rank := 0 }) ∧
    (parked.gang = some 4 ∧ ∀ u ∈ [s, b], Tab.find u.gangs 4 = some (gang2 0 0) ∧ Tab.wf u.strands = true) ∧
    (let s := ford ringQueue true true
     ((heldSlot s 0 0).map (fun h => h.gang.queue)) = some 0 ∧ Tab.find s.queues 0 = some ringQueue) ∧
    (let p : Port := { st := 4, peer := 0, nrt := 0, rxSeq := 0, since := 0 }
     let k : DomKey := { valid := true, pub := false, rotp := 20, gen := 0, key := 0, due := 0, wait := true }
     let s : State := { with1 user with ports := [(2, p)], domKeys := [(2, k)], pk := [(0x830, 0x500000)] }
     hasDomains s = true ∧ Tab.find s.ports 2 = some p ∧ p.st = 4 ∧ Tab.find s.domKeys 2 = some k ∧ k.wait = true ∧ s.lines = [] ∧ isDram (domainAt s 2) = true
       ∧ s.goodAt .home (domainAt s 2 + 32) = true) ∧
    (parkedCtx (with1 user) 1 = none ∧ parkedBack (with1 user) 1 = none ∧ heldSlot (with1 user) 0 0 = none ∧ Tab.find (with1 user).ports 2 = none
      ∧ Tab.find (with1 user).domKeys 2 = none) :=
  ⟨by decide +kernel, by decide +kernel, by decide +kernel, by decide +kernel, by decide +kernel, by decide +kernel⟩


/-- A strand that waits for lanes alone; a granule that is being zeroed; a strand whose lanes a gang of a higher class needs, and one that nobody
needs; one that can resume; strands whose time has come, and one that has time; and an address that the tables map. -/
theorem witness_ContextsChangeWithoutInstructions :
    (let s := with1 { user with want := some (8, 3) }
     unplaced s = [] ∧ waiters s 1 = [] ∧ waiters s 0 = [{ cls := (classOf s s.st).1, age := (classOf s s.st).2, who := .strand 0 }]
       ∧ 8 / 8 ≤ (grantable s 0).length) ∧
    (∀ n ∈ [none, some 1], ({ with1 user with grans := [(0, .zeroing n)] } : State).gran 0 0 = .zeroing n) ∧
    ((with1 user).st.run ≠ .free ∧ (cTFAULT ≠ 0 ∧ cTFAULT < 0x15) ∧ haltWaits (with1 user) = false
      ∧ begunAccess { with1 user with cur := 0 } = false ∧ (let s : State := { with1 user with txns := [{ posted1 with op := 1, late := some 0x100 }] }
        haltWaits { s with cur := 0 } = true ∧ (s.strandAt 0).run ≠ .free)) ∧
    (let s : State := { with1 { user with gang := some 4, lanes := 64, csr := [(0x805, 0x90000), (0x807, 5)] } with
       gangs := [(4, gang2 0 0), (5, { size := 1, cluster := 0, lanes := 8, cls := 3 })], grans := (List.range 8).map (fun g => (g, .held 1)) }
     let st := s.strandAt 0
     s.lines = [] ∧ shouldPreempt s 0 = true ∧ haltWaits { s with cur := 0 } = false ∧ begunAccess { s with cur := 0 } = false
       ∧ trapFirst s 0 = none ∧ st.run = .run ∧ st.loads = [] ∧ st.stores = []
       ∧ st.bankQ = [] ∧ st.readQ = [] ∧ st.vq = [] ∧ isDram (st.recordAt 0x805) = true ∧ tapArea s st.sid + 65536 ≤ st.recordAt 0x805) ∧
    shouldPreempt (with1 user) 0 = false ∧
    (let p : Preempted := { strand := { user with gang := some 4, lanes := 8, csr := [(0x805, 0x7000)] }, cluster := 0, rank := 0, grans := [0] }
     let s : State := { preempted := [p] }
     s.lines = [] ∧ unplaced s = [] ∧ preemptedAt s 1 = some 0 ∧ s.preempted[0]? = some p
       ∧ waiters s 0 = [{ cls := (classOf s p.strand).1, age := (classOf s p.strand).2, who := .back 0 }]
       ∧ freeContexts s 0 = 0 :: (freeContexts s 0).tail ∧ resumeGrans s p = some [0] ∧ bitOf (p.strand.cr 0x10B).toNat 1 = false
       ∧ p.eret = false ∧ isDram (p.strand.recordAt 0x805) = true) ∧
    (∀ r ∈ [Run.run, .idle none, .idle (some 0), .waitLine 5],
      let s := with1 { user with run := r, deadline := some 0, csr := [(0x807, 0)] }
      (s.strandAt 0).cr 0x807 ≤ s.time ∧ (s.strandAt 0).run = r ∧ (s.strandAt 0).pl = 0 ∧ 0 ≤ s.time.toNat ∧ 0 ≤ s.cyclesOf 0) ∧
    (∀ p ∈ [((1 : Nat), (0 : Nat), true), (1, 16, false), (2, 0, false)], ∀ r ∈ [Run.idle none, .waitLine 5],
      let st := (with1 { user with run := r, pl := BitVec.ofNat 2 p.1, csr := [(0x807, 0), (0x804, BitVec.ofNat 64 p.2.1)] }).strandAt 0
      st.run = r ∧ decide (st.pl = 0 ∨ (st.pl = 1 ∧ bitOf (st.stat 0x804) 4 = false)) = p.2.2) ∧
    (with1 { user with csr := [(0x807, 1)] }).time < ((with1 { user with csr := [(0x807, 1)] }).strandAt 0).cr 0x807 ∧
    (∃ e u, walk ((placeTables 0 0 (with1 user)).strandAt 0).asid 0x100 1 (placeTables 0 0 (with1 user)) = .ok e u ∧
      goesOn (checkRegion ((u.pkr 0x440).toNat % 128) 0x100 1 e u) (fun _ v => v == u) = true) :=
  ⟨by decide +kernel, by decide +kernel, by decide +kernel, by decide +kernel, by decide +kernel, by decide +kernel, by decide +kernel,
    by decide +kernel, by decide +kernel, meets (by decide +kernel)⟩

/-- A bank that is not held, and one that is, before its visit, in the group of four rows of one, and in a later group; words of a row with a
correctable and an uncorrectable error; a key whose period has ended, with and without the host's leave; and a domain whose entry is read again. -/
theorem witness_StacksAndKeysChangeWithoutInstructions :
    ((with1 user).bank 1).held = none ∧
    (∀ v ∈ [none, some (8, none), some (3, some 5)],
      ((with1 user).setBank 1 { Bank.fresh with held := some 8, visit := v }).bank 1 = { Bank.fresh with held := some 8, visit := v }) ∧
    (let s : State := { with1 user with wordErr := [(1024 / 32, 1), (1024 / 32 + 1, 3)] }
     let first := ((1 : BitVec 12).toNat / 512 * 2 ^ 36 + (0 : BitVec 17).toNat * 2 ^ 19 + (1 : BitVec 12).toNat % 512 * 2 ^ 10) / 32
     first = 32 ∧ (s.eccOf first).1 = 1 ∧ (s.eccOf (first + 1)).1 = 2) ∧
    (∀ v ∈ [false, true],
      let k : DomKey := { valid := true, pub := false, rotp := 20, gen := 0, key := 0, due := 0, wait := false }
      let s : State := { with1 user with domKeys := [(2, k)], pk := [(0x800, if v then 64 else 0), (0x830, 0x500000)] }
      hasDomains s = true ∧ Tab.find s.domKeys 2 = some k ∧ k.valid = true ∧ k.rotp ≠ 0 ∧ k.wait = false ∧ k.due ≤ s.time.toNat
        ∧ bitOf (s.pkr 0x800).toNat 6 = v ∧ s.lines = [] ∧ isDram (domainAt s 2) = true ∧ s.goodAt .home (domainAt s 2 + 32) = true) ∧
    (let s : State := { with1 user with entries := [(0, { data := 0, c := 1, ix := true, hash := 0, key := (2, 0), quad := 0 })] }
     s.ddrldBusy = none ∧ Tab.wf s.entries = true) := by
  decide +kernel

/-- Stream slots of cluster 0 as the engine finds them: a strip that can be read, and one that fails; an operation that an earlier access holds
back, one that is read, one of no element, and one that fails; output bytes to write; a drained slot; a failed access. -/
theorem witness_EnginesGoOnWithoutInstructions :
    let s := fun (p : Slot) => streams [(0, p)] []
    let op : CopyOp := { ticket := 0, src := 0x1000, n := 2, released := false, level := 0, mark := 16 }
    let rd := { reading with strips := 0, half0 := .empty, fed := 0, written := 0 }
    let bad := { rd with src := 0x20000 }
    let wr := { writing with ops := [op], pos := 2, tickets := 1 }
    let of := fun (o : CopyOp) => { wr with ops := [o] }
    let un := { wr with ops := [{ op with released := true, level := 1 }], outbuf := List.replicate 16 1, fed := 16, written := 16 }
    let dr := { writing with draining := true }
    let waits : State := { s (of { op with seq := 9 }) with strands := [(0, { user with loads := [{ (default : LoadEntry) with seq := 3 }] })] }
    (canFetch (s rd) 0 rd = true ∧ Tab.find (s rd).slots 0 = some rd ∧
      ∃ l u, pullOut 4 0 (min rd.strip (rd.len - rd.strips * rd.strip) * (2 ^ typeLog2 rd.etype)) (s rd) = .ok l u ∧ (Tab.find u.slots 0).isSome = true) ∧
    (canFetch (s bad) 0 bad = true ∧
      ∃ t u, pullOut 4 0 (min bad.strip (bad.len - bad.strips * bad.strip) * (2 ^ typeLog2 bad.etype)) (s bad) = .error (.trap t) u ∧ t.w2 = 0x20000) ∧
    (∀ p ∈ [wr, of { op with n := 0 }, of { op with src := 0x20000 }],
      Tab.find (s p).slots 0 = some p ∧ p.write = true ∧ p.up = none ∧ p.fault = none ∧ linked (s p) 0 = true ∧ (chainDown (s p) 4 0).Nodup ∧
      p.ops.find? (fun o => !o.released) = p.ops.head? ∧ engineMay (s p) p 0 = true) ∧
    (Tab.find waits.slots 0 = some (of { op with seq := 9 }) ∧ linked waits 0 = true ∧ engineMay waits (of { op with seq := 9 }) 9 = false) ∧
    (∃ l u, engReadAll 0 0x1000 (2 * wr.w) (2 * wr.w / 4096 + 1) (s wr) = .ok l u ∧ Tab.find u.slots 0 = some wr) ∧
    (∃ t u, engReadAll 0 0x20000 (2 * wr.w) (2 * wr.w / 4096 + 1) (s (of { op with src := 0x20000 })) = .error (.trap t) u ∧ t.w2 = 0x20000) ∧
    (Tab.find (s un).slots 0 = some un ∧ linked (s un) 0 = true ∧ un.down = none ∧ un.outbuf ≠ [] ∧ un.sending = 0 ∧ nextWrite (un.dst + un.sent) un.outbuf = un.outbuf ∧
      ∃ x u, engWrite 0 (un.dst + un.sent) un.outbuf (s un) = .ok x u ∧ Tab.find u.slots 0 = some un) ∧
    (Tab.find (s dr).slots 0 = some dr ∧ dr.draining = true ∧ dr.write = true ∧ dr.up = none ∧ dr.down = none ∧ dr.ops = [] ∧ dr.inbuf = []
      ∧ dr.outbuf = [] ∧ dr.fault = none ∧ chainOpen (s dr) [0] = false) ∧
    (wr.draining = false ∧ wr.ops = op :: []) ∧
    (∀ o ∈ [false, true], bitOf ((with1 { user with csr := [(0x402, if o then 1 else 0)] }).st.cr 0x402).toNat 0 = o) := by
  refine ⟨⟨by decide +kernel, by decide +kernel, meets (by decide +kernel)⟩, ⟨by decide +kernel, trapsWith (by decide +kernel)⟩,
    by decide +kernel, by decide +kernel, meets (by decide +kernel), trapsWith (by decide +kernel),
    ⟨by decide +kernel, by decide +kernel, by decide +kernel, by decide +kernel, rfl, by decide +kernel, meets (by decide +kernel)⟩, by decide +kernel,
    by decide +kernel, by decide +kernel⟩


/-- A port in each state; package 3 wired to it; the times at which training and retraining have taken too long; a replay buffer with room, a full
one, and one whose flits are acknowledged; the next flit, one already accepted, and a gap. -/
theorem witness_PortsFollowTheirStates :
    let p := fun (st : Nat) => ({ st := st, peer := 0, nrt := 0, rxSeq := 255, since := 0 } : Port)
    let s := fun (st held : Nat) =>
      ({ ports := [(2, p st)], time := 10000000, mem := [(48, 4)], pk := [(0x800, BitVec.ofNat 64 (32 * held))] } : State)
    let full := { p 2 with replay := (List.range 256).map (fun k => ((k + 1) % 256, .cnp k)), backlog := [.cnp 0] }
    (∀ st, st < 6 → ∀ held, held < 2 → ((s st held).port 2).st = st ∧ bitOf ((s st held).pkr 0x800).toNat 5 = (held == 1)
      ∧ Tab.find (s st held).ports 2 = some ((s st held).port 2)) ∧
    routed (s 1 0) 3 2 = true ∧ routed (s 1 0) 4 2 = false ∧ ((s 1 0).port 2).since + 10000000 ≤ (s 1 0).time.toNat ∧
    ((s 3 0).port 2).since + 2000000 ≤ (s 3 0).time.toNat ∧ (0 : BitVec 8).toNat = (((s 2 0).port 2).rxSeq + 1) % 256 ∧
    (1 : BitVec 8).toNat ≠ (((s 2 0).port 2).rxSeq + 1) % 256 ∧ (255 + 256 - 255) % 256 < 128 ∧ ¬((255 + 256 - 1) % 256 < 128) ∧
    (p 2).replay.length < 256 ∧ (p 2).backlog = [] ∧ full.replay.length = 256 ∧ full.backlog = [.cnp 0] ∧ full.replay.head? = some (1, .cnp 0) ∧
    1 ≤ (5 + 256 - 1) % 256 + 1 ∧
    (let u := fun (st since : Nat) => ({ ports := [(2, { p st with since := since })], time := 10000000 } : State)
     (∀ q ∈ [((1 : Nat), (10000000 : Nat)), (3, 2000000)], ((u q.1 (10000001 - q.2)).port 2).st = q.1
       ∧ (u q.1 (10000001 - q.2)).time.toNat < ((u q.1 (10000001 - q.2)).port 2).since + q.2
       ∧ ((u q.1 (10000000 - q.2)).port 2).since + q.2 ≤ (u q.1 (10000000 - q.2)).time.toNat)) := by
  decide +kernel

/-- A bank that is held, and has had its centre visit. -/
def closedBank : State := (with1 user).setBank (bankOf 0x20000) { Bank.fresh with held := some 8, visit := some (8, some 1) }

/-- A package that is admitted and one that is not; requests seen, in progress and not seen; one that waits at port 2, and a held bank; a message
for another package; and transactions to package 3, with a port and without one, and
one that has been sent and waits for its completion. -/
theorem witness_TransactionsArePerformedOnce :
    (let s0 : State := { with1 user with
       pk := [(0x851, 8)], window := [(3 * 4096 + 7, { tag := 7, fin := true, data := 5, err := 0 })]
       ports := [(2, { st := 2, peer := 3, nrt := 0, rxSeq := 0, since := 0, ready := 1 })] }
     let s := s0.setPort 2 { s0.port 2 with ready := (s0.port 2).ready - 1 }
     let waiting := { s with inbox := List.replicate 256 (Inbound.request 2 { src := 3, tag := 7, op := 0, size := 0, pa := 0, br := false, dom := 0, data := 0, be := 1 }) }
     0 < (s0.port 2).ready ∧ queueFull s 2 = false ∧ queueFull waiting 2 = true ∧ (s.port 2).ready = 0 ∧
     bitOf ((s.pkr 0x851).toNat + (s.pkr 0x852).toNat * 2 ^ 64) 3 = true ∧ bitOf ((s.pkr 0x851).toNat + (s.pkr 0x852).toNat * 2 ^ 64) 4 = false ∧
     isDram 0x20000 = true ∧ isDram 0x8000000000 = false ∧ s.lines = [] ∧ Tab.find s.window (3 * 4096 + 8) = none ∧
     (∀ k, k < 64 → s.goodAt .home (0x20000 + k) = true) ∧ (255 : BitVec 64).toNat = 2 ^ 8 - 1 ∧ 8 ≤ 64 - 0x20000 % 64 ∧ (2 ≤ 11 ∧ 2 ≤ 3 ∧ 0x20000 % 2 ^ 3 = 0) ∧
     Tab.find s.window (3 * 4096 + 7) = some { tag := 7, fin := true, data := 5, err := 0 } ∧
     (1 ≤ (4103 + 65536 - 7) % 65536 ∧ (4103 + 65536 - 7) % 65536 ≤ 32768 ∧ 4103 % 4096 = 7) ∧
     (0 : BitVec 7).toNat = (s.pkr 0x440).toNat % 128 ∧ (1 : BitVec 7).toNat ≠ (s.pkr 0x440).toNat % 128 ∧
     s.defer = false ∧ s.inbox.filter (fun m => m.lane == 2) = [] ∧
     (let w := ({ tag := 7, fin := false, data := 0, err := 0 } : WinSlot); Tab.find { s with window := [(3 * 4096 + 7, w)] }.window (3 * 4096 + 7) = some w)) ∧
    (let m := Inbound.request 2 { src := 3, tag := 7, op := 0, size := 0, pa := 0x20000, br := false, dom := 0, data := 0, be := 1 }
     ([m].filter (fun m => m.lane == 2)).length < 256 ∧ [m].filter (fun m => m.lane == 2) ≠ [] ∧ (1 : BitVec 2).toNat ≤ 1 ∧
     centreOpen closedBank 0x20000 = false ∧ closedBank.inbox = [] ∧ closedBank.defer = false) ∧
    (∀ posted, posted < 2 → ∀ up, up < 2 →
      let x := { posted1 with posted := posted == 1, waitAt := some 0 }
      let s : State := { with1 user with txns := [x], mem := [(48, 1)], ports := [(0, { st := 2 * up, peer := 3, nrt := 0, rxSeq := 0, since := 0 })], time := 100000000 }
      outstanding s 3 7 = some x ∧ x.posted = (posted == 1) ∧ (upPorts s 3 ≠ [] ↔ up = 1) ∧ (portFor s 3 7 = if up = 1 then some 0 else none)
        ∧ x.waitAt = some 0 ∧ 0 + (s.pkr 0x853).toNat % 2 ^ 40 ≤ s.time.toNat ∧ (s.strandAt 0).run ≠ .free ∧ (s.strandAt 0).owner = x.sid) ∧
    (let s : State := { with1 user with txns := [posted1], ports := [(0, { st := 2, peer := 3, nrt := 0, rxSeq := 0, since := 0 })] }
     outstanding s 3 7 = some posted1 ∧ ¬(posted1.waitAt.isSome = true ∨ (s.port posted1.port).st ≠ 2 ∨ max posted1.since (s.port posted1.port).upAt + 65536 ≤ s.fordNow)) :=
  ⟨by decide +kernel, by decide +kernel, by decide +kernel, by decide +kernel⟩

/-- A computation waits. -/
theorem waitsFor {α : Type} {r : EStateM.Result Stop State α} (h : (match r with | .error .wait _ => true | _ => false) = true) :
    ∃ u, r = .error .wait u := by
  cases r with
  | ok a s => exact nomatch h
  | error e s => cases e with
    | wait => exact ⟨s, rfl⟩
    | trap x => exact nomatch h
    | fault f => exact nomatch h
    | refuse q => exact nomatch h

/-- Connection 0 admits accesses below 0x1000; an access within it, and one beyond it; one to a held bank; one behind another; and a notification that
may be returned, and one that may not yet be. -/
theorem witness_TheHostReadsWritesAndAnswers :
    let s : State := { with1 user with
      tlb := [{ page with unit := 2000 }], pk := [(0x856, 0x10000)], mem := [(0x10004, 3), (0x10018, 255), (0x10019, 15)] }
    let x := { posted1 with home := 127, posted := false, pa := 0 }
    (∀ k, k < 64 → (BitVec.allOnes 64).getLsbD k = true) ∧ inboundOk s 0 0 64 = true ∧ s.peekLE (connAt s 0 + 0x18) 8 + 1 < 0x1000 + 64 ∧
    (s.pkr 0x856 / 65536 ≠ 0 ∧ (with1 user).pkr 0x856 / 65536 = 0) ∧
    (BitVec.allOnes 64).getLsbD (0 + 63) = true ∧
    (∃ y u, xlate1 (inboundAcc Acc.copyWrite s 0) 0 (noteRead s (connAt s 0) 64) = .ok y u ∧
      (y.place = .home ∧ y.pa % 64 = 0 ∧ isDram y.pa = true ∧ u.lines = [] ∧ ∀ k, k < 64 → u.goodAt .home (y.pa + k) = true)) ∧
    (∃ v u, readRange (inboundAcc Acc.copyRead s 0) 0 64 (noteRead s (connAt s 0) 64) = .ok (.ok v) u ∧ v = 0) ∧
    (∀ op, op < 2 → oldestHost { s with txns := [{ x with op := op }] } 0 (op == 0) = some { x with op := op }) ∧
    (Tab.find s.rates 0 = none ∧ Tab.find [(0, ((32768 : Nat), 0))] 0 = some (32768, 0) ∧ 0 ≤ s.time.toNat ∧ s.time.toNat ≤ 0 + 1000000) ∧
    (s.defer = false ∧ s.inbox.any (fun m => m.lane == 128 + 0) = false ∧ [Inbound.read 0 0 1].any (fun m => m.lane == 128 + 0) = true) ∧
    (Tab.find s.cnpAt 0 = none ∧ Tab.find [(0, 0)] 0 = some 0 ∧ s.time.toNat < 0 + 50000 ∧ 0 + 50000 ≤ ({ s with time := 50000 } : State).time.toNat) ∧
    (let h := { s with tlb := [{ page with unit := 2000, mt := 1 }], banks := closedBank.banks }
     inboundOk h 0 0 64 = true ∧ ∃ u, readRange (inboundAcc Acc.copyRead h 0) 0 64 (noteRead h (connAt h 0) 64) = .error .wait u) :=
  ⟨by decide +kernel, by decide +kernel, by decide +kernel, by decide +kernel, by decide +kernel, meets (by decide +kernel), meetsAccess (by decide +kernel),
    by decide +kernel, by decide +kernel, by decide +kernel, by decide +kernel, by decide +kernel, waitsFor (by decide +kernel)⟩

/-- A device whose firmware does not verify, in module flash or as `bootOk` says, one whose firmware verifies (by `bootOk`: the fused digest is a free value, so that no
root key can be written out), and one with modules that do not train; a reserved context that is free, and one that is not; telemetry on; and a word that is fetched. -/
theorem witness_ThePackageStartsAndReports :
    (State.reset.bootOk = true ∧ State.reset.untrained = [] ∧ ({ State.reset with bootOk := false } : State).bootOk = false ∧
      ({ State.reset with untrained := [5, 3] } : State).untrained ≠ [] ∧ State.reset.flash = none ∧
      (let f : Flash := { firmware := [], config := [], supervisor := [], rootX := 0, rootY := 0, keys := [] }
       ({ State.reset with flash := some f } : State).flash = some f ∧ (bootImage f.firmware []).isSome = true)) ∧
    (let s : State := { with1 user with pk := [(0x822, 0x100), (0x823, 0x114)] }
     (1 : Dword).getLsbD 0 = true ∧ bitOf (s.pkr 0xC11).toNat 1 = false ∧ (0 : Dword).getLsbD 0 = false ∧ 64 ≤ (freeRecords s).length ∧ (15 < 256 ∧ 16 - min 4 (fld (s.pkr 0x823).toNat 8 3) ≤ 15 % 16)
       ∧ (s.strandAt 15).run = .free ∧ (s.strandAt 0).run ≠ .free) ∧
    (bitOf ((with1 user).pkr 0x862).toNat 0 = false ∧
      let s : State := { with1 user with pk := [(0x862, 0x70001)] }
      let a := fld (s.pkr 0x862).toNat 16 36 * 65536 + 256 * (s.sample % 2)
      bitOf (s.pkr 0x862).toNat 0 = true ∧ isDram a = true ∧ s.lines = [] ∧ s.sampleAt ≤ s.time.toNat ∧ s.time.toNat < { s with sampleAt := 5 }.sampleAt
        ∧ ∀ j, j < 4 → s.goodAt .home (a + 32 * j) = true) ∧
    (∃ f u, fetchWord { with1 user with tlb := [{ page with unit := unitFetch 0 }] } = .ok f u ∧ f = 0) ∧
    (∃ r, decode 0 = .error r) ∧ (∃ i, decode 0x08642800 = .ok i) ∧ (with1 user).st.run ≠ .free ∧
    (0x101 : BitVec 16).toNat < 0x200 :=
  ⟨by decide +kernel, by decide +kernel, by decide +kernel, meets (by decide +kernel), ⟨_, rfl⟩, ⟨_, rfl⟩, by decide +kernel, by decide⟩

/-- An idle cluster, quadrant, stack, link island and copy engine, and a busy one of each kind that can be; one supervisor strand; a package
without power; and a mean power above, at and below the cap. -/
theorem witness_IslandsFollowTheirLimits :
    let x : Island := { st := 0, req := 1, opp := 0, oppReq := 0, temp := 0, thermal := 0, cap := 1 }
    (∀ n ∈ [5, 16, 20, 36, 68],
      let s : State := { with1 user with islands := [(n, x)] }
      (s.island n).req ≠ 0 ∧ islandBusy s n = false ∧ n ≤ 75 ∧ Tab.wf s.lines = true) ∧
    (islandBusy (with1 user) 0 = true ∧ islandBusy (with1 user) 28 = true) ∧
    (let s := with1 { user with pl := 1 }
     let t : State := { s with pk := [(0x823, 0x114)], strands := [(15, s.st)] }
     supervisors t = [15] ∧ haltWaits { t with cur := 15 } = false ∧ begunAccess { t with cur := 15 } = false) ∧
    (({ with1 user with powered := false } : State).powered = false ∧ ({ with1 user with powered := false } : State).agenda = []) ∧
    (∀ p ∈ [((2500 : Nat), false, true, false), (2400, true, true, false), (2400, false, false, false), (2281, false, false, false), (2280, true, false, true)],
      let s : State := { with1 user with islands := [(3, x)], capping := p.2.1 }
      let l := (p.1 :: s.watts).take 10
      let sum := l.foldl (· + ·) 0
      let full := s.powerCap * l.length
      decide (full < sum ∨ (s.capping = true ∧ sum = full)) = p.2.2.1 ∧ (p.2.2.1 = false → decide (sum * 100 ≤ full * 95) = p.2.2.2) ∧
        (s.island 3).cap = 1 ∧ (∀ d, d < 3 → (s.island d).cap = 0) ∧ (s.island 15).cap < 3) ∧
    (∀ m, m < 2 →
      let s : State := { with1 user with islands := (List.range 16).map (fun i => (i, { x with cap := 3 * m })) }
      ∀ d, d < 16 → (s.island d).cap = 3 * m) ∧
    (x.stepAt ≤ (with1 user).time.toNat ∧ (with1 user).time.toNat < { x with stepAt := 5 }.stepAt ∧ (with1 user).wattsAt ≤ (with1 user).time.toNat
      ∧ (with1 user).time.toNat < { with1 user with wattsAt := 5 }.wattsAt) ∧
    (∀ r, ({ with1 user with powered := false } : State).agenda ≠ .event .deviceReset :: r) :=
  ⟨by decide +kernel, by decide +kernel, by decide +kernel, by decide +kernel, by decide +kernel, by decide +kernel, by decide +kernel,
    fun _ h => nomatch h⟩

/-- The boot context of the machine after reset, with `ADD x3, x4, x5`, and with a word that is no instruction, placed where it fetches; a strand whose
TIMER is due, and one whose queued work traps; a word in memory that the instruction cache does not hold; and an event that the agenda names. -/
theorem witness_StepRunsTheDecodedInstruction :
    let idle := fun (s : State) => s.powered = true ∧ s.agenda = [] ∧ s.due = [] ∧ timedTask s = none ∧ nextContext (carryAll s) = some 0
      ∧ orderOf (carryAll s) (coreOf 0) = [] ++ 0 :: [1, 2, 3]
    let timer := fun (t : State) => t.st.timerDue t.time && !underWay t
    (∀ w ∈ [0x08642800, 0],
      let s := State.reset.withFetchWord 32 w
      idle s ∧ ∃ x t, settleTurn (takeTurn 0 (carryAll s)) = .ok x t ∧ (timer t = false ∧ goesOn (fetchWord t) (fun v _ => v == BitVec.ofNat 32 w) = true)) ∧
    (let s := with1 { user with timer := true }
     idle s ∧ ∃ x t, settleTurn (takeTurn 0 (carryAll s)) = .ok x t ∧ timer t = true) ∧
    (let s := with1 { user with vq := [entry 0b100001_00011_00001_00010_000_0010_0000 0] }
     idle s ∧ begunAccess (takeTurn 0 (carryAll s)) = false ∧ ∃ x t, settleTurn (takeTurn 0 (carryAll s)) = .error (.trap x) t ∧ x.cause = cVGRANT) ∧
    (let s : State := { with1 user with strands := [(0, { user with run := .idle none }), (1, user)], order := [(0, 3)] }
     nextContext (carryAll s) = some 1 ∧ orderOf (carryAll s) 0 = [3, 0] ++ 1 :: [2] ∧ 1 ∉ [3, 0]) ∧
    (let s : State := { with1 user with tlb := [{ page with unit := unitFetch 0 }] }
     ∃ x u, xlate1 (Acc.fetch.forStrand s) s.st.pc.toNat s = .ok x u ∧
       (x.place = .home ∧ isDram x.pa = true ∧ x.pa % 4 = 0 ∧ Tab.find u.icache (codeKey (coreOf u.cur) (x.pa / 64)) = none ∧ u.lines = []
         ∧ u.goodAt .home x.pa = true)) ∧
    ∃ i r, ({ with1 user with agenda := [.event (.granuleZeroed 0 0)] } : State).agenda = .event i :: r := by
  refine ⟨?_, ⟨by decide +kernel, meets (by decide +kernel)⟩, ⟨by decide +kernel, by decide +kernel, trapsWith (by decide +kernel)⟩, by decide +kernel, meets (by decide +kernel), _, _, rfl⟩
  intro w hw
  simp only [List.mem_cons, List.not_mem_nil, or_false] at hw
  rcases hw with rfl | rfl <;> exact ⟨by decide +kernel, meets (by decide +kernel)⟩

/-- The package takes a step right after reset, and the invariants of the steps hold there. -/
theorem witness_StepsKeepTheInvariants : (∃ t, step (State.reset.withFetchWord 32 0x08642800) = .next t) ∧
    (let s := State.reset.withFetchWord 32 0x08642800
     s.memOk = true ∧ s.levelsOk = true ∧ s.pcsOk = true ∧ s.zerosOk = true) := by
  refine ⟨?_, by decide +kernel⟩
  have h : (match step (State.reset.withFetchWord 32 0x08642800) with | .next _ => true | _ => false) = true := by decide +kernel
  revert h
  cases step (State.reset.withFetchWord 32 0x08642800) with
  | next t => intro _; exact ⟨t, rfl⟩
  | fault f => intro h; exact nomatch h
  | refused r => intro h; exact nomatch h

theorem witness_IslandsWithWorkAreOn : ∃ t, step (State.reset.withFetchWord 32 0x08642800) = .next t := witness_StepsKeepTheInvariants.1


/-! ### One step on small states: the worked examples of the spec, and the corners of its rules -/

/-- The instruction goes on to a state that has the property. -/
def after (i : Instr) (s : State) (p : State → Bool) : Bool :=
  match exec i s with
  | .next t => p t
  | _ => false

/-- R49, R52: `pfx !m2, v7` leaves the latch `0x82A7_0000` and goes on to the successor. -/
theorem test_pfx_latch : after (.pfx 1 2 1 7) (with1 { user with pc := 0x10040 })
    (fun t => t.st.latch == 0x82A70000 && t.st.pc == 0x10044) = true := by decide +kernel

/-- R149, R51: `add x3, x1, x2` wraps modulo 2^64, and a lent copy takes the sum too. -/
theorem test_add_wraps : after (.add 3 1 2) (with1 { user with x := [(1, 0xFFFFFFFFFFFFFFFF), (2, 3)], latch := 0x80290000 })
    (fun t => t.st.xr 3 == 2 && t.st.xr 9 == 2 && t.st.latch == 0) = true := by decide +kernel

/-- R149: a source that is also the destination; `MULH` of −1 and −1. -/
theorem test_mulh_signed : after (.mulh 1 1 1) (with1 { user with x := [(1, 0xFFFFFFFFFFFFFFFF)] }) (fun t => t.st.xr 1 == 0) = true := by decide +kernel

/-- R150: the most negative number divided by −1 is itself, and division by zero gives all ones. -/
theorem test_div_corners : after (.div 3 1 2) (with1 { user with x := [(1, 0x8000000000000000), (2, 0xFFFFFFFFFFFFFFFF)] })
      (fun t => t.st.xr 3 == 0x8000000000000000) = true ∧
    after (.div 3 1 0) (with1 user) (fun t => t.st.xr 3 == 0xFFFFFFFFFFFFFFFF) = true := by decide +kernel

/-- The tables of the spec's walk through a span entry (R80). -/
def spanTables : State :=
  { with1 { user with csr := [(0x004, 7)], x := [(1, 0x0A123456789A)] } with
    tlb := [], pk := [(0x810, 0x100004)]
    mem := Mem.writeLE (Mem.writeLE (Mem.writeLE (Mem.writeLE (Mem.write [] 0x456786789A 0x81) 0x100038 8 0x200001) 0x200010 8 0x210001) 0x218488 8
      0x300001) 0x30A2B0 8 0x456780402E }

/-- R77 to R80: the byte at `0x0A12_3456_789A` is read at `0x45_6786_789A`, sign-extended, and the page of 2^20 bytes is held. -/
theorem test_walk_span : after (.ld 3 1 0 0 0 0) spanTables
    (fun t => t.st.xr 3 == 0xFFFFFFFFFFFFFF81 && t.tlb.all (fun e => e.base == 0x0A1234500000 && e.size == 0x100000 && e.pa == 0x4567800000)) = true := by
  decide +kernel

/-- A user queue 9 with 16 slots at `0x0050_0000`, as the spec's example of `SPAWN` has it, whose slot 3 has this ticket. -/
def spawning (ticket : Nat) : State :=
  { with1 { user with x := [(11, 0x20040)], csr := [(0x004, 7)] } with
    tlb := [{ page with unit := 0, asid := 7, base := 0x20000, pa := 0x70000 }], pk := [(0x820, 9)]
    queues := [(9, { ringQueue with base := 0x500000, logn := 4, kind := 1, ashi := 7, head := 20, tail := 35 })]
    mem := Mem.writeLE (Mem.write [] 0x70048 0x5A) 0x5000C0 8 ticket }

/-- R161: ticket 35 is returned, `TAIL` is 36, and the slot is full. -/
theorem test_spawn_appends : after (.spawn 10 11 9) (spawning 0x23)
    (fun t => t.st.xr 10 == 0x23 && (t.queues.all (fun q => q.2.tail == 36)) && t.peekLE 0x5000C0 8 == 0x8000000000000023
      && t.peekLE 0x5000C8 1 == 0x5A) = true := by decide +kernel

/-- R161: a slot whose old ticket is still full traps QUEUE with `EVAL` 9 and W0 = 3, and leaves `TAIL` and the register. -/
theorem test_spawn_full : after (.spawn 10 11 9) (spawning 0x8000000000000013)
    (fun t => t.st.cr 0x802 == BitVec.ofNat 64 cQUEUE && t.st.cr 0x803 == 9 && t.peekLE 0x20 8 == 3 && t.st.xr 10 == 0 && t.queues.all (fun q => q.2.tail == 35)) = true := by
  decide +kernel

/-- A strand with eight lanes and these vector elements (register, width, element, value). -/
def lanes (st : Strand) (l : List (Nat × Nat × Nat × Nat)) : State :=
  { with1 (l.foldl (fun st p => st.setVelem p.1 p.2.1 p.2.2.1 p.2.2.2) { st with lanes := 8 }) with grans := [(0, .held 1)] }

/-- R281, R290: row 1 of the spec's exact product, 2 and 196,511.75, is exact in f32; element 2 is unchanged. -/
theorem test_mextr_exact : after (.mextr 0 4 6 0 0xA 0)
    (lanes { user with x := [(6, 1)], csr := [(0x100, 256), (0x200, 2), (0x201, 1)],
                       tiles := [(64, { val := 2 ^ 61, tag := 0 }), (65, { val := 0x2FF9FC00 * 2 ^ 48, tag := 0 })] } [(4, 4, 2, 7)])
    (fun t => (List.range 3).map (t.st.velem 4 4) == [0x40000000, 0x483FE7F0, 7] && t.st.fflags == 0) = true := by decide +kernel

/-- R244, R245: the strips of the spec's run A: `h1` after the first, `x5` after the second, with NX. -/
theorem test_vredt_tree : after (.vredt 1 1 0 10)
    (lanes { user with csr := [(0x100, 4)] } [(1, 4, 0, 0x4B800000), (1, 4, 1, 0x3F800000), (1, 4, 2, 0x3F800000), (1, 4, 3, 0x3F800000)])
    (fun s => after (.vredt 1 1 0 10)
        { s with strands := [(0, (({ s.st with csr := Tab.set (Tab.set s.st.csr 0x100 2) 0x105 4 } : Strand).setVelem 1 4 0 0x3F800000).setVelem 1 4 1 0x3F800000)] }
        (fun t => after (.vhrd 5 1 10) t (fun u => u.st.xr 5 == 0x4B800002 && u.st.fflags == 0x20))) = true := by decide +kernel

/-- R222: −0 is of class 8, +∞ of 3, a negative normal value of 0xA, and the f16 poisons of 6 and 0xE. -/
theorem test_vclass : after (.vclass 3 1 0 8)
    (lanes { user with csr := [(0x100, 5)] } [(1, 2, 0, 0x8000), (1, 2, 1, 0x7C00), (1, 2, 2, 0xBC00), (1, 2, 3, 0x7E01), (1, 2, 4, 0xFE01)])
    (fun t => (List.range 5).map (t.st.velem 3 2) == [8, 3, 0xA, 6, 0xE]) = true := by decide +kernel

/-- R271: the MASK block of the spec's example, and the address after it. -/
theorem test_vstz_mask : after (.vstz 5 10 0 2)
    { lanes { user with x := [(10, 0x3000)], csr := [(0x100, 64)] } [(5, 4, 3, 0x102), (5, 4, 40, 0x7F000000)] with tlb := [{ page with pa := 0x30000 }] }
    (fun t => t.st.xr 10 == 0x3027 && t.peekLE 0x33000 4 == 0x002303FF && t.peekLE 0x33005 1 == 0x30 && t.peekLE 0x33018 1 == 8
      && t.peekLE 0x33024 3 == 0x7F0102) = true := by decide +kernel

/-- R459, R460: the first step of the spec's remote atomic: `x5` has the home and the tag, and the request leaves on port 13. -/
theorem test_ramo_tag : after (.ramoAdd 5 7 6 1 0)
    { with1 { user with x := [(6, 1), (7, 0x40)] } with
      tlb := [{ page with unit := 80, home := 9, glob := true, pa := 0x400000 }], nextTag := [(9, 0x123)], pk := [(0x440, 3)], mem := [(16 * 9 + 1, 0x30)],
      ports := [(12, { st := 2, peer := 9, nrt := 0, rxSeq := 0, since := 0 }), (13, { st := 2, peer := 9, nrt := 0, rxSeq := 0, since := 0 })] }
    (fun t => t.st.xr 5 == 0x90123 && t.out == [.request 13 9 0x123 2 0x400040 0 0 8 1 255]) = true := by decide +kernel

/-- R454: eight words of one line in another package are one read of 32 bytes. -/
theorem test_vld_line : after (.vldUnit 5 10 0 0 0 0 2)
    { lanes { user with x := [(10, 0x3020)], csr := [(0x100, 8), (0x101, 0x20000)] } [] with
      tlb := [{ page with home := 9, glob := true, pa := 0x400000 }], pk := [(0x440, 3)], mem := [(16 * 9 + 1, 0x10)],
      ports := [(12, { st := 2, peer := 9, nrt := 0, rxSeq := 0, since := 0 })] }
    (fun t => t.out == [.request 12 9 0 0 0x403020 0 0 32 0 (2 ^ 32 - 1)]) = true := by decide +kernel

/-- R128, R44: a privileged instruction at user level traps PRIV, and the handler of the supervisor begins. -/
theorem test_eret_at_user : after .eret (with1 user) (fun t => t.st.pl != 0 && t.st.cr 0x802 == BitVec.ofNat 64 cPRIV) = true := by decide +kernel

end Sys2Proof.Tests
end

section
/-! PROOFS. Bit fields: what `bitOf`, `fld`, `setFld` and the merge of a register's RW bits are, bit by bit (R8, R11). -/

namespace Sys2Proof.Machine

theorem bitOf_eq_testBit (v i : Nat) : bitOf v i = v.testBit i := by
  rw [Nat.testBit_eq_decide_div_mod_eq]
  exact Bool.beq_eq_decide_eq _ _

theorem fld_zero (v len : Nat) : fld v 0 len = v % 2 ^ len := by simp [fld]

theorem fld_lt (v lo len : Nat) : fld v lo len < 2 ^ len := Nat.mod_lt _ (Nat.two_pow_pos len)

theorem testBit_fld (v lo len i : Nat) : (fld v lo len).testBit i = (decide (i < len) && v.testBit (i + lo)) := by
  rw [fld, Nat.testBit_mod_two_pow, Nat.testBit_div_two_pow]

/-- Fields agree when their bits do. -/
theorem fld_congr {v w lo len : Nat} (h : ∀ i, lo ≤ i → i < lo + len → v.testBit i = w.testBit i) : fld v lo len = fld w lo len := by
  refine Nat.eq_of_testBit_eq fun i => ?_
  rw [testBit_fld, testBit_fld]
  by_cases hi : i < len
  · rw [h (i + lo) (by omega) (by omega)]
  · simp [hi]

theorem testBit_setFld (v lo len f i : Nat) :
    (setFld v lo len f).testBit i = if lo ≤ i ∧ i < lo + len then f.testBit (i - lo) else v.testBit i := by
  have hlow : v % 2 ^ lo < 2 ^ lo := Nat.mod_lt _ (Nat.two_pow_pos lo)
  have hmid : 2 ^ lo * (f % 2 ^ len) + v % 2 ^ lo < 2 ^ (lo + len) := by
    have hf : f % 2 ^ len + 1 ≤ 2 ^ len := Nat.mod_lt _ (Nat.two_pow_pos len)
    calc 2 ^ lo * (f % 2 ^ len) + v % 2 ^ lo < 2 ^ lo * (f % 2 ^ len + 1) := by rw [Nat.mul_add_one]; omega
      _ ≤ 2 ^ lo * 2 ^ len := Nat.mul_le_mul_left _ hf
      _ = 2 ^ (lo + len) := (Nat.pow_add 2 lo len).symm
  have hsum : setFld v lo len f = 2 ^ (lo + len) * (v / 2 ^ (lo + len)) + (2 ^ lo * (f % 2 ^ len) + v % 2 ^ lo) := by
    rw [setFld, Nat.mul_comm (v / _), Nat.mul_comm (f % _), Nat.add_assoc]
  rw [hsum, Nat.testBit_two_pow_mul_add _ hmid, Nat.testBit_two_pow_mul_add _ hlow, Nat.testBit_div_two_pow, Nat.testBit_mod_two_pow,
    Nat.testBit_mod_two_pow]
  rcases Nat.lt_or_ge i lo with h1 | h1
  · rw [if_pos (by omega), if_pos h1, if_neg (by omega)]
    simp [h1]
  rcases Nat.lt_or_ge i (lo + len) with h2 | h2
  · have : i - lo < len := by omega
    rw [if_pos h2, if_neg (by omega), if_pos ⟨h1, h2⟩]
    simp [this]
  · rw [if_neg (by omega), if_neg (by omega), Nat.sub_add_cancel h2]

theorem fld_setFld_same (v lo len f : Nat) : fld (setFld v lo len f) lo len = f % 2 ^ len := by
  refine Nat.eq_of_testBit_eq fun i => ?_
  rw [testBit_fld, testBit_setFld, Nat.testBit_mod_two_pow, Nat.add_sub_cancel]
  by_cases hi : i < len
  · rw [if_pos (by omega)]
  · simp [hi]

/-- A field beside the one that is set stays. -/
theorem fld_setFld_ne (v f : Nat) {lo len lo' len' : Nat} (h : lo' + len' ≤ lo ∨ lo + len ≤ lo') :
    fld (setFld v lo len f) lo' len' = fld v lo' len' := by
  refine fld_congr fun i h1 h2 => ?_
  rw [testBit_setFld, if_neg (by omega)]

/-- Storing a number in a double word keeps the fields within it. -/
theorem fld_mod_dword (v : Nat) {lo len : Nat} (h : lo + len ≤ 64) : fld (v % 2 ^ 64) lo len = fld v lo len := by
  refine fld_congr fun i _ h2 => ?_
  rw [Nat.testBit_mod_two_pow, decide_eq_true (show i < 64 by omega), Bool.true_and]

/-- A merge takes the bits of the mask from the new value, and the others of the double word from the old one. -/
theorem testBit_mergeBits (old v : Nat) {m i : Nat} (hm : m < 2 ^ 64) (hi : i < 64) :
    (mergeBits old v m).testBit i = if m.testBit i then v.testBit i else old.testBit i := by
  rw [mergeBits, Nat.testBit_or, Nat.testBit_and, Nat.testBit_and, Nat.sub_sub, Nat.add_comm 1 m, Nat.testBit_two_pow_sub_succ hm]
  cases m.testBit i <;> simp [hi]

/-- A field that the mask covers is the new value's. -/
theorem fld_mergeBits (old v : Nat) {m lo len : Nat} (hm : m < 2 ^ 64) (hl : lo + len ≤ 64) (hc : fld m lo len = 2 ^ len - 1) :
    fld (mergeBits old v m) lo len = fld v lo len := by
  refine fld_congr fun i h1 h2 => ?_
  have hbit : m.testBit i = true := by
    have := testBit_fld m lo len (i - lo)
    rw [hc, Nat.testBit_two_pow_sub_one, Nat.sub_add_cancel h1] at this
    simpa [show i - lo < len by omega] using this.symm
  rw [testBit_mergeBits old v hm (by omega), if_pos hbit]

theorem mergeBits_lt (old v : Nat) {m : Nat} (hm : m < 2 ^ 64) : mergeBits old v m < 2 ^ 64 :=
  Nat.or_lt_two_pow (Nat.and_lt_two_pow _ (by omega)) (Nat.and_lt_two_pow _ hm)

/-- A register whose every bit is RW takes the whole value. -/
theorem mergeBits_full (old : Nat) {v : Nat} (hv : v < 2 ^ 64) : mergeBits old v (bits 63 0) = v := by
  have h := fld_mergeBits old v (m := bits 63 0) (lo := 0) (len := 64) (by decide) (by decide) (by decide)
  rwa [fld_zero, fld_zero, Nat.mod_eq_of_lt hv, Nat.mod_eq_of_lt (mergeBits_lt old v (by decide))] at h

end Sys2Proof.Machine
end

section
/-! PROOFS. What a write of a control register stores, and what a read of it returns (R8, R164). -/

namespace Sys2Proof.Machine

/-- The registers with RW fields whose write does something else than to store the merged value: `SUC`, `QEN`, `TRSW`, `ICTL` and `KEYTAB`. -/
def actionRegs : List Nat := [0x408, 0x821, 0x842, 0x861, 0xC10]

/-- The registers whose maps limit a field's values. -/
def limitedRegs : List Nat := [0x106, 0x107, 0x291, 0x810, 0x822, 0x823, 0x842, 0x853, 0x860, 0xC10]

/-- The registers, but for `SST`, `SPOS` and `SEND`, that are read as something else than the stored value. -/
def computedRegs : List Nat :=
  [0x010, 0x011, 0x100, 0x101, 0x103, 0x10B, 0x292, 0x293, 0x3C2, 0x408, 0x804, 0x821, 0x824, 0x831, 0x838, 0x839, 0x83A, 0x83B, 0x842, 0x855,
    0x861, 0xC04]

/-- A write of register `n` stores the bits of `m`, as far as the register's limits allow. -/
abbrev StoresFields (n m : Nat) : Prop := (crMap n).map CrMap.rw = some m ∧ 0 < m ∧ m < 2 ^ 64 ∧ n ∉ actionRegs

/-- A read of register `n` returns what is stored. -/
abbrev ReadsStored (n : Nat) : Prop := n ∉ computedRegs ∧ ¬(0x300 ≤ n ∧ n < 0x330)

/-- The value stored of register `n`, for the package or for the strand of the turn. -/
def storedCr (s : State) (n : Nat) : Dword := if isPkg n then s.pkr n else s.st.cr n

theorem readCr_eq_storedCr (s : State) {n : Nat} (h : ReadsStored n) : readCr s n = storedCr s n := by
  obtain ⟨hc, hs⟩ := h
  simp only [computedRegs, List.mem_cons, List.not_mem_nil, or_false, not_or] at hc
  have h0 : ¬(0x300 ≤ n ∧ n < 0x310) := by omega
  have h1 : ¬(0x310 ≤ n ∧ n < 0x320) := by omega
  have h2 : ¬(0x320 ≤ n ∧ n < 0x330) := by omega
  simp only [readCr, storedCr, hc, h0, h1, h2, or_self, if_false]

theorem crLimit_of_not_limited {n : Nat} (v : Nat) (h : n ∉ limitedRegs) : crLimit n v = v := by
  simp only [limitedRegs, List.mem_cons, List.not_mem_nil, or_false, not_or] at h
  simp only [crLimit, h, if_false]

theorem storedCr_of_pk (s : State) {t : State} {n : Nat} {x : Dword} (hp : isPkg n = true) (h : t.pk = Tab.set s.pk n x) : storedCr t n = x := by
  rw [storedCr, if_pos hp, State.pkr, h, Tab.getD_set_self]

theorem storedCr_mapSt (s : State) {n : Nat} (g : Strand → Strand) (h : isPkg n = false) : storedCr (s.mapSt g) n = (g s.st).cr n := by
  rw [storedCr, h, if_neg Bool.false_ne_true, State.st_mapSt]

theorem cr_sqmWrite (i v : Nat) (st : Strand) : (sqmWrite i v st).cr (0x402 + i) = BitVec.ofNat 64 v :=
  (Strand.cr_setCrN st _ _ _).trans (if_pos rfl)

/-- The four `SQM` registers have 64 RW bits and no limits. -/
theorem sqm_map {n : Nat} (h : 0x402 ≤ n ∧ n ≤ 0x405) : crMap n = some { rw := bits 63 0 } ∧ n ∉ limitedRegs ∧ isPkg n = false := by
  obtain rfl | rfl | rfl | rfl : n = 0x402 ∨ n = 0x403 ∨ n = 0x404 ∨ n = 0x405 := by omega
  all_goals exact ⟨rfl, by decide, rfl⟩

/-- A register with RW fields is none whose map has no RW field. -/
theorem ne_of_rw_eq_zero {n k : Nat} {f g : CrMap} (hf : crMap n = some f) (h0 : 0 < f.rw) (hg : crMap k = some g) (hz : g.rw = 0) : n ≠ k := by
  rintro rfl
  rw [Option.some.inj (hf.symm.trans hg), hz] at h0
  exact absurd h0 (Nat.lt_irrefl 0)

/-- A write stores the merge of the old value and the new one, within the register's limits. -/
theorem storedCr_writeCr (s : State) {n m v : Nat} (w1 : Nat) (wo : Option Nat) (h : StoresFields n m) (hv : v < 2 ^ 64) :
    storedCr (writeCr s n v w1 wo) n = BitVec.ofNat 64 (crLimit n (mergeBits (storedCr s n).toNat v m)) := by
  obtain ⟨hmap, hpos, -, hact⟩ := h
  obtain ⟨f, hf, rfl⟩ := Option.map_eq_some_iff.1 hmap
  simp only [actionRegs, List.mem_cons, List.not_mem_nil, or_false, not_or] at hact
  obtain ⟨h408, h821, h842, h861, hC10⟩ := hact
  have h109 : n ≠ 0x109 := ne_of_rw_eq_zero hf hpos (k := 0x109) rfl rfl
  have h831 : n ≠ 0x831 := ne_of_rw_eq_zero hf hpos (k := 0x831) rfl rfl
  have hmod (x : Nat) : BitVec.ofNat 64 (x % 2 ^ 64) = BitVec.ofNat 64 x := BitVec.eq_of_toNat_eq (by simp)
  simp only [writeCr, hf, h109, h408, h842, h821, h831, h861, hC10, if_false]
  by_cases hsqm : 0x402 ≤ n ∧ n ≤ 0x405
  · obtain ⟨hf', hlim, hpk⟩ := sqm_map hsqm
    obtain rfl : _ = f := Option.some.inj (hf'.symm.trans hf)
    obtain ⟨i, rfl⟩ := Nat.exists_eq_add_of_le hsqm.1
    rw [if_pos hsqm, storedCr_mapSt s _ hpk, Nat.add_sub_cancel_left, cr_sqmWrite, crLimit_of_not_limited _ hlim, mergeBits_full _ hv]
  rw [if_neg hsqm]
  by_cases hC11 : n = 0xC11
  · subst hC11
    rw [if_pos rfl, hmod]
    refine storedCr_of_pk s rfl ?_
    cases wo with
    | none => rfl
    | some g => dsimp only; split <;> rfl
  rw [if_neg hC11]
  by_cases h807 : n = 0x807
  · subst h807
    obtain rfl : _ = f := Option.some.inj hf
    rw [if_pos rfl, storedCr_mapSt s _ rfl, crLimit_of_not_limited _ (by decide), mergeBits_full _ hv, ← hmod]
    exact (Strand.cr_setCrN s.st _ _ _).trans (if_pos rfl)
  rw [if_neg h807]
  by_cases h862 : n = 0x862
  · subst h862
    rw [if_pos rfl, hmod]
    exact storedCr_of_pk s rfl rfl
  rw [if_neg h862, if_neg (Nat.ne_of_gt hpos)]
  cases hp : isPkg n with
  | true =>
    rw [if_pos rfl, hmod, storedCr_of_pk s hp rfl, storedCr, if_pos hp]
  | false =>
    rw [if_neg Bool.false_ne_true, storedCr_mapSt s _ hp, Strand.cr_setCrN, if_pos rfl, hmod, storedCr, hp, if_neg Bool.false_ne_true]

/-- What a read of register `n` returns after a write of `v` to it. -/
def readBack (s : State) (n v : Nat) : Nat := (readCr (writeCr s n v v (some v)) n).toNat

theorem readBack_eq (s : State) {n m v : Nat} (h : StoresFields n m) (hr : ReadsStored n) (hv : v < 2 ^ 64) :
    readBack s n v = crLimit n (mergeBits (readCr s n).toNat v m) % 2 ^ 64 := by
  rw [readBack, readCr_eq_storedCr _ hr, readCr_eq_storedCr _ hr, storedCr_writeCr s v (some v) h hv, BitVec.toNat_ofNat]

/-- The RW bits of a register read as written, and its other bits as before, where no limit changes the bit. -/
theorem bitOf_readBack (s : State) {n m v i : Nat} (h : StoresFields n m) (hr : ReadsStored n) (hv : v < 2 ^ 64) (hi : i < 64)
    (hl : ∀ x, (crLimit n x).testBit i = x.testBit i) :
    bitOf (readBack s n v) i = if bitOf m i then bitOf v i else bitOf (readCr s n).toNat i := by
  have ⟨_, _, hm, _⟩ := h
  simp only [bitOf_eq_testBit]
  rw [readBack_eq s h hr hv, Nat.testBit_mod_two_pow, decide_eq_true hi, Bool.true_and, hl, testBit_mergeBits _ _ hm hi]

/-- Bits `lo + len - 1` to `lo` of register `n` are RW, and are read as they are stored. -/
abbrev WholeField (n m lo len : Nat) : Prop := StoresFields n m ∧ ReadsStored n ∧ lo + len ≤ 64 ∧ fld m lo len = 2 ^ len - 1

/-- A whole RW field reads as what its limit `F` makes of the field written. -/
theorem fld_readBack (s : State) {v : Nat} (n m lo len : Nat) (F : Nat → Nat) (h : WholeField n m lo len) (hv : v < 2 ^ 64)
    (hF : ∀ x, fld (crLimit n x) lo len = F (fld x lo len)) : fld (readBack s n v) lo len = F (fld v lo len) := by
  obtain ⟨hs, hr, hl, hc⟩ := h
  have ⟨_, _, hm, _⟩ := hs
  rw [readBack_eq s hs hr hv, fld_mod_dword _ hl, hF, fld_mergeBits _ _ hm hl hc]

/-- A whole RW field at bit 0 reads as what its limit `F` makes of the field written. -/
theorem mod_readBack (s : State) {v : Nat} (n m len : Nat) (F : Nat → Nat) (h : WholeField n m 0 len) (hv : v < 2 ^ 64)
    (hF : ∀ x, fld (crLimit n x) 0 len = F (fld x 0 len)) : readBack s n v % 2 ^ len = F (v % 2 ^ len) := by
  simpa only [fld_zero] using fld_readBack s n m 0 len F h hv hF

end Sys2Proof.Machine
end

section
/-! PROOFS. The limits that the maps set to a field's values, and what the limited registers read back (R76, R129, R198, R327, R468, R473, R479). -/

namespace Sys2Proof.Machine

/-- `x` with a field that exceeds `c` replaced by `c`. -/
def capFld (x lo len c : Nat) : Nat := if c < fld x lo len then setFld x lo len c else x

theorem fld_capFld_same (x lo : Nat) {len c : Nat} (hc : c < 2 ^ len) : fld (capFld x lo len c) lo len = min c (fld x lo len) := by
  unfold capFld
  split
  · rw [fld_setFld_same, Nat.mod_eq_of_lt hc]
    omega
  · omega

theorem fld_capFld_ne (x c : Nat) {lo len lo' len' : Nat} (h : lo' + len' ≤ lo ∨ lo + len ≤ lo') :
    fld (capFld x lo len c) lo' len' = fld x lo' len' := by
  unfold capFld
  split
  · exact fld_setFld_ne x c h
  · rfl

theorem crLimit_atbase (x : Nat) : crLimit 0x810 x = capFld x 0 5 16 := by
  rw [capFld, fld_zero]
  rfl

/-- `KEYTAB` limits its length as `ATBASE` its number of levels. -/
theorem crLimit_keytab (x : Nat) : crLimit 0xC10 x = capFld x 0 5 16 := crLimit_atbase x

theorem crLimit_trpool (x : Nat) : crLimit 0x822 x = capFld x 0 13 4096 := by
  rw [capFld, fld_zero]
  rfl

theorem crLimit_fordctl (x : Nat) : crLimit 0x823 x = capFld (setFld x 0 5 (max 10 (min 30 (fld x 0 5)))) 8 3 4 := by
  have hclamp : max 10 (min 30 (x % 2 ^ 5)) = if x % 2 ^ 5 < 10 then 10 else if 30 < x % 2 ^ 5 then 30 else x % 2 ^ 5 := by
    split
    · omega
    · split <;> omega
  rw [fld_zero, hclamp]
  rfl

theorem fld_crLimit_fordctl (x : Nat) :
    fld (crLimit 0x823 x) 0 5 = max 10 (min 30 (fld x 0 5)) ∧ fld (crLimit 0x823 x) 8 3 = min 4 (fld x 8 3) := by
  rw [crLimit_fordctl]
  constructor
  · rw [fld_capFld_ne _ _ (by decide), fld_setFld_same]
    omega
  · rw [fld_capFld_same _ _ (by decide), fld_setFld_ne _ _ (by decide)]

/-- The field of `MF`, and of `RM`: values from 5 on are stored as 0. -/
theorem fld_crLimit_mf (x : Nat) : fld (crLimit 0x106 x) 0 4 = if fld x 0 4 < 5 then fld x 0 4 else 0 := by
  have hlim : crLimit 0x106 x = if 5 ≤ x % 16 then 0 else x := rfl
  simp only [hlim, fld_zero]
  split <;> split <;> omega

theorem crLimit_rm (x : Nat) : crLimit 0x107 x = if 5 ≤ fld x 0 3 then setFld x 0 3 0 else x := by rw [fld_zero]; rfl

theorem fld_crLimit_rm (x : Nat) : fld (crLimit 0x107 x) 0 3 = if fld x 0 3 < 5 then fld x 0 3 else 0 := by
  rw [crLimit_rm]
  by_cases h : 5 ≤ fld x 0 3
  · rw [if_pos h, if_neg (by omega), fld_setFld_same, Nat.zero_mod]
  · rw [if_neg h, if_pos (by omega)]

theorem testBit_crLimit_rm (x : Nat) {i : Nat} (h : 3 ≤ i) : (crLimit 0x107 x).testBit i = x.testBit i := by
  rw [crLimit_rm]
  split
  · rw [testBit_setFld, if_neg (by omega)]
  · rfl

theorem fld_crLimit_isel (x : Nat) : fld (crLimit 0x860 x) 0 7 = min 75 (fld x 0 7) := by
  have hlim : crLimit 0x860 x = if 75 < x % 128 then 75 else x := rfl
  simp only [hlim, fld_zero]
  split <;> omega

theorem fld_crLimit_flto (x : Nat) : fld (crLimit 0x853 x) 0 40 = max (fld x 0 40) 1000000 := by
  have hlim : crLimit 0x853 x = if x % 2 ^ 40 < 1000000 then 1000000 else x := rfl
  simp only [hlim, fld_zero]
  split <;> omega

theorem fld_crLimit_nbrs (x : Nat) : fld (crLimit 0x291 x) 0 8 = if fld x 0 8 = 0 then 1 else fld x 0 8 := by
  have hlim : crLimit 0x291 x = if x % 256 = 0 then 1 else x := rfl
  have hx : fld x 0 8 = x % 256 := fld_zero x 8
  rw [hlim, hx]
  by_cases h : x % 256 = 0
  · rw [if_pos h, if_pos h]
    rfl
  · rw [if_neg h, if_neg h, hx]

theorem crLimit_trsw (x : Nat) : crLimit 0x842 x = if 16 < fld x 8 5 then setFld x 8 5 0 else x := rfl

/-! ### The limited registers read back -/

section
variable (s : State) {v : Nat} (hv : v < 2 ^ 64)
include hv

theorem mf_readBack : readBack s 0x106 v % 16 = if v % 16 < 5 then v % 16 else 0 :=
  mod_readBack s 0x106 (bits 3 0) 4 (fun f => if f < 5 then f else 0) (by decide) hv fld_crLimit_mf

theorem rm_readBack : readBack s 0x107 v % 8 = if v % 8 < 5 then v % 8 else 0 :=
  mod_readBack s 0x107 (bits 4 0 + bits 13 8) 3 (fun f => if f < 5 then f else 0) (by decide) hv fld_crLimit_rm

/-- The fields of `RM` above the limited one read as written. -/
theorem bitOf_rm_readBack {i : Nat} (h3 : 3 ≤ i) (hi : i < 64) :
    bitOf (readBack s 0x107 v) i = if bitOf (bits 4 3 + bits 13 8) i then bitOf v i else bitOf (readCr s 0x107).toNat i := by
  have hmask : ∀ i < 64, 3 ≤ i → bitOf (bits 4 0 + bits 13 8) i = bitOf (bits 4 3 + bits 13 8) i := by decide
  rw [← hmask i hi h3]
  exact bitOf_readBack s (by decide) (by decide) hv hi fun x => testBit_crLimit_rm x h3

theorem atbase_readBack :
    readBack s 0x810 v % 32 = min 16 (v % 32) ∧ readBack s 0x810 v / 65536 % 2 ^ 36 = v / 65536 % 2 ^ 36 :=
  ⟨mod_readBack s 0x810 (bits 4 0 + bits 51 16) 5 (min 16) (by decide) hv fun x => by
      rw [crLimit_atbase, fld_capFld_same x 0 (by decide)],
    fld_readBack s 0x810 (bits 4 0 + bits 51 16) 16 36 id (by decide) hv fun x => by
      rw [crLimit_atbase, fld_capFld_ne x 16 (by decide), id]⟩

theorem trpool_readBack :
    readBack s 0x822 v % 8192 = min 4096 (v % 8192) ∧ readBack s 0x822 v / 65536 % 2 ^ 36 = v / 65536 % 2 ^ 36 :=
  ⟨mod_readBack s 0x822 (bits 12 0 + bits 51 16) 13 (min 4096) (by decide) hv fun x => by
      rw [crLimit_trpool, fld_capFld_same x 0 (by decide)],
    fld_readBack s 0x822 (bits 12 0 + bits 51 16) 16 36 id (by decide) hv fun x => by
      rw [crLimit_trpool, fld_capFld_ne x 4096 (by decide), id]⟩

theorem isel_readBack : readBack s 0x860 v % 128 = min 75 (v % 128) :=
  mod_readBack s 0x860 (bits 6 0) 7 (min 75) (by decide) hv fld_crLimit_isel

theorem flto_readBack : readBack s 0x853 v % 2 ^ 40 = max (v % 2 ^ 40) 1000000 :=
  mod_readBack s 0x853 (bits 39 0) 40 (max · 1000000) (by decide) hv fld_crLimit_flto

theorem nbrs_readBack : readBack s 0x291 v % 256 = if v % 256 = 0 then 1 else v % 256 :=
  mod_readBack s 0x291 (bits 7 0) 8 (fun f => if f = 0 then 1 else f) (by decide) hv fld_crLimit_nbrs

theorem fordctl_readBack :
    readBack s 0x823 v % 32 = max 10 (min 30 (v % 32)) ∧ fld (readBack s 0x823 v) 8 3 = min 4 (fld v 8 3) :=
  ⟨mod_readBack s 0x823 (bits 4 0 + bits 10 8) 5 (fun f => max 10 (min 30 f)) (by decide) hv fun x => (fld_crLimit_fordctl x).1,
    fld_readBack s 0x823 (bits 4 0 + bits 10 8) 8 3 (min 4) (by decide) hv fun x => (fld_crLimit_fordctl x).2⟩

end

/-! ### Registers whose write or read is not the stored value -/

/-- `SUC` reads the row's count as written (R428). -/
theorem suc_readBack (s : State) (v : Nat) : readBack s 0x408 v = v % 65536 := by
  have hrow : ((s.mapSt (sucWrite v)).st.cr 0x407) = s.st.cr 0x407 := by rw [State.st_mapSt]; rfl
  have huc : Tab.get (s.mapSt (sucWrite v)).st.uc ((s.st.cr 0x407).toNat % 256) = v % 65536 := by
    rw [State.st_mapSt]; exact Tab.get_set_self _ _ _
  have hread : readBack s 0x408 v
      = (BitVec.ofNat 64 (Tab.get (s.mapSt (sucWrite v)).st.uc (((s.mapSt (sucWrite v)).st.cr 0x407).toNat % 256))).toNat := rfl
  rw [hread, hrow, huc, BitVec.toNat_ofNat, Nat.mod_eq_of_lt (by omega)]

/-- `TRSW` reads the row's `COUNT` and `SEL` as the limited value written gives them (R418). -/
theorem trsw_readBack (s : State) (v : Nat) : readBack s 0x842 v = fld (crLimit 0x842 v) 0 8 + fld (crLimit 0x842 v) 8 5 * 2 ^ 8 := by
  have hrow : (s.mapSt (trswWrite v)).st.tapRow (((s.mapSt (trswWrite v)).st.cr 0x3C1).toNat % 256)
      = { count := fld (crLimit 0x842 v) 0 8, sel := fld (crLimit 0x842 v) 8 5, scores := [] } := by
    rw [State.st_mapSt]; exact Tab.get_set_self _ _ _
  have hread : readBack s 0x842 v = (BitVec.ofNat 64 (s.mapSt (trswWrite v)).st.trst).toNat := rfl
  have hcount := fld_lt (crLimit 0x842 v) 0 8
  have hsel := fld_lt (crLimit 0x842 v) 8 5
  rw [hread, Strand.trst, hrow, BitVec.toNat_ofNat]
  dsimp only
  omega

/-- `COUNT` of `TRSW` reads as written, and a `SEL` above 16 as 0. -/
theorem trsw_fields (s : State) (v : Nat) :
    readBack s 0x842 v % 256 = v % 256 ∧ fld (readBack s 0x842 v) 8 5 = if fld v 8 5 ≤ 16 then fld v 8 5 else 0 := by
  have hcount : fld (crLimit 0x842 v) 0 8 = v % 256 := by
    rw [crLimit_trsw]
    split
    · exact (fld_setFld_ne _ _ (by decide)).trans (fld_zero v 8)
    · exact fld_zero v 8
  have hsel : fld (crLimit 0x842 v) 8 5 = if fld v 8 5 ≤ 16 then fld v 8 5 else 0 := by
    rw [crLimit_trsw]
    by_cases h : 16 < fld v 8 5
    · rw [if_pos h, if_neg (by omega), fld_setFld_same, Nat.zero_mod]
    · rw [if_neg h, if_pos (by omega)]
  have hlt := fld_lt (crLimit 0x842 v) 8 5
  rw [trsw_readBack, hcount, ← hsel]
  constructor
  · omega
  · rw [fld]; omega

/-- `ESTAT` and `MSTAT` are stored whole and read with the level of the strand in their low two bits (R128, R129). -/
theorem stat_readBack (s : State) {n : Nat} (v : Nat) (hn : n = 0x804 ∨ n = 0xC04) :
    fld (readBack s n v) 2 4 = fld v 2 4 ∧ readBack s n v % 4 = s.st.pl.toNat := by
  have hwrite : writeCr s n v v (some v) = s.mapSt (fun st => st.setCrN n (mergeBits (st.cr n).toNat v (bits 5 2) % 2 ^ 64)) := by
    rcases hn with rfl | rfl <;> rfl
  have hread (t : State) : readCr t n = BitVec.ofNat 64 (t.st.stat n) := by rcases hn with rfl | rfl <;> rfl
  have hback : readBack s n v = setFld (mergeBits (s.st.cr n).toNat v (bits 5 2) % 2 ^ 64) 0 2 s.st.pl.toNat % 2 ^ 64 := by
    rw [readBack, hread, hwrite, State.st_mapSt, Strand.stat, Strand.cr_setCrN, if_pos rfl, Strand.setCrN_pl, BitVec.toNat_ofNat,
      BitVec.toNat_ofNat, Nat.mod_mod]
  have hlevel : fld (readBack s n v) 0 2 = s.st.pl.toNat % 2 ^ 2 := by rw [hback, fld_mod_dword _ (by decide), fld_setFld_same]
  constructor
  · rw [hback, fld_mod_dword _ (by decide), fld_setFld_ne _ _ (by decide), fld_mod_dword _ (by decide),
      fld_mergeBits _ _ (by decide) (by decide) (by decide)]
  · rwa [fld_zero, Nat.mod_eq_of_lt s.st.pl.isLt] at hlevel

/-- A flag of `FFLAGS` clears where 1 is written (R198). -/
theorem fflags_readBack (s : State) (v : Nat) {i : Nat} (hi : i < 6) :
    bitOf (readBack s 0x109 v) i = (bitOf (s.st.cr 0x109).toNat i && !bitOf v i) := by
  have hback : readCr (writeCr s 0x109 v v (some v)) 0x109 = BitVec.ofNat 64 ((s.st.cr 0x109).toNat &&& (63 - (v &&& 63))) := by
    have hwrite : writeCr s 0x109 v v (some v) = s.mapSt (fun st => st.setCrN 0x109 ((st.cr 0x109).toNat &&& (63 - (v &&& 63)))) := rfl
    rw [readCr_eq_storedCr _ (by decide), hwrite, storedCr_mapSt s _ rfl, Strand.cr_setCrN, if_pos rfl]
  have hmask : (63 - (v &&& 63)).testBit i = !v.testBit i := by
    have h63 : (63 : Nat) = 2 ^ 6 - 1 := rfl
    have hlt : v &&& (2 ^ 6 - 1) < 2 ^ 6 := Nat.and_lt_two_pow _ (by decide)
    rw [h63, Nat.sub_sub, Nat.add_comm 1, Nat.testBit_two_pow_sub_succ hlt, Nat.testBit_and, Nat.testBit_two_pow_sub_one]
    simp [hi]
  simp only [bitOf_eq_testBit]
  rw [readBack, hback, BitVec.toNat_ofNat, Nat.testBit_mod_two_pow, decide_eq_true (by omega), Bool.true_and, Nat.testBit_and, hmask]

/-! ### Writes that are carried out after them -/

/-- The write of `REQ` that asks for On reads back as 0, and one of 3 leaves it (R473). -/
theorem ictlWord_ictlReq (s : State) {i : Nat} (hi : i < 76) : ictlWord (ictlReq i 0 s) i % 4 = 0 ∧ ictlReq i 3 s = s := by
  have hperm : permitted i 0 = 0 := by simp [permitted]
  have hreq : (Tab.get (ictlReq i 0 s).islands i).req = 0 := by
    simp [ictlReq, hperm, State.setIsland, show ¬75 < i by omega]
  refine ⟨?_, by simp [ictlReq]⟩
  simp only [ictlWord, hreq]
  split <;> split <;> omega

/-- `OPP` of an island of the core clock reads back as written (R473). -/
theorem ictlWord_ictlOpp (s : State) {i : Nat} (v : Nat) (hc : coreIsland i = true) :
    fld (ictlWord (ictlOpp i (fld v 4 2) s) i) 4 2 = fld v 4 2 := by
  have hopp : (Tab.get (ictlOpp i (fld v 4 2) s).islands i).oppReq = fld v 4 2 % 4 := by
    simp [ictlOpp, hc, State.setIsland]
  have hlt := fld_lt v 4 2
  generalize fld v 4 2 = f at hopp hlt ⊢
  simp only [ictlWord, hopp, fld]
  split <;> split <;> omega

/-- A write of `ICTL` leaves both requests to their events, for the island of `ISEL` (R473). -/
theorem ictl_due (s : State) (v : Nat) :
    (writeCr s 0x861 v v (some v)).due
      = s.due ++ [.ictlReq (s.pkr 0x860).toNat (v % 4), .ictlOpp (s.pkr 0x860).toNat (fld v 4 2)] :=
  List.append_assoc s.due _ _

/-- What the two requests of a write of `ICTL` make it read (R473). -/
theorem ictlWord_fields (s : State) (v : Nat) {i : Nat} (hi : i < 76) :
    (v % 4 = 0 → ictlWord (ictlReq i (v % 4) s) i % 4 = 0)
      ∧ (v % 4 = 3 → ictlWord (ictlReq i (v % 4) s) i % 4 = ictlWord s i % 4)
      ∧ (coreIsland i = true → fld (ictlWord (ictlOpp i (fld v 4 2) s) i) 4 2 = fld v 4 2) := by
  obtain ⟨hon, hkeep⟩ := ictlWord_ictlReq s hi
  exact ⟨fun h => by rw [h, hon], fun h => by rw [h, hkeep], ictlWord_ictlOpp s v⟩

/-- The table's base and length that a write of `KEYTAB` keeps (R479): the same whether they are merged and limited once or again. -/
theorem keytabWrite_readCr (s : State) (w : Nat) :
    fld (readCr (keytabWrite w s) 0xC10).toNat 0 5 = min 16 (fld w 0 5)
      ∧ fld (readCr (keytabWrite w s) 0xC10).toNat 16 36 = fld w 16 36 := by
  have hread : readCr (keytabWrite w s) 0xC10 = BitVec.ofNat 64 (mergeBits 0 (crLimit 0xC10 w) (bits 4 0 + bits 51 16)) := by
    rw [readCr_eq_storedCr _ (by decide)]
    exact storedCr_of_pk (noteRead s _ _) rfl rfl
  have hfld {lo len : Nat} (hl : lo + len ≤ 64) (hc : fld (bits 4 0 + bits 51 16) lo len = 2 ^ len - 1) :
      fld (readCr (keytabWrite w s) 0xC10).toNat lo len = fld (crLimit 0xC10 w) lo len := by
    rw [hread, BitVec.toNat_ofNat, fld_mod_dword _ hl, fld_mergeBits _ _ (by decide) hl hc]
  rw [hfld (by decide) (by decide), hfld (by decide) (by decide), crLimit_keytab]
  exact ⟨fld_capFld_same w 0 (by decide), fld_capFld_ne w 16 (by decide)⟩

/-- A write of `KEYTAB` leaves for its event the merge of the old value and the new one, within the limit of the length. -/
theorem keytab_due (s : State) (v : Nat) :
    ∃ w, (writeCr s 0xC10 v v (some v)).due = s.due ++ [.keytabWrite w] ∧ fld w 0 5 = min 16 (fld v 0 5) ∧ fld w 16 36 = fld v 16 36 := by
  refine ⟨crLimit 0xC10 (mergeBits (s.pkr 0xC10).toNat v (bits 4 0 + bits 51 16)) % 2 ^ 64, rfl, ?_, ?_⟩
  · rw [fld_mod_dword _ (by decide), crLimit_keytab, fld_capFld_same _ _ (by decide), fld_mergeBits _ _ (by decide) (by decide) (by decide)]
  · rw [fld_mod_dword _ (by decide), crLimit_keytab, fld_capFld_ne _ _ (by decide), fld_mergeBits _ _ (by decide) (by decide) (by decide)]

/-- `KEYTAB` reads back as written, its length within the limit, once the event of the write is carried out (R479). -/
theorem keytab_readsBack (s : State) (v : Nat) :
    ∃ w, (writeCr s 0xC10 v v (some v)).due = s.due ++ [.keytabWrite w] ∧ (readCr (keytabWrite w s) 0xC10).toNat % 32 = min 16 (v % 32)
      ∧ (readCr (keytabWrite w s) 0xC10).toNat / 65536 % 2 ^ 36 = v / 65536 % 2 ^ 36 := by
  obtain ⟨w, hdue, hlen, hbase⟩ := keytab_due s v
  obtain ⟨hlen', hbase'⟩ := keytabWrite_readCr s w
  refine ⟨w, hdue, ?_, hbase'.trans hbase⟩
  rw [hlen, fld_zero, fld_zero] at hlen'
  exact hlen'.trans (by omega)

/-- A write of a register without RW fields changes nothing, but for `FFLAGS` and `DDRLD`. -/
theorem writeCr_readOnly (s : State) {n : Nat} (v w1 : Nat) (wo : Option Nat) (h : (crMap n).map CrMap.rw = some 0) (h109 : n ≠ 0x109)
    (h831 : n ≠ 0x831) : writeCr s n v w1 wo = s := by
  obtain ⟨f, hf, h0⟩ := Option.map_eq_some_iff.1 h
  have hne {k : Nat} {g : CrMap} (hg : crMap k = some g) (hz : 0 < g.rw) : n ≠ k := (ne_of_rw_eq_zero hg hz hf h0).symm
  have hsqm : ¬(0x402 ≤ n ∧ n ≤ 0x405) := fun hs => by
    rw [(sqm_map hs).1] at h
    exact absurd h (by decide)
  simp only [writeCr, hf, h0, h109, h831, hsqm, hne (k := 0x408) rfl (by decide), hne (k := 0x842) rfl (by decide),
    hne (k := 0x821) rfl (by decide), hne (k := 0x861) rfl (by decide), hne (k := 0xC10) rfl (by decide), hne (k := 0xC11) rfl (by decide),
    hne (k := 0x807) rfl (by decide), hne (k := 0x862) rfl (by decide), if_true, if_false]

/-- The stream registers `SST`, `SPOS` and `SEND` have no RW field (R374). -/
theorem rw_stream {n : Nat} (h1 : 0x300 ≤ n) (h2 : n < 0x330) : (crMap n).map CrMap.rw = some 0 := by
  have hall : ∀ k < 0x30, (crMap (0x300 + k)).map CrMap.rw = some 0 := by decide
  obtain ⟨k, rfl⟩ := Nat.exists_eq_add_of_le h1
  exact hall k (by omega)

end Sys2Proof.Machine
end

section
/-! PROOFS. The registers read back what their fields store. -/

namespace Sys2Proof.Machine

/-- Settles O26: every plain register stores the merge of its RW bits (`storedCr_writeCr`) and reads it back; the limited fields by what `crLimit`
makes of them; the others by their own write and read. -/
theorem registersReadBackTheirFields : Obligations.RegistersReadBackTheirFields := by
  intro s v hv back
  have hback (n : Nat) : back n = readBack s n v := rfl
  simp only [hback]
  refine ⟨fun p hp i hi => ?_, mf_readBack s hv, rm_readBack s hv, fun i h3 hi => bitOf_rm_readBack s hv h3 hi,
    (atbase_readBack s hv).1, (atbase_readBack s hv).2, (trpool_readBack s hv).1, (trpool_readBack s hv).2, isel_readBack s hv,
    by rw [suc_readBack, Nat.mod_mod], (trsw_fields s v).1, (trsw_fields s v).2, fun n hn => stat_readBack s v (by simpa using hn),
    ictl_due s v, fun i hi => ictlWord_fields s v hi, keytab_readsBack s v, flto_readBack s hv, nbrs_readBack s hv, (fordctl_readBack s hv).1,
    (fordctl_readBack s hv).2, fun n hn => ?_, fun n h1 h2 => ?_, fun i hi => fflags_readBack s v hi⟩
  · obtain ⟨hs, hr, hl⟩ : StoresFields p.1 p.2 ∧ ReadsStored p.1 ∧ p.1 ∉ limitedRegs := by
      revert p
      decide
    exact bitOf_readBack s hs hr hv hi fun x => by rw [crLimit_of_not_limited x hl]
  · obtain ⟨hrw, h109, h831⟩ : (crMap n).map CrMap.rw = some 0 ∧ n ≠ 0x109 ∧ n ≠ 0x831 := by
      revert n
      decide
    exact writeCr_readOnly s v v (some v) hrw h109 h831
  · exact writeCr_readOnly s v v (some v) (rw_stream h1 h2) (by omega) (by omega)

end Sys2Proof.Machine
end
